-- ==== Sys2Proof/Word.lean ====
section
/-!
DEFINITION. Words, sparse tables and bit fields: the plainest types the model is written in.
Bit 0 is the least significant bit and byte order is little-endian (spec/00_scope.md, Notation).
-/

namespace Sys2Proof

abbrev Byte := BitVec 8
abbrev W16 := BitVec 16
abbrev W32 := BitVec 32
abbrev W48 := BitVec 48
abbrev W64 := BitVec 64

/-- A table of entries by number, of which only the entries written so far are listed; what an
unlisted number reads as is given where the table is read. -/
abbrev Tbl (α : Type) := List (Nat × α)

namespace Tbl

/-- Entry `i`, or `d` where the table lists none. -/
def get {α : Type} (d : α) : Tbl α → Nat → α
  | [], _ => d
  | (k, v) :: t, i => if k = i then v else get d t i

/-- The table with entry `i` written; the numbers stay in rising order where they were. -/
def set {α : Type} : Tbl α → Nat → α → Tbl α
  | [], i, v => [(i, v)]
  | (k, w) :: t, i, v =>
    if i < k then (i, v) :: (k, w) :: t
    else if i = k then (i, v) :: t
    else (k, w) :: set t i v

/-- The table without entry `i`. -/
def del {α : Type} (t : Tbl α) (i : Nat) : Tbl α := t.filter (fun e => e.1 != i)

/-- Entry `i` where the table lists one. -/
def get? {α : Type} : Tbl α → Nat → Option α
  | [], _ => none
  | (k, v) :: t, i => if k = i then some v else get? t i

end Tbl

/-- Bits `[hi:lo]` of a word, as a number. -/
def bits {n : Nat} (w : BitVec n) (hi lo : Nat) : Nat := (w.toNat >>> lo) % 2 ^ (hi + 1 - lo)

/-- Bit `i` of a word. -/
def bitAt {n : Nat} (w : BitVec n) (i : Nat) : Bool := w.getLsbD i

/-- One or zero. -/
def b2n (b : Bool) : Nat := if b then 1 else 0

/-- A word with bit `i` set. -/
def setBit {n : Nat} (w : BitVec n) (i : Nat) : BitVec n := w ||| (1#n <<< i)

/-- A word with bit `i` clear. -/
def clrBit {n : Nat} (w : BitVec n) (i : Nat) : BitVec n := w &&& ~~~(1#n <<< i)

/-- The number a field of `w` bits stands for in two's complement. -/
def signedOf (w v : Nat) : Int := if v < 2 ^ (w - 1) then (v : Int) else (v : Int) - (2 ^ w : Nat)

/-- Add one, stopping at `top`. -/
def satInc (top v : Nat) : Nat := if v < top then v + 1 else v

end Sys2Proof
end

