-- ==== Sys2Proof/Syntax.lean ====
section
/-!
DEFINITION. The commands of the block: one constructor of `Instr` per row of spec/opcode_table.json, in the
table's order, with the operands the row's rule speaks of. The table gives no operand fields (spec/98_reader.md:
"n_rows_with_fields": 0); the operands are the model's (DESIGN CHOICE, notes/assumptions/1.md).
-/

namespace Sys2Proof

/-- Owners of the cipher engine in the coding of `CIP_LOCK` (R333), highest rank last (R322). -/
inductive Owner where
  | host | movers | mp | far
  deriving DecidableEq, Repr

/-- Registers by name and instance (the register tables of every chapter of spec/). The offsets inside a register
block are nowhere in the spec, so an access names its register, or an offset that the part maps to one
(notes/assumptions/4.md). -/
inductive Reg where
  | arrStatus (e : Fin 80) | arrErr (e : Fin 80) | arrBank (e : Fin 80) | arrTile (e : Fin 80)
  | arrAccErr (e : Fin 80)
  | eleStatus (e : Fin 80) | eleErr (e : Fin 80) | eleSeedLo (e : Fin 80) | eleSeedHi (e : Fin 80)
  | eleStep (e : Fin 80)
  | memCringBase (p : Fin 8) | memCringCfg (p : Fin 8) | memCringHead (p : Fin 8) | memCringTail (p : Fin 8)
  | memCctl (p : Fin 8) | memCthr0 (p : Fin 8) | memCthr1 (p : Fin 8) | memCstat (p : Fin 8)
  | memCovf (p : Fin 8)
  | memErr (p : Fin 8) | memErraddrLo (p : Fin 8) | memErraddrHi (p : Fin 8) | memEcnt (p : Fin 8)
  | memGilCtl
  | tipStatus (p : Fin 8) | tipFence (p : Fin 8) | tipLedger (p : Fin 8)
  | bwrClass (p : Fin 8) (c : Fin 8) | bwrStat (p : Fin 8)
  | calStatus | calErr | calPc | calCtl | calBankver (b : Fin 2) | calSpan (n : Fin 8) | calLoop (n : Fin 4)
  | calImgLo | calImgHi | calScycLo | calScycHi | calStop | calTok (n : Fin 64) | calTokpost | calTokdisc
  | calWdog | calWdgStat | calRprStat | calFillCtl | calFillBase | calFillSize | calFerr
  | calFtok (n : Fin 64) | calFloop (n : Fin 4)
  | updGtab (p : Fin 8) | updCrec (p : Fin 8) | updNoise (p : Fin 8) | updPark (p : Fin 8)
  | updParkSize (p : Fin 8) | updParkStat (p : Fin 8) | updParkLedger (p : Fin 8)
  | updParityLo (p : Fin 8) | updParityHi (p : Fin 8) | updRstate (p : Fin 8) (n : Fin 4)
  | updSeedLo (p : Fin 8) | updSeedHi (p : Fin 8) | updErr (p : Fin 8) | updCnt (p : Fin 8)
  | lnkStatus (n : Fin 12) | lnkCnt (n : Fin 12) | lnkLedger (n : Fin 12) (v : Fin 8)
  | lnkVcwtLo | lnkVcwtHi
  | setState (s : Fin 64) | setLedger (s : Fin 64) | setCnt (s : Fin 64) | setErr
  | cmpStat (p : Fin 8) | cmpSlot (p : Fin 8) (k : Fin 2) | cmpErr (p : Fin 8) | cmpCnt (p : Fin 8)
  | farStatus | farRound | farErr | farCnt | farPort (n : Fin 2) | farTickLo | farTickHi | farPpsLo | farPpsHi
  | farPpsCnt | farSbuf | farRbuf | farFrec (p : Fin 8)
  | cipLock | cipSlotLo | cipSlotHi | cipLockto | cipErr | cipCnt
  | bndStatus | bndMb | bndLanes | bndErr | bndCnt | bndSeedLo | bndSeedHi
  | folStatus
  | mbxLink | mbxIrqStat | mbxHerr | mbxTrack | memSlowWin (n : Fin 16) | memSlowHpa (n : Fin 16)
  | mbxCmd (i : Fin 16) | mbxPlen (i : Fin 16) | mbxDoorbell (i : Fin 16) | mbxStatus (i : Fin 16)
  | mbxArgLo (i : Fin 16) (n : Fin 8) | mbxArgHi (i : Fin 16) (n : Fin 8)
  | pwrStat | pwrCap | pwrCtl | pwrDraw | pwrClass | pwrOp | pwrTrim | pwrTemp | pwrWakeLo | pwrWakeHi
  | pwrAonStat | pwrRail
  | rstPstate | rstPolicy | rstFence | rstFledger | rstSbwdog | rstMpwdog
  | secBoot | secSvn | secFwslot
  deriving DecidableEq, Repr

/-- A write of a whole line: its 256 bytes and the regulator class of its requester (R139, R143). -/
structure LineWrite where
  cls : Fin 8
  bytes : List Byte
  deriving DecidableEq, Repr

/-- An access to HBM of a requester that no other row of the table names: its class, its direction, its place in the
partition's window and its length (R132, R143). -/
structure HbmAccess where
  cls : Fin 8
  write : Bool
  off : Nat
  len : Nat
  deriving DecidableEq, Repr

/-- What a BAR0 access reaches: an offset, which the layout of R373 decodes, or a place by its name (R373, R385, R365). -/
inductive Bar0Target where
  | folio (off : Nat)
  | mailboxPayload (i : Fin 16) (off : Nat)
  | msix (off : Nat)
  | pba (off : Nat)
  | reg (r : Reg)
  | cipherBank (o : Owner) (off : Nat)
  | reserved
  | offset (off : Nat)
  deriving DecidableEq, Repr

/-- Levels of the inputs the wake and reset conditions look at (R399, R411, R412, R448): `COOLANT_OK`, the fourteen
power-goods in the bit order of `PWR_RAIL.GOOD` and the hottest junction in °C. -/
structure Levels where
  coolant : Bool
  rails : BitVec 14
  junction : Nat
  deriving DecidableEq, Repr

/-- What happens at the test access port: an instruction register loaded, or a level of `TRST_N` (R448, R449). -/
inductive TapOp where
  | load (ir : Nat)
  | trst (low : Bool)
  deriving DecidableEq, Repr

/-- One 10 µs reading of the rail monitors by class (R401, R23). -/
structure Reading where
  compute : Nat
  memory : Nat
  links : Nat
  unclassed : Nat
  deriving DecidableEq, Repr

/-- What a link training ends with (R236, R369): whether the lanes trained, and the peer's report. -/
structure TrainReport where
  ok : Bool
  serial : W64
  peerLink : Nat
  lanes : Nat
  /-- the peer's receive-buffer grants, one per channel -/
  grants : List Nat
  deriving DecidableEq, Repr

/-- One frame at a far port: the 48-byte clear header, the encrypted body and the 16-byte tag (R306). -/
structure Frame where
  header : List Byte
  body : List Byte
  tag : List Byte
  deriving DecidableEq, Repr

/-- The commands: the rows of spec/opcode_table.json in their order. -/
inductive Instr where
  | mbxDoorbellRing (i : Fin 16) (v : W32)
  | commandTakeUp
  | commandTimeout (i : Fin 17)
  | sidebandRequest (type vendor : Nat) (fields payload : List Byte)
  | devQuery
  | folBoardWrite
  | boardWriteComplete
  | folRead
  | memSlowMap
  | streamLoadBank
  | bankLoadComplete (b : Fin 2)
  | streamStart
  | streamResume
  | streamEnd
  | streamEndComplete
  | streamFillStart
  | streamFillStop
  | fillStopComplete
  | setConfig
  | setRelease
  | setFreeze
  | setThaw
  | setResolve
  | setRedo
  | setDiscard
  | setQuery
  | lnkConfig
  | lnkRetrain
  | cmpTableLoad
  | cmpTableLoadComplete (k : Fin 2)
  | cmpResCfg
  | cmpResClear
  | cmpEncode
  | cmpEncodeComplete
  | updGroupLoad
  | updGroupLoadComplete (p : Fin 8)
  | updRuleLoad
  | updParkCfg
  | updBaseCfg
  | updSetQuery
  | updRollForward
  | farConfig
  | farGroupLoad
  | farPartnerSet
  | farPartnerDel
  | farJoin
  | farJoinComplete
  | farEnable
  | farDisable
  | farRoundQuery
  | farTimeQuery
  | cipBind
  | cipUnbind
  | cipUnwrap
  | cipSlotClear
  | cipFarInstall
  | cipFarSwitch
  | cipQuery
  | cipMove
  | bndFsCfg
  | bndFilterLoad
  | bndColourLoad
  | bndJobSubmit
  | bndJobStop
  | bndJobStopComplete
  | bndQuery
  | pwrCapSet
  | pwrPriority
  | pwrPavane
  | pwrQuery
  | pwrStandby
  | pwrWake (lv : Levels)
  | rstPartition
  | rstPartActivate (lv : Levels)
  | partitionActivateComplete (p : Fin 8)
  | rstDevice (lv : Levels)
  | rstQuery
  | secFwStage
  | secFwStageComplete
  | secFwActivate
  | registerWrite (r : Reg) (v hwSet : W32)
  | calTokpostWrite (v : W32)
  | bankxorWrite (v : W32)
  | calWdogWrite (v : W32)
  | calSpanWrite (n : Fin 8) (v : W32)
  | calLoopWrite (n : Fin 4) (v : W32)
  | memCringCfgWrite (p : Fin 8) (v : W32)
  | memCringBaseWrite (p : Fin 8) (v : W32)
  | memCringTailWrite (p : Fin 8) (v : W32)
  | memGilCtlWrite (v : W32)
  | bwrClassWrite (p : Fin 8) (c : Fin 8) (v : W32)
  | tipFenceGo (p : Fin 8) (v : W32)
  | reqHost
  | relHost
  | cipGo (o : Owner) (v : W32)
  | cipLocktoWrite (v : W32)
  | measureFetchRequest
  | measureFetchArrive
  | measureIssue (cycles : Nat)
  | spanEnd
  | controlNop
  | halt
  | streamHaltComplete
  | jump
  | loop
  | setloop
  | rseg
  | replay
  | replayMeasureDeliver
  | verchk
  | step
  | repriseStart
  | repriseEnd
  | tokenPostArrive
  | heldPostCounted (fill : Bool) (token : Fin 64)
  | streamWatchdogBite
  | fillWatchdogBite
  | fillMeasureIssue
  | reclaimStart (c : Fin 8)
  | reclaimComplete (c : Fin 8)
  | arrayPass (e : Fin 80)
  | arrayLoad (e : Fin 80)
  | arrayPassLoad (e : Fin 80)
  | arrayElem (e : Fin 80)
  | weightLoadComplete (e : Fin 80) (a : Fin 8)
  | rowStep (e : Fin 80) (a : Fin 8)
  | bankWrite (e : Fin 80)
  | elementRun (e : Fin 80)
  | elementDrain (e : Fin 80)
  | elementSync (e : Fin 80)
  | drainDescriptorsTaken (e : Fin 80)
  | elementRowRead (e : Fin 80)
  | elementOutputWrite (e : Fin 80)
  | elementActionComplete (e : Fin 80)
  | copy (c : Fin 8) (m : Fin 11)
  | zero (c : Fin 8) (m : Fin 11)
  | seal (c : Fin 8) (m : Fin 11)
  | moverActionStart (c : Fin 8) (m : Fin 11)
  | moverActionComplete (c : Fin 8) (m : Fin 11)
  | setEnqueue (c : Fin 8)
  | expandEnqueue (c : Fin 8)
  | spanld (c : Fin 8)
  | spanldWrite (c : Fin 8)
  | expanderStart (p : Fin 8) (x : Fin 4)
  | expanderComplete (p : Fin 8) (x : Fin 4)
  | wholeLineWrite (p : Fin 8) (line : Nat) (data : LineWrite)
  | partialWrite (p : Fin 8) (addr : Nat) (data : List Byte) (cls : Fin 8)
  | tipinIdleFlush (p : Fin 8) (line : Nat)
  | tipinLineFreed (p : Fin 8) (line : Nat)
  | tipinFenceComplete (p : Fin 8)
  | hbmRequestGrant (p : Fin 8) (reqs : List HbmAccess)
  | censusRecordWrite (p : Fin 8)
  | censusMergeWrite (p : Fin 8)
  | updateChunkArrive (p : Fin 8)
  | updateChunkApplied (p : Fin 8)
  | parkStateArrive (p : Fin 8) (slot : Nat)
  | parkWritesComplete (p : Fin 8) (slot : Nat)
  | roundApplied (p : Fin 8) (k : Fin 64)
  | roundCommit (p : Fin 8) (k : Fin 64)
  | commitRecordVisible (p : Fin 8) (k : Fin 64)
  | roundAbort (p : Fin 8) (k : Fin 64)
  | linkTraining (n : Fin 12) (r : TrainReport)
  | dataFlitReceive (n : Fin 12) (frame : BitVec 128) (payload : List Byte)
  | idleFlitReceive (n : Fin 12) (frame : BitVec 128) (payload : List Byte)
  | nakReceive (n : Fin 12) (frame : BitVec 128) (payload : List Byte)
  | retrainTimeout (n : Fin 12)
  | laneHalveMarker (n : Fin 12)
  | setDescriptorStart (k : Fin 64)
  | chunkReceive (n : Fin 12) (vc : Fin 8)
  | wcredReceive (n : Fin 12) (vc : Fin 8)
  | voteEnter (k : Fin 64)
  | voteReceive (n : Fin 12) (vc : Fin 8)
  | abortReceive (n : Fin 12) (vc : Fin 8)
  | nackReceive (n : Fin 12) (vc : Fin 8)
  | hopTimeout (k : Fin 64)
  | freezeBoundary (k : Fin 64)
  | farSelect
  | farSelectComplete
  | farDeadline
  | farApply
  | chotinData (port : Fin 2) (f : Frame)
  | chotinSack (port : Fin 2) (f : Frame)
  | chotinProbe (port : Fin 2) (f : Frame)
  | chotinProbeReply (port : Fin 2) (f : Frame)
  | chotinJoinReq (port : Fin 2) (f : Frame)
  | chotinBulk (port : Fin 2) (f : Frame)
  | chotinBulkEnd (port : Fin 2) (f : Frame)
  | chotinHello (port : Fin 2) (f : Frame)
  | chotinLeave (port : Fin 2) (f : Frame)
  | sackTimer (entry : Nat)
  | rtoExpiry (entry seg : Nat)
  | probeTimer
  | helloTimer (entry : Nat)
  | silenceTimeout (entry : Nat)
  | epochOverlapEnd (entry : Nat)
  | ppsEdge (sub : Fin 64)
  | farPortDown (n : Fin 2)
  | neighborSolicitation (port : Fin 2) (target : BitVec 128)
  | echoRequest (port : Fin 2) (dst : BitVec 128) (data : List Byte)
  | pauseFrame (port : Fin 2)
  | cipLockGrant
  | cipLockWaitTimeout
  | cipLockIdleRevoke
  | cipMessageDone
  | clipStart (lane : Fin 32)
  | clipDecodeDone (lane : Fin 32)
  | bufferHeaderPoll (buf : Fin 16)
  | pieceHeaderWrite (piece : Nat)
  | pieceHandoff
  | jobComplete
  | powerSample (r : Reading)
  | controlStep
  | operatingPointChangeDone
  | dutyGateEnd (cycles : Nat)
  | pwrBrakeAssert
  | pwrBrakeRelease
  | thermalThreshold (temp : Nat) (sensor : Fin 20)
  | thermalTrip (temp : Nat) (sensor : Fin 20)
  | coolantLoss
  | powerGoodFall (rail : Fin 15)
  | aonPowerGood (lv : Levels)
  | aonPowerLost
  | refclkInterrupt
  | tickCompareWake (lv : Levels)
  | devResetAssert
  | devResetRelease (lv : Levels)
  | perstAssert
  | perstRelease (width rate : Nat)
  | fenceStart (p : Fin 8)
  | drainWindowEnd (p : Fin 8) (errAnswered replies : Nat)
  | partitionResetDone (p : Fin 8)
  | deviceWarmReset
  | serviceBusWatchdogBite (who : Fin 7)
  | mpWatchdogBite
  | janteRestartDone
  | bootKeysDerived (pufOk : Bool)
  | imageSelect (survives : Bool)
  | folioCheck
  | hbmTrained (bad : List (Fin 16))
  | memoryTestDone (bad : List (Fin 16))
  | linksTrained
  | dynamicPartSigned
  | bar0Access (t : Bar0Target) (size : Nat) (write : Bool) (data : W64)
  | bar2Read (addr len : Nat)
  | bar2Write (addr : Nat) (data : List Byte)
  | cxlMemRead (addr : Nat)
  | cxlMemWrite (addr : Nat) (data : List Byte)
  | hostLineTake (line : Nat) (exclusive : Bool)
  | birspReceive (line : Nat) (data : Option (List Byte))
  | hostWriteback (line : Nat) (data : List Byte)
  | slowTierCompletion (id : Nat) (ok : Bool) (data : List Byte)
  | doeRequest (type : Nat) (data : List Byte)
  | doeAbort
  | getVersion
  | getCapabilities
  | negotiateAlgorithms
  | getDigests
  | getCertificate
  | challenge
  | getMeasurements
  | tapInstruction (ir : TapOp)
  | h2dSnoop (addr : Nat)
  | cxlLinkDown
  | farPortUp (n : Fin 2)
  | refclkReturn
  | farPortDiscard (port : Fin 2)
  | chotinReservedFrame (port : Fin 2) (f : Frame)
  deriving DecidableEq, Repr

end Sys2Proof
end

