-- ==== Sys2Proof/Config.lean ====
section
/-!
DEFINITION. What the spec leaves open: constants of a part and free values. None has a body, so no proof can rest on a
value of one (notes/assumptions/5.md).
-/

namespace Sys2Proof.Config

/-! ### Facts of a part (R432-R434, R361, R365) -/

/-- The corrected response of the physical unclonable function (R433). -/
opaque pufResponse : List Byte

/-- The Lamnak root key in the boot ROM (R432): x then y. -/
opaque lamnakRoot : List Byte

opaque bootRom : List Byte
opaque bootRomRevision : Nat

/-- The Jante image in slot 0 as the part leaves production (R435). -/
opaque factoryImage : List Byte

/-- The static part's own data: SERIAL, STEPPING, MACs, KEYID, and R and S of SIG. -/
opaque serial : List Byte
opaque stepping : Nat
opaque macs : List Byte

/-- The IPv6 address of a far port (R292). -/
opaque farAddr : Nat → BitVec 128
opaque sigKeyId : List Byte
opaque sig : List Byte

/-- Offset and size of a register block by KIND and INSTANCE (R365). -/
opaque regBase : Nat → Nat → Nat
opaque regSize : Nat → Nat → Nat
/-- The register at an offset of BAR0 in the register blocks (R365, R373). -/
opaque regAt : Nat → Option Reg

/-- The vendor identifier of the sideband's messages (R390). -/
opaque mctpVendor : Nat

/-- DER certificates of the configuration flash (R432, R434): the root's own, those from the root to the production key a
KEYID names, and those of the device CA and the identity; and the object identifier of the Lamnak extension. -/
opaque rootCert : List Byte
opaque productionChain : List Byte → List (List Byte)
opaque deviceChain : List (List Byte)
opaque lamnakExtension : List Byte

/-- What a cell of the boundary register holds (R449). -/
opaque boundaryCell : Nat → Bool

/-- `CTExponent` of the SPDM CAPABILITIES response (R442). -/
opaque ctExponent : Nat

/-! ### Fresh free values (R360, R433, R442) -/

/-- The `n`-th number drawn at random: start identifiers, signature nonces and SPDM nonces. -/
opaque random : Nat → Nat

/-- Where an access to the global-interleave window leads after a change under way (R135). -/
opaque gilPlace : Nat → Nat → Nat

/-- What a period of the clock brings to memory, by the number of the period (R128, R131): words of SRAM with a single-bit
and a double-bit error, and an atom a stack reports uncorrectable. -/
opaque sramFlip : Nat → Option Nat
opaque sramDouble : Nat → Option Nat
opaque hbmBroken : Nat → Option Nat
/-- A word of the action tables that meets a single-bit or a double-bit error: bank B, kind, unit and index (R128, R170). -/
opaque tableFlip : Nat → Option (Bool × Nat × Nat × Nat)
opaque tableDouble : Nat → Option (Bool × Nat × Nat × Nat)

/-- How many pieces of a mover action were written when it was suspended (R201). -/
opaque moverReached : Nat → Nat

/-! ### Codes of far-exchange answers (R388, R314) -/

/-- Byte `i` of the 16-byte summary of FAR_ROUND_QUERY, by EN, phase, round, the last closed round plus one, forced and
void. -/
opaque farSummary : Bool → Nat → Nat → Nat → Bool → Bool → Nat → BitVec 8

/-- The state byte of FAR_TIME_QUERY, by whether an estimate is held, holdover, and the partner's state number in the
order of R304. -/
opaque farTimeState : Bool → Bool → Nat → BitVec 8

/-- Value `i` of a colour entry whose 48-byte payload does not give it (R345, R388). -/
opaque colourRest : Nat → Nat → W32

/-! ### Video (R334-R340) -/

/-- The profile a stream is of, as R334 lists them and R335 excludes them. A Baseline stream without FMO and ASO is a
Constrained Baseline one. -/
inductive VideoProfile where
  | mpeg2Main | mpeg1 | mpeg2Chroma422 | mpeg2High | mpeg2Snr | mpeg2Spatial
  | constrainedBaseline | h264Main | h264High | baselineFmoAso | high10 | high422 | high444 | h264Intra | svc | mvc
  | hevcMain | hevcMain10 | hevcStill | hevcRange | hevcScreen | hevcScalable | hevcMultiview | hevc3d
  | av1Main | av1High | av1Professional | other
  deriving DecidableEq, Repr, Inhabited

/-- What a range begins with (R337). -/
inductive VideoStart where
  | closedGop | idr | irap | keyFrame | other
  deriving DecidableEq, Repr, Inhabited

/-- What the standards say of the bytes a lane has read of a stream. -/
structure VideoFacts where
  /-- the form of R337: elementary stream, Annex B, or low-overhead OBUs with temporal delimiters -/
  form : Bool
  /-- the first picture, and whether the sequence header or parameter sets the pictures need are there -/
  start : VideoStart
  headers : Bool
  /-- syntax and semantics of the standard are kept -/
  legal : Bool
  /-- every reference a picture needs is there -/
  refs : Bool
  profile : VideoProfile
  /-- ten times the level; MPEG-2 has 10 Low, 20 Main, 30 High 1440 and 40 High -/
  level : Nat
  highTier : Bool
  /-- AV1's large-scale tile decoding -/
  largeTile : Bool
  /-- 0 monochrome, 1 for 4:2:0, 2 for 4:2:2, 3 for 4:4:4 -/
  chroma : Nat
  depth : Nat
  width : Nat
  height : Nat
  /-- coded luma samples of a picture, before cropping (R340) -/
  coded : Nat
  /-- the decoded picture buffer the sequence signals -/
  dpb : Option Nat
  /-- AV1 film grain parameters are present (R335) -/
  grain : Bool
  /-- pictures output in display order, leading pictures discarded -/
  pictures : Nat
  deriving DecidableEq, Repr, Inhabited

/-- How picture `k` in display order was coded: as a frame, or as a field pair, bottom field first or not. -/
structure VideoCoding where
  pair : Bool
  bottomFirst : Bool
  deriving DecidableEq, Repr, Inhabited

/-- Bytes of a range a lane reads to output a picture: codec, range, picture (R339). -/
opaque videoUsed : Nat → List Byte → Nat → Nat
opaque videoFacts : Nat → List Byte → VideoFacts
opaque videoCoding : Nat → List Byte → Nat → VideoCoding
/-- A sample of a picture coded as a frame: codec, bytes, picture, plane, x and y; film grain is not applied (R335). -/
opaque videoSample : Nat → List Byte → Nat → Nat → Nat → Nat → Nat
/-- A sample of a field of a pair, the first coded being field 0: codec, bytes, picture, field, plane, x and y. -/
opaque videoField : Nat → List Byte → Nat → Nat → Nat → Nat → Nat → Nat
/-- A byte of a lane's frame store, whose layout the spec does not give: codec, bytes and place (R340). -/
opaque videoStore : Nat → List Byte → Nat → Byte

end Sys2Proof.Config
end

