-- ==== Sys2Proof/Machine/Numbers.lean ====
section
/-!
DEFINITION. Exact values, the format codes and the conversions of spec/02_number_formats.md (R26-R46).
A value is an exact rational with a sign, an infinity or a NaN; every change of encoding rounds once.
-/

namespace Sys2Proof

/-- An exact value: the magnitude of a finite value is `num / den`, and a zero keeps its sign (R28-R30). -/
inductive Val where
  | nan
  | inf (neg : Bool)
  | fin (neg : Bool) (num den : Nat)
  deriving DecidableEq, Repr

/-- The coded formats (R26). -/
inductive Fmt where
  | fp32 | bf16 | fp16 | e4m3 | e5m2 | int8 | int4 | int2 | t2 | g4
  | mxe4m3 | mxe5m2 | mxe3m2 | mxe2m3 | mxe2m1 | mxint8 | e4m4u | f48
  deriving DecidableEq, Repr

/-- Dot-depth classes (R26, R27). -/
inductive FmtClass where
  | wide | eight | four | ternary | expanded | none
  deriving DecidableEq, Repr

/-- Rounding modes of `RND` (R38, R40, R44). -/
inductive Rnd where
  | rne | rtz | sr
  deriving DecidableEq, Repr

/-- What a converted element counts as in a census (R42). -/
inductive Count where
  | none | saturated | flushed | nan
  deriving DecidableEq, Repr

/-- A scalar float encoding (R28): fraction and exponent widths, bias, whether it has a sign, the magnitude code of
its largest finite value, and the magnitude codes of infinity and of the canonical NaN where it has them (R30). -/
structure Flt where
  frac : Nat
  ebits : Nat
  bias : Nat
  signed : Bool
  maxCode : Nat
  infCode : Option Nat
  nanCode : Option Nat
  deriving DecidableEq, Repr

namespace Machine

/-! ### Exact arithmetic -/

/-- A finite value in lowest terms. -/
def valMk (neg : Bool) (num den : Nat) : Val :=
  let g := Nat.gcd num den
  .fin neg (num / g) (den / g)

/-- `(-1)^neg * sig * 2^ex`. -/
def valDyadic (neg : Bool) (sig : Nat) (ex : Int) : Val :=
  if sig = 0 then .fin neg 0 1
  else if 0 ≤ ex then .fin neg (sig * 2 ^ ex.toNat) 1
  else valMk neg sig (2 ^ (-ex).toNat)

def valZero : Val := .fin false 0 1
def valOne : Val := .fin false 1 1

def valOfInt (i : Int) : Val := .fin (i < 0) i.natAbs 1

def valNeg : Val → Val
  | .nan => .nan
  | .inf n => .inf (!n)
  | .fin n a d => .fin (!n) a d

def valAbs : Val → Val
  | .nan => .nan
  | .inf _ => .inf false
  | .fin _ a d => .fin false a d

def valIsNeg : Val → Bool
  | .nan => false
  | .inf n => n
  | .fin n _ _ => n

def valIsZero : Val → Bool
  | .fin _ 0 _ => true
  | _ => false

def valIsFinite : Val → Bool
  | .fin _ _ _ => true
  | _ => false

/-- The product, exact; infinity times zero is NaN. -/
def valMul : Val → Val → Val
  | .nan, _ => .nan
  | _, .nan => .nan
  | .inf n, .inf m => .inf (n != m)
  | .inf n, .fin m a _ => if a = 0 then .nan else .inf (n != m)
  | .fin n a _, .inf m => if a = 0 then .nan else .inf (n != m)
  | .fin n a d, .fin m b e => valMk (n != m) (a * b) (d * e)

/-- The sum, exact; opposite infinities give NaN, a zero sum of unlike terms is +0. -/
def valAdd : Val → Val → Val
  | .nan, _ => .nan
  | _, .nan => .nan
  | .inf n, .inf m => if n = m then .inf n else .nan
  | .inf n, _ => .inf n
  | _, .inf m => .inf m
  | .fin n a d, .fin m b e =>
    if n = m then valMk n (a * e + b * d) (d * e)
    else
      let x := a * e
      let y := b * d
      if x = y then .fin false 0 1
      else if y < x then valMk n (x - y) (d * e)
      else valMk m (y - x) (d * e)

def valSub (a b : Val) : Val := valAdd a (valNeg b)

/-- Strict order of values that are not NaN; zeros of either sign are equal. -/
def valLt : Val → Val → Bool
  | .nan, _ => false
  | _, .nan => false
  | .inf n, .inf m => n && !m
  | .inf n, _ => n
  | _, .inf m => !m
  | .fin n a d, .fin m b e =>
    let x : Int := if n then -(a * e : Nat) else (a * e : Nat)
    let y : Int := if m then -(b * d : Nat) else (b * d : Nat)
    decide (x < y)

/-- Equality of values that are not NaN. -/
def valEq (a b : Val) : Bool :=
  match a, b with
  | .nan, _ => false
  | _, .nan => false
  | a, b => !valLt a b && !valLt b a

/-- `v * 2^k`, exact. -/
def valScale (v : Val) (k : Int) : Val :=
  match v with
  | .fin n a d =>
    if a = 0 then v
    else if 0 ≤ k then valMk n (a * 2 ^ k.toNat) d else valMk n a (d * 2 ^ (-k).toNat)
  | v => v

/-- The largest `k` with `2^k ≤ num / den`, for a nonzero magnitude. -/
def floorLog2 (num den : Nat) : Int :=
  let k : Int := (Nat.log2 num : Int) - (Nat.log2 den : Int)
  let ge : Bool := if 0 ≤ k then decide (den * 2 ^ k.toNat ≤ num) else decide (den ≤ num * 2 ^ (-k).toNat)
  if ge then k else k - 1

/-! ### Rounding (R40, R44) -/

/-- A nonnegative rational rounded to an integer. `r` is the 16 bits that stochastic rounding draws. -/
def roundQ (m : Rnd) (num den r : Nat) : Nat :=
  let q := num / den
  let rem := num % den
  match m with
  | .rtz => q
  | .rne => if den < 2 * rem then q + 1 else if 2 * rem = den then q + q % 2 else q
  | .sr => if 2 ^ 16 ≤ rem * 2 ^ 16 / den + r then q + 1 else q

/-- A nonzero magnitude rounded to a float's precision, as a magnitude code that may lie past the largest finite
one: the exponent is not yet bounded (R40). -/
def roundFlt (f : Flt) (m : Rnd) (num den r : Nat) : Nat :=
  let k := floorLog2 num den
  let emin : Int := 1 - (f.bias : Int)
  let u : Int := (if k < emin then emin else k) - (f.frac : Int)
  let q := if 0 ≤ u then roundQ m num (den * 2 ^ u.toNat) r else roundQ m (num * 2 ^ (-u).toNat) den r
  (u + (f.frac : Int) + (f.bias : Int) - 1).toNat * 2 ^ f.frac + q

/-! ### Scalar encodings (R28-R31) -/

def fltFp32 : Flt := ⟨23, 8, 127, true, 0x7F7FFFFF, some 0x7F800000, some 0x7FC00000⟩
def fltBf16 : Flt := ⟨7, 8, 127, true, 0x7F7F, some 0x7F80, some 0x7FC0⟩
def fltFp16 : Flt := ⟨10, 5, 15, true, 0x7BFF, some 0x7C00, some 0x7E00⟩
def fltF19 : Flt := ⟨10, 8, 127, true, 0x3FBFF, some 0x3FC00, some 0x3FE00⟩
def fltF48 : Flt := ⟨36, 11, 1023, true, 0x7FEFFFFFFFFF, some 0x7FF000000000, some 0x7FF800000000⟩
def fltE5m2 : Flt := ⟨2, 5, 15, true, 0x7B, some 0x7C, some 0x7E⟩
def fltE4m3 : Flt := ⟨3, 4, 7, true, 0x7E, none, some 0x7F⟩
def fltE3m2 : Flt := ⟨2, 3, 3, true, 0x1F, none, none⟩
def fltE2m3 : Flt := ⟨3, 2, 1, true, 0x1F, none, none⟩
def fltE2m1 : Flt := ⟨1, 2, 1, true, 0x7, none, none⟩
def fltE4m4u : Flt := ⟨4, 4, 7, false, 0xFF, none, none⟩
/-- The lifted element of a G4 block: E2M1 with four fraction bits (R37). -/
def fltLift : Flt := ⟨4, 2, 1, true, 0x3F, none, none⟩

/-- The value of a magnitude code with a sign (R28). -/
def fltValue (f : Flt) (neg : Bool) (mag : Nat) : Val :=
  let special := match f.infCode, f.nanCode with
    | some i, _ => if mag = i then some (Val.inf neg) else if i < mag then some .nan else none
    | none, some n => if mag = n then some .nan else none
    | none, none => none
  match special with
  | some v => v
  | none =>
    let e := mag >>> f.frac
    let m := mag % 2 ^ f.frac
    if e = 0 then valDyadic neg m (1 - (f.bias : Int) - f.frac)
    else valDyadic neg (2 ^ f.frac + m) ((e : Int) - f.bias - f.frac)

/-- The value of a scalar code. -/
def fltDecode (f : Flt) (code : Nat) : Val :=
  let mag := code % 2 ^ (f.ebits + f.frac)
  fltValue f (f.signed && (code >>> (f.ebits + f.frac)) % 2 == 1) mag

/-- Sign and magnitude code joined. -/
def fltJoin (f : Flt) (neg : Bool) (mag : Nat) : Nat := b2n neg * 2 ^ (f.ebits + f.frac) + mag

/-- An exact magnitude exceeds a float's largest finite magnitude. -/
def fltBeyond (f : Flt) (num den : Nat) : Bool := valLt (fltValue f false f.maxCode) (.fin false num den)

/-- A value converted to a float encoding, with what it counts as (R40-R42). `ieee` is `OVF`. -/
def fltEncode (f : Flt) (m : Rnd) (ieee : Bool) (r : Nat) (v : Val) : Nat × Count :=
  match v with
  | .nan => (f.nanCode.getD 0, .nan)
  | .inf neg =>
    if !f.signed && neg then (0, .saturated)
    else match f.infCode with
      | some i => (fltJoin f neg i, .none)
      | none => (fltJoin f neg f.maxCode, .saturated)
  | .fin neg num den =>
    if num = 0 then (fltJoin f (f.signed && neg) 0, .none)
    else if !f.signed && neg then (0, .saturated)
    else
      let mag := roundFlt f m num den r
      let out := if mag ≤ f.maxCode then mag
        else match f.infCode with
          | some i => if ieee && m != .rtz then i else f.maxCode
          | none => f.maxCode
      let cnt : Count := if out = 0 then .flushed
        else if fltBeyond f num den && f.maxCode ≤ out then .saturated else .none
      (fltJoin f neg out, cnt)

/-- The value rounded to a float and read back: one rounding of an operation (R39, R40). -/
def fltRound (f : Flt) (m : Rnd) (ieee : Bool) (v : Val) : Val := fltDecode f (fltEncode f m ieee 0 v).1

/-- A two's complement integer of `w` bits whose magnitudes reach `lo` below and `hi` above zero (R31, R41, R42). -/
def intEncode (w lo hi : Nat) (m : Rnd) (r : Nat) (v : Val) : Nat × Count :=
  let put (neg : Bool) (q : Nat) : Nat := if neg then (2 ^ w - q) % 2 ^ w else q
  match v with
  | .nan => (0, .nan)
  | .inf neg => (put neg (if neg then lo else hi), .saturated)
  | .fin neg num den =>
    let lim := if neg then lo else hi
    let q := min (roundQ m num den r) lim
    (put neg q, if q = 0 then (if num = 0 then .none else .flushed)
      else if lim * den < num then .saturated else .none)

/-- A T2 element of a scaled value: rounded to an integer and clamped to -1, 0, +1 (R36, R43). -/
def t2Encode (m : Rnd) (r : Nat) (v : Val) : Nat × Count :=
  match v with
  | .nan => (0, .nan)
  | .inf neg => (if neg then 3 else 1, .saturated)
  | .fin neg num den =>
    let q := min (roundQ m num den r) 1
    (if q = 0 then 0 else if neg then 3 else 1,
      if q = 0 then (if num = 0 then .none else .flushed) else if den < num then .saturated else .none)

/-- E8M0: code `x` stands for `2^(x - 127)`, 0xFF for NaN (R28). -/
def e8m0 (x : Nat) : Val := if x = 255 then .nan else valDyadic false 1 ((x : Int) - 127)

/-! ### Format codes (R26, R27, R33) -/

def fmtOfCode : Nat → Option Fmt
  | 0x00 => some .fp32 | 0x01 => some .bf16 | 0x02 => some .fp16 | 0x03 => some .e4m3
  | 0x04 => some .e5m2 | 0x05 => some .int8 | 0x06 => some .int4 | 0x07 => some .int2
  | 0x08 => some .t2 | 0x09 => some .g4 | 0x0A => some .mxe4m3 | 0x0B => some .mxe5m2
  | 0x0C => some .mxe3m2 | 0x0D => some .mxe2m3 | 0x0E => some .mxe2m1 | 0x0F => some .mxint8
  | 0x10 => some .e4m4u | 0x11 => some .f48
  | _ => none

def fmtCode : Fmt → Nat
  | .fp32 => 0x00 | .bf16 => 0x01 | .fp16 => 0x02 | .e4m3 => 0x03 | .e5m2 => 0x04 | .int8 => 0x05
  | .int4 => 0x06 | .int2 => 0x07 | .t2 => 0x08 | .g4 => 0x09 | .mxe4m3 => 0x0A | .mxe5m2 => 0x0B
  | .mxe3m2 => 0x0C | .mxe2m3 => 0x0D | .mxe2m1 => 0x0E | .mxint8 => 0x0F | .e4m4u => 0x10 | .f48 => 0x11

def fmtClass : Fmt → FmtClass
  | .fp32 | .bf16 | .fp16 => .wide
  | .e4m3 | .e5m2 | .int8 | .mxe4m3 | .mxe5m2 | .mxe3m2 | .mxe2m3 | .mxint8 => .eight
  | .int4 | .int2 => .expanded
  | .t2 => .ternary
  | .g4 | .mxe2m1 => .four
  | .e4m4u | .f48 => .none

/-- Element width in bits. -/
def fmtBits : Fmt → Nat
  | .fp32 => 32 | .bf16 | .fp16 => 16 | .e4m3 | .e5m2 | .int8 => 8 | .int4 => 4 | .int2 => 2
  | .t2 => 2 | .g4 => 4 | .mxe4m3 | .mxe5m2 => 8 | .mxe3m2 | .mxe2m3 => 6 | .mxe2m1 => 4 | .mxint8 => 8
  | .e4m4u => 8 | .f48 => 48

/-- Elements of a block, 1 for a scalar format (R33). -/
def fmtBlock : Fmt → Nat
  | .t2 => 64
  | .g4 | .mxe4m3 | .mxe5m2 | .mxe3m2 | .mxe2m3 | .mxe2m1 | .mxint8 => 32
  | _ => 1

def fmtIsBlock (f : Fmt) : Bool := fmtBlock f != 1

/-- The MX formats, which alone have a split layout (R34). -/
def fmtIsMx : Fmt → Bool
  | .mxe4m3 | .mxe5m2 | .mxe3m2 | .mxe2m3 | .mxe2m1 | .mxint8 => true
  | _ => false

/-- Element bytes of one block. -/
def fmtElemBytes (f : Fmt) : Nat := fmtBits f * fmtBlock f / 8

/-- Bytes of one block in the packed layout (R33). -/
def fmtBlockBytes (f : Fmt) : Nat :=
  if f = .g4 then 18 else if fmtIsBlock f then fmtElemBytes f + 1 else fmtElemBytes f

/-- `emax` of R43. -/
def fmtEmax : Fmt → Nat
  | .mxe2m1 | .g4 => 2 | .mxe3m2 => 4 | .mxe2m3 => 2 | .mxe4m3 => 8 | .mxe5m2 => 15 | _ => 0

/-- The scalar float a format's elements have, where they are floats. -/
def fmtFlt : Fmt → Option Flt
  | .fp32 => some fltFp32 | .bf16 => some fltBf16 | .fp16 => some fltFp16
  | .e4m3 | .mxe4m3 => some fltE4m3 | .e5m2 | .mxe5m2 => some fltE5m2
  | .mxe3m2 => some fltE3m2 | .mxe2m3 => some fltE2m3 | .mxe2m1 | .g4 => some fltE2m1
  | .e4m4u => some fltE4m4u | .f48 => some fltF48
  | .int8 | .int4 | .int2 | .t2 | .mxint8 => none

/-- The dot depth of a weight and activation pair; an expanded weight takes the activation's class (R26, R27). -/
def dotDepth (wf af : Fmt) : Nat :=
  let wc := if fmtClass wf = .expanded then fmtClass af else fmtClass wf
  let ac := fmtClass af
  if wc = .wide ∨ ac = .wide then 1
  else if wc = .eight ∨ ac = .eight then 8
  else if wc = .ternary then 32
  else 16

/-! ### Reading elements -/

/-- Bits `[lo + w - 1 : lo]` of a little-endian run of bytes, as a number. -/
def bytesNat : List Byte → Nat
  | [] => 0
  | b :: bs => b.toNat + 256 * bytesNat bs

/-- The `n` bytes of a number, least significant first. -/
def natBytes : Nat → Nat → List Byte
  | 0, _ => []
  | n + 1, v => BitVec.ofNat 8 v :: natBytes n (v / 256)

/-- Element `i` of a packed run of elements of `w` bits (R32): with elements of 6 bits packed four to three bytes
and narrower ones from the low end of the byte, element `i` starts at bit `w * i`. -/
def elemBits (w i : Nat) (bs : List Byte) : Nat :=
  let lo := w * i
  bytesNat ((bs.drop (lo / 8)).take ((lo % 8 + w + 7) / 8)) >>> (lo % 8) % 2 ^ w

/-- The value of an element code before any block scale. -/
def elemValue (f : Fmt) (code : Nat) : Val :=
  match fmtFlt f with
  | some fl => fltDecode fl code
  | none =>
    match f with
    | .int8 => valOfInt (signedOf 8 code)
    | .int4 => valOfInt (signedOf 4 code)
    | .int2 => valOfInt (signedOf 2 code)
    | .mxint8 => valScale (valOfInt (signedOf 8 code)) (-6)
    | _ => if code = 1 then valOne else if code = 3 then .fin true 1 1 else valZero

/-- Element value of the lifted element of a G4 block (R37). -/
def liftValue (code lift : Nat) : Val :=
  fltValue fltLift (code / 8 % 2 == 1) (code % 8 * 8 + lift)

/-- Element `i` of a block, unscaled, from its element bytes and, for G4, its lift byte. -/
def blockElem (f : Fmt) (elems : List Byte) (liftByte i : Nat) : Val :=
  let code := elemBits (fmtBits f) i elems
  if f = .g4 ∧ liftByte / 8 = i then liftValue code (liftByte % 8) else elemValue f code

/-- The value of element `i` of a block: its element value times its scale, or NaN under a NaN scale (R35). -/
def blockValue (f : Fmt) (elems : List Byte) (scale liftByte i : Nat) : Val :=
  if scale = 255 then .nan else valScale (blockElem f elems liftByte i) ((scale : Int) - 127)

/-! ### The conversion control word (R38) -/

structure Conv where
  dst : Fmt
  rnd : Rnd
  ieee : Bool
  head : Int
  census : Bool
  split : Bool
  deriving DecidableEq, Repr

/-- The word read, or nothing where R38, R34 or R26 refuses it. -/
def convOfWord (w : Nat) : Option Conv :=
  let head := signedOf 3 (w / 2 ^ 5 % 8)
  match fmtOfCode (w / 2 ^ 11 % 32) with
  | none => none
  | some d =>
    let rnd : Option Rnd := match w / 2 ^ 9 % 4 with
      | 0 => some .rne | 1 => some .rtz | 2 => some .sr | _ => none
    match rnd with
    | none => none
    | some m =>
      let split := w / 8 % 2 == 1
      if w % 8 ≠ 0 then none
      else if head ≠ 0 ∧ !fmtIsBlock d then none
      else if split ∧ !fmtIsMx d then none
      else some ⟨d, m, w / 2 ^ 8 % 2 == 1, head, w / 16 % 2 == 1, split⟩

/-! ### Stochastic rounding (R44) -/

def srMix (z : W64) : W64 :=
  let z := (z ^^^ (z >>> 30)) * 0xBF58476D1CE4E5B9#64
  let z := (z ^^^ (z >>> 27)) * 0x94D049BB133111EB#64
  z ^^^ (z >>> 31)

def srHash (seed : W64) (step : W32) (eaddr : W64) : W64 :=
  srMix (srMix (seed ^^^ step.setWidth 64) ^^^ eaddr)

/-- The 16 bits drawn for the element whose lowest bit is bit `bitAddr` of memory (R44, R45). -/
def srBits (seed : W64) (step : W32) (bitAddr : Nat) : Nat :=
  (srHash seed step (BitVec.ofNat 64 (bitAddr % 2 ^ 51))).toNat / 2 ^ 48

/-! ### Conversions (R39-R43) -/

/-- An element code of a scalar destination, or of an element of a block once its scale is applied. -/
def elemEncode (f : Fmt) (m : Rnd) (ieee : Bool) (r : Nat) (v : Val) : Nat × Count :=
  match fmtFlt f with
  | some fl => fltEncode fl m ieee r v
  | none =>
    match f with
    | .int8 => intEncode 8 128 127 m r v
    | .int4 => intEncode 4 8 7 m r v
    | .int2 => intEncode 2 2 1 m r v
    | .mxint8 => intEncode 8 127 127 m r (valScale v 6)
    | _ => t2Encode m r v

/-- A block written by R43: element codes with their counts, the scale code and the lift byte. -/
structure BlockOut where
  codes : List (Nat × Count)
  scale : Nat
  lift : Nat
  deriving DecidableEq, Repr

/-- The larger magnitude. -/
def valMaxAbs (a b : Val) : Val := if valLt (valAbs a) (valAbs b) then valAbs b else valAbs a

/-- The lowest index whose value has magnitude `amax`. -/
def indexOfAbs (amax : Val) : List Val → Nat → Nat
  | [], _ => 0
  | v :: vs, i => if valEq (valAbs v) amax then i else indexOfAbs amax vs (i + 1)

/-- A zero code of a value's sign; T2 and MXINT8 have no negative zero (R43). -/
def zeroCode (f : Fmt) (neg : Bool) : Nat :=
  match fmtFlt f with
  | some fl => fltJoin fl (neg && fl.signed) 0
  | none => 0

/-- A block conversion; `r i` is what stochastic rounding draws for element `i` (R43). The lift byte of a G4 block written
with scale 0xFF is 0x00, which the spec does not state (notes/assumptions/61.md). -/
def blockEncode (c : Conv) (r : Nat → Nat) (vs : List Val) : BlockOut :=
  let amax := vs.foldl valMaxAbs valZero
  if vs.any (fun v => !valIsFinite v) then ⟨vs.map (fun _ => (0, .nan)), 255, 0⟩
  else
    match amax with
    | .fin _ num den =>
      if num = 0 then ⟨vs.map (fun v => (zeroCode c.dst (valIsNeg v), .none)), 127, 0⟩
      else
        let x0 := floorLog2 num den - (fmtEmax c.dst : Int) + c.head
        let x := if x0 < -127 then -127 else if 127 < x0 then 127 else x0
        let li := indexOfAbs amax vs 0
        let enc (i : Nat) (v : Val) : Nat × Count := elemEncode c.dst c.rnd c.ieee (r i) (valScale v (-x))
        let codes := vs.zipIdx.map (fun p => enc p.2 p.1)
        if c.dst = .g4 then
          let lifted := fltEncode fltLift c.rnd false (r li) (valScale (vs.getD li valZero) (-x))
          let mag := lifted.1 % 64
          ⟨codes.set li (lifted.1 / 64 * 8 + mag / 8, lifted.2), (x + 127).toNat, li * 8 + mag % 8⟩
        else ⟨codes, (x + 127).toNat, 0⟩
    | _ => ⟨[], 255, 0⟩

/-- Element codes of `w` bits packed into bytes (R32); the unused bits of a last byte not filled are written as zero, which
the spec does not state (notes/assumptions/61.md). -/
def packCodes (w : Nat) (codes : List Nat) : List Byte :=
  natBytes ((w * codes.length + 7) / 8) (codes.foldr (fun c acc => c + 2 ^ w * acc) 0)

/-- Counts of one operation: saturated, flushed and NaN (R42). -/
structure Counts where
  sat : Nat
  flush : Nat
  nan : Nat
  deriving DecidableEq, Repr

def countsZero : Counts := ⟨0, 0, 0⟩

def countsSum (a b : Counts) : Counts := ⟨a.sat + b.sat, a.flush + b.flush, a.nan + b.nan⟩

def countsAdd (a : Counts) (c : Count) : Counts :=
  match c with
  | .none => a
  | .saturated => { a with sat := a.sat + 1 }
  | .flushed => { a with flush := a.flush + 1 }
  | .nan => { a with nan := a.nan + 1 }

/-- A wide operand's F19 (R46). -/
def toF19 (f : Fmt) (rtz : Bool) (v : Val) : Val :=
  if f = .fp32 then fltRound fltF19 (if rtz then .rtz else .rne) true v else v

/-- A list cut into runs of `n`, the last completed with `pad` (R33); `fuel` bounds the number of runs. -/
def chunksOf {α : Type} (n : Nat) (pad : α) : Nat → List α → List (List α)
  | 0, _ => []
  | _, [] => []
  | fuel + 1, xs =>
    let c := xs.take n
    (c ++ List.replicate (n - c.length) pad) :: chunksOf n pad fuel (xs.drop n)

end Machine
end Sys2Proof
end

