-- ==== Sys2Proof/Machine/ArrayMath.lean ====
section
/-!
DEFINITION. The array action entry and the arithmetic of one row step (spec/03_matrix_arrays.md R49-R68,
spec/04_accumulation.md R70-R77).
-/

namespace Sys2Proof.Machine

/-! ### The array action entry (R67) -/

inductive ArrOp where
  | pass | load | passLoad | elem
  deriving DecidableEq, Repr

/-- The `ACC` codes (R74). -/
inductive Acc where
  | single | start | startHalf | startRes | cont | finish
  deriving DecidableEq, Repr

structure ArrEntry where
  op : ArrOp
  amask : Nat
  distinct : Bool
  quart : Bool
  wfmt : Fmt
  afmt : Fmt
  grp : Nat
  f19rne : Bool
  swap : Bool
  expand : Nat
  tfmt : Nat
  rowsrc : Bool
  rowsM1 : Nat
  acc : Acc
  pint : Nat
  census : Bool
  dsel : Bool
  abase : Nat
  wbase : Nat
  apitch : Nat
  deriving DecidableEq, Repr

/-- Dot depth of the entry (R27). -/
def arrDepth (e : ArrEntry) : Nat := dotDepth e.wfmt e.afmt

/-- Reduction elements of one load, per quarter in quartered mode (R50, R65). -/
def arrK (e : ArrEntry) : Nat := (if e.quart then 16 else 32) * arrDepth e

/-- Bytes of `k` elements in the packed layout, completed to whole blocks (R33). -/
def packedBytes (f : Fmt) (k : Nat) : Nat :=
  if fmtIsBlock f then (k + fmtBlock f - 1) / fmtBlock f * fmtBlockBytes f else fmtBits f * k / 8

/-- The row size of one stream (R54). -/
def arrRowBytes (e : ArrEntry) : Nat := packedBytes e.afmt (arrK e)

/-- Number of products in a group (R58). -/
def arrGroup (e : ArrEntry) : Nat := match e.grp with | 0 => 4 | 1 => 8 | 2 => 16 | _ => 1

/-- Bytes of the expansion header (R52, R63, R64). -/
def arrHeader (e : ArrEntry) : Nat := match e.expand with | 1 => 64 | 2 => 512 | _ => 0

/-- Bytes of one image, or of one quarter image (R52, R65). -/
def arrPartBytes (e : ArrEntry) : Nat :=
  (if e.quart then 16 else 32) * packedBytes e.wfmt (arrK e) + arrHeader e

/-- Bytes of the weight image of one array (R52, R65). -/
def arrImageBytes (e : ArrEntry) : Nat := (if e.quart then 4 else 1) * arrPartBytes e

def weightAccepted : Fmt → Bool
  | .e4m4u | .f48 => false
  | _ => true

def activationAccepted : Fmt → Bool
  | .t2 | .int4 | .int2 | .e4m4u | .f48 => false
  | _ => true

/-- The entry formats that table mode offers (R63). -/
def tfmtOk (e : ArrEntry) : Bool :=
  match fmtClass e.afmt with
  | .four | .wide => e.tfmt == 0
  | .eight => e.tfmt ≤ 2
  | _ => false

/-- The settings that `START_RES` accepts (R77). -/
def residentOk (e : ArrEntry) : Bool :=
  e.expand == 0 && !e.quart &&
    ((e.wfmt == .int8 && e.afmt == .int8 && e.grp == 0) ||
     (e.wfmt == .e4m3 && e.afmt == .e4m3 && e.grp == 0) ||
     (e.wfmt == .bf16 && e.afmt == .bf16 && e.grp == 3))

/-- The checks of R58, R63-R68, R72, R74 and R77 on an entry whose fields decode. An INT4 or INT2 weight without expansion
is accepted and read in two's complement, and the interval is held to its limits on every code but START_RES, also where
the open tile may be resident (notes/assumptions/60.md). -/
def arrEntryOk (e : ArrEntry) : Bool :=
  let d := arrDepth e
  let narrow := e.wfmt == .int4 || e.wfmt == .int2
  let interval := (e.pint + 1) * arrK e
  e.amask != 0 && weightAccepted e.wfmt && activationAccepted e.afmt &&
  (if d = 1 then e.grp == 3 else e.grp != 3 && decide (arrGroup e ≤ d)) &&
  (!e.f19rne || e.wfmt == .fp32 || e.afmt == .fp32) &&
  (e.expand == 0 || (narrow && e.expand != 3)) &&
  (if e.expand = 1 then tfmtOk e else e.tfmt == 0) &&
  (e.expand != 2 || fmtClass e.afmt == .eight || fmtClass e.afmt == .wide) &&
  decide (0 < e.apitch ∧ arrRowBytes e ≤ e.apitch) &&
  (e.op != .elem || (e.wfmt != .t2 && !e.quart)) &&
  (e.op == .load ||
    ((e.op != .elem || e.acc == .single) &&
     (if e.acc = .startRes then residentOk e else decide (512 ≤ interval ∧ interval ≤ 8192))))

/-- The fields of a non-NOP entry word with the codes that exist; an `ACC` code a LOAD ignores reads as SINGLE. -/
def arrEntryFields (w : BitVec 128) : Option ArrEntry :=
  let acc? : Option Acc := match bits w 74 72 with
    | 0 => some .single | 1 => some .start | 2 => some .startHalf | 3 => some .startRes
    | 4 => some .cont | 5 => some .finish | _ => none
  let op? : Option ArrOp := match bits w 127 124 with
    | 1 => some .pass | 2 => some .load | 3 => some .passLoad | 4 => some .elem | _ => none
  match op?, fmtOfCode (bits w 113 109), fmtOfCode (bits w 108 104) with
  | some op, some wf, some af =>
    match (if op = .load then some (acc?.getD .single) else acc?) with
    | none => none
    | some acc =>
      some { op := op, amask := bits w 123 116, distinct := bitAt w 115, quart := bitAt w 114, wfmt := wf, afmt := af,
             grp := bits w 103 102, f19rne := bitAt w 101, swap := bitAt w 100, expand := bits w 99 98,
             tfmt := bits w 97 96, rowsrc := bitAt w 95, rowsM1 := bits w 94 75, acc := acc, pint := bits w 71 64,
             census := bitAt w 63, dsel := bitAt w 62, abase := bits w 61 44, wbase := bits w 43 26,
             apitch := bits w 25 10 }
  | _, _, _ => none

/-- An entry word as its action, `some none` for a NOP; nothing where the load refuses it (R67). -/
def arrEntryOf (w : BitVec 128) : Option (Option ArrEntry) :=
  if bits w 127 124 = 0 then (if w = 0#128 then some none else none)
  else if bits w 9 0 ≠ 0 then none
  else
    match arrEntryFields w with
    | some e => if arrEntryOk e then some (some e) else none
    | none => none

/-! ### Weights and activations -/

/-- The settings a weight set keeps (R472) beside its image. -/
structure WSet where
  valid : Bool
  loading : Bool
  wfmt : Fmt
  afmt : Fmt
  expand : Nat
  tfmt : Nat
  quart : Bool
  depth : Nat
  f19rne : Bool
  image : List Byte
  deriving DecidableEq, Repr

def wsetEmpty : WSet := ⟨false, false, .fp32, .fp32, 0, 0, false, 1, false, []⟩

def wsetOf (e : ArrEntry) (image : List Byte) : WSet :=
  ⟨false, true, e.wfmt, e.afmt, e.expand, e.tfmt, e.quart, arrDepth e, e.f19rne, image⟩

/-- The settings of a set agree with a pass that would use it (R472). -/
def wsetAgrees (w : WSet) (e : ArrEntry) : Bool :=
  w.wfmt == e.wfmt && w.expand == e.expand && w.tfmt == e.tfmt && w.quart == e.quart && w.depth == arrDepth e

def byteOf (bs : List Byte) (i : Nat) : Nat := (bs.getD i 0#8).toNat

/-- An element of a packed run and the scale of its block; `sub` is the run's bytes. -/
def runElem (f : Fmt) (sub : List Byte) (k : Nat) : Val × Val :=
  if fmtIsBlock f then
    let blk := (sub.drop (k / fmtBlock f * fmtBlockBytes f)).take (fmtBlockBytes f)
    let n := fmtElemBytes f
    (blockElem f (blk.take n) (if f = .g4 then byteOf blk 17 else 0) (k % fmtBlock f), e8m0 (byteOf blk n))
  else (elemValue f (elemBits (fmtBits f) k sub), valOne)

/-- A code expanded by scale and zero point, and whether it saturated (R64). The code is taken unsigned, as the index of R63
is (notes/assumptions/60.md). -/
def zeroPoint (code z : Nat) : Int × Bool :=
  let v : Int := (code : Int) - signedOf 8 z
  if v < -128 then (-128, true) else if 127 < v then (127, true) else (v, false)

/-- Whether the wide path rounds FP32 to nearest even for the pass (R46). -/
def wideVal (e : ArrEntry) (f : Fmt) (v : Val) : Val :=
  if arrDepth e = 1 then toF19 f (!e.f19rne) v else v

/-- Weight `k` of column `j` and its scale, in one image or quarter image (R52, R57, R59, R63, R64). -/
def weightAt (e : ArrEntry) (part : List Byte) (j k : Nat) : Val × Val :=
  let cols := if e.quart then 16 else 32
  let run := packedBytes e.wfmt (arrK e)
  let sub := (part.drop (j * run)).take run
  let hdr := part.drop (cols * run)
  if e.expand = 1 then
    let entry := bytesNat ((hdr.drop (2 * elemBits (fmtBits e.wfmt) k sub)).take 2)
    let v := match fmtClass e.afmt with
      | .four => fltDecode fltE2m1 (entry % 16)
      | .wide => fltDecode fltBf16 entry
      | _ => if e.tfmt = 0 then fltDecode fltE4m3 (entry % 256)
             else if e.tfmt = 1 then fltDecode fltE5m2 (entry % 256) else valOfInt (signedOf 8 (entry % 256))
    (v, e8m0 (byteOf hdr 32))
  else if e.expand = 2 then
    let pair := j * ((arrK e + 31) / 32) + k / 32
    let code := elemBits (fmtBits e.wfmt) k sub
    (valOfInt (zeroPoint code (byteOf hdr (2 * pair + 1))).1, e8m0 (byteOf hdr (2 * pair)))
  else
    let p := runElem e.wfmt sub k
    (wideVal e e.wfmt p.1, p.2)

/-- Activation `k` of a row and its scale (R54). -/
def activationAt (e : ArrEntry) (row : List Byte) (k : Nat) : Val × Val :=
  let p := runElem e.afmt row k
  (wideVal e e.afmt p.1, p.2)

/-- Events a load counts under census: reserved T2 codes as NaN, the padding of a block included, and saturated zero-point
expansions (R33, R68). -/
def loadCounts (e : ArrEntry) (part : List Byte) : Counts :=
  let cols := if e.quart then 16 else 32
  let run := packedBytes e.wfmt (arrK e)
  let hdr := part.drop (cols * run)
  (List.range cols).foldl (fun (acc : Counts) j =>
    let sub := (part.drop (j * run)).take run
    (List.range ((arrK e + fmtBlock e.wfmt - 1) / fmtBlock e.wfmt * fmtBlock e.wfmt)).foldl (fun (acc : Counts) k =>
      if e.wfmt = .t2 then
        let blk := sub.drop (k / 64 * 17)
        if elemBits 2 (k % 64) blk = 2 then countsAdd acc .nan else acc
      else if e.expand = 2 then
        let pair := j * ((arrK e + 31) / 32) + k / 32
        if (zeroPoint (elemBits (fmtBits e.wfmt) k sub) (byteOf hdr (2 * pair + 1))).2
        then countsAdd acc .saturated else acc
      else acc) acc) countsZero

/-! ### One row step (R57-R61, R66) -/

/-- One rounding of the run: an exactly zero sum is +0 (R59, R60). -/
def runAdd (run s : Val) : Val :=
  let x := valAdd run s
  if valIsZero x then valZero else fltRound fltFp32 .rne true x

/-- The exact scaled sum of a group of `n` products from element `k0` (R58, R59, R61). -/
def groupSum (w a : Nat → Val × Val) (k0 n : Nat) : Val :=
  let s := (List.range n).foldl (fun acc t => valAdd acc (valMul (w (k0 + t)).1 (a (k0 + t)).1)) valZero
  valMul s (valMul (w k0).2 (a k0).2)

/-- A run carried through one row step of a column, and whether it became infinite from finite inputs (R60, R68). -/
def runColumn (e : ArrEntry) (w a : Nat → Val × Val) (run : Val) : Val × Bool :=
  let n := arrGroup e
  (List.range (arrK e / n)).foldl (fun (acc : Val × Bool) g =>
    let s := groupSum w a (g * n) n
    let r := runAdd acc.1 s
    (r, acc.2 || (valIsFinite acc.1 && valIsFinite s && !valIsFinite r && r != .nan))) (run, false)

def f48Of (v : Val) : W48 := BitVec.ofNat 48 (fltEncode fltF48 .rne true 0 v).1
def f48Val (w : W48) : Val := fltDecode fltF48 w.toNat

/-- Promotion: one rounding to nearest even of the exact sum into F48 (R71, R73). -/
def promote (total run : Val) : Val := fltRound fltF48 .rne true (valAdd total run)

/-- The element-wise product of R66. -/
def elemProduct (w a : Val × Val) : Val :=
  fltRound fltFp32 .rne true (valMul (valMul w.1 a.1) (valMul w.2 a.2))

end Sys2Proof.Machine
end

