-- ==== Sys2Proof/Machine/Functions.lean ====
section
/-!
DEFINITION. The FP32 functions of the figures (spec/06_element_engine.md R110, R111): each answers the FP32 value
nearest the exact function, ties to even. Reciprocals and reciprocal roots are exact; the four transcendental
functions are evaluated in fixed point with 512 fraction bits and rounded once, far beyond what telling an FP32
result from its neighbour takes (notes/assumptions/8.md).
-/

namespace Sys2Proof.Machine

/-- Fraction bits of the fixed-point evaluation. -/
def fxBits : Nat := 512

def fxOne : Nat := 2 ^ fxBits

def fxMul (a b : Nat) : Nat := a * b / 2 ^ fxBits

/-- The integer part of a square root, bit by bit from bit `n - 1` down. -/
def isqrtFrom : Nat → Nat → Nat → Nat
  | 0, _, q => q
  | n + 1, x, q =>
    let t := q + 2 ^ n
    isqrtFrom n x (if t * t ≤ x then t else q)

def isqrt (x : Nat) : Nat := isqrtFrom (Nat.log2 x / 2 + 1) x 0

/-- `sum over k < n of z^(2k+1)/(2k+1)` with `z2 = z * z`; `p` is the running power, `k` the running odd number. -/
def oddSeries (alternate : Bool) (z2 : Nat) : Nat → Nat → Nat → Int
  | 0, _, _ => 0
  | n + 1, p, k =>
    (p / k : Nat) + (if alternate then -1 else 1) * oddSeries alternate z2 n (fxMul p z2) (k + 2)

/-- `artanh z` for `z` at most one third. -/
def fxArtanh (z : Nat) : Nat := (oddSeries false (fxMul z z) 180 z 1).toNat

def fxArctan (z : Nat) : Nat := (oddSeries true (fxMul z z) 130 z 1).toNat

/-- The natural logarithm of 2. -/
def fxLn2 : Nat := 2 * fxArtanh (fxOne / 3)

/-- Pi, by Machin's formula. -/
def fxPi : Nat := 16 * fxArctan (fxOne / 5) - 4 * fxArctan (fxOne / 239)

/-- `sum of x^k/k!` from term `k`, whose value is `t`. -/
def expSeries (x : Nat) : Nat → Nat → Nat → Nat
  | 0, _, _ => 0
  | n + 1, t, k => t + expSeries x n (fxMul t x / (k + 1)) (k + 1)

/-- `2^f` for a fraction `f` below one. -/
def fxExp2Frac (f : Nat) : Nat := expSeries (fxMul f fxLn2) 120 fxOne 0

/-- The nonnegative magnitude `num / den` in fixed point. -/
def fxOf (num den : Nat) : Nat := num * 2 ^ fxBits / den

/-- `2^y` as an exact value of its approximation, for a fixed-point exponent. -/
def exp2Of (neg : Bool) (y : Nat) : Val :=
  if neg then
    let k := y / fxOne
    let f := y % fxOne
    if f = 0 then valDyadic false 1 (-(k : Int))
    else valDyadic false (fxExp2Frac (fxOne - f)) (-(k : Int) - 1 - (fxBits : Int))
  else valDyadic false (fxExp2Frac (y % fxOne)) ((y / fxOne : Nat) - (fxBits : Int))

/-- One rounding to nearest even into FP32, overflow to infinity (R110). -/
def toFp32 (v : Val) : Val := fltRound fltFp32 .rne true v

def fExp2 : Val → Val
  | .nan => .nan
  | .inf n => if n then valZero else .inf false
  | .fin n a d =>
    if a = 0 then valOne
    else if d * 200 < a then (if n then valZero else .inf false)
    else toFp32 (exp2Of n (fxOf a d))

def fLog2 : Val → Val
  | .nan => .nan
  | .inf n => if n then .nan else .inf false
  | .fin n a d =>
    if a = 0 then .inf true
    else if n then .nan
    else
      let e := floorLog2 a d
      let m := valScale (.fin false a d) (-e)
      match m with
      | .fin _ p q =>
        let z := fxOf (p - q) (p + q)
        let frac := 2 * fxArtanh z * 2 ^ fxBits / fxLn2
        let t : Int := e * (fxOne : Int) + frac
        toFp32 (valDyadic (t < 0) t.natAbs (-(fxBits : Int)))
      | v => v

def fRcp : Val → Val
  | .nan => .nan
  | .inf n => .fin n 0 1
  | .fin n a d => if a = 0 then .inf n else toFp32 (.fin n d a)

def fRsq : Val → Val
  | .nan => .nan
  | .inf n => if n then .nan else valZero
  | .fin n a d =>
    if a = 0 then .inf n
    else if n then .nan
    else
      let x := d * 2 ^ 600 / a
      let q := isqrt x
      if q * q * a = d * 2 ^ 600 then toFp32 (valDyadic false q (-300))
      else toFp32 (valDyadic false (2 * q + 1) (-301))

def fTanh : Val → Val
  | .nan => .nan
  | .inf n => .fin n 1 1
  | .fin n a d =>
    if a = 0 then .fin n 0 1
    else if d * 16 ≤ a then .fin n 1 1
    else
      let y := 2 * fxOf a d * 2 ^ fxBits / fxLn2
      let e := fxExp2Frac (y % fxOne) * 2 ^ (y / fxOne)
      toFp32 (valMk n (e - fxOne) (e + fxOne))

/-- `sum of 2^k x^(2k+1) / (1 * 3 * ... * (2k+1))` from the term `t`. -/
def erfSeries (x2 : Nat) : Nat → Nat → Nat → Nat
  | 0, _, _ => 0
  | n + 1, t, k => t + erfSeries x2 n (2 * fxMul t x2 / k) (k + 2)

def fErf : Val → Val
  | .nan => .nan
  | .inf n => .fin n 1 1
  | .fin n a d =>
    if a = 0 then .fin n 0 1
    else if d * 6 ≤ a then .fin n 1 1
    else
      let x := fxOf a d
      let x2 := fxMul x x
      let s := erfSeries x2 400 x 3
      let y := x2 * 2 ^ fxBits / fxLn2
      match exp2Of true y with
      | .fin _ p q =>
        let root := isqrt (fxPi * 2 ^ fxBits)
        toFp32 (valMk n (2 * s * p) (q * root))
      | v => v

end Sys2Proof.Machine
end

