-- ==== Sys2Proof/Machine/Figure.lean ====
section
/-!
DEFINITION. Figures: the instruction word, its checks, the evaluation of one element, and the element action entry
(spec/06_element_engine.md R103-R118).
-/

namespace Sys2Proof.Machine

/-! ### Instruction words (R109) -/

inductive FOp where
  | add | sub | mul | fma | min | max | selgt
  | exp2 | log2 | rcp | rsq | tanh | erf
  | store | rsum | rmax | rssq
  deriving DecidableEq, Repr

structure FInstr where
  op : FOp
  dst : Nat
  a : Nat
  b : Nat
  c : Nat
  na : Bool
  nb : Bool
  aa : Bool
  /-- the conversion of a store or reduction -/
  conv : Option Conv
  deriving DecidableEq, Repr

def fopOf : Nat → Option FOp
  | 0x01 => some .add | 0x02 => some .sub | 0x03 => some .mul | 0x04 => some .fma | 0x05 => some .min
  | 0x06 => some .max | 0x07 => some .selgt | 0x10 => some .exp2 | 0x11 => some .log2 | 0x12 => some .rcp
  | 0x13 => some .rsq | 0x14 => some .tanh | 0x15 => some .erf | 0x20 => some .store | 0x21 => some .rsum
  | 0x22 => some .rmax | 0x23 => some .rssq | _ => none

/-- Stores and reductions. -/
def fopWrites : FOp → Bool
  | .store | .rsum | .rmax | .rssq => true
  | _ => false

def fopReduces : FOp → Bool
  | .rsum | .rmax | .rssq => true
  | _ => false

def fopUnary : FOp → Bool
  | .exp2 | .log2 | .rcp | .rsq | .tanh | .erf => true
  | _ => false

/-- Operands an opcode takes. -/
def fopArity : FOp → Nat
  | .fma | .selgt => 3
  | .add | .sub | .mul | .min | .max => 2
  | _ => 1

/-- Operand codes of an element figure: temporaries, inputs, row and column, constants, +0 and +1.0 (R109). -/
def operandOk (code : Nat) : Bool := code ≤ 0x0C || (0x10 ≤ code && code ≤ 0x17) || code == 0x1E || code == 0x1F

/-- An instruction word, checked against R109; `operand` tells the operand codes of the unit. -/
def finstrOf (operand : Nat → Bool) (w : W64) : Option FInstr :=
  match fopOf (bits w 63 58) with
  | none => none
  | some op =>
    let n := fopArity op
    let a := bits w 54 50
    let b := bits w 49 45
    let c := bits w 44 40
    let ccw := bits w 31 16
    let conv := if fopWrites op then convOfWord ccw else none
    if bits w 36 32 ≠ 0 ∨ bits w 15 0 ≠ 0 then none
    else if !operand a ∨ (2 ≤ n ∧ !operand b) ∨ (3 ≤ n ∧ !operand c) then none
    else if (n < 2 ∧ (b ≠ 0 ∨ bitAt w 38)) ∨ (n < 3 ∧ c ≠ 0) then none
    else if fopWrites op ∧ bits w 57 56 ≠ 0 then none
    else if fopWrites op ∧ conv.isNone then none
    else if !fopWrites op ∧ ccw ≠ 0 then none
    else some ⟨op, bits w 57 55, a, b, c, bitAt w 39, bitAt w 38, bitAt w 37, conv⟩

/-- A list of words as instructions, all of them or none. -/
def finstrsOf (operand : Nat → Bool) : List W64 → Option (List FInstr)
  | [] => some []
  | w :: ws =>
    match finstrOf operand w, finstrsOf operand ws with
    | some i, some is => some (i :: is)
    | _, _ => none

/-- Constants K0 to K7 from the four constant words (R108). -/
def constantsOf (ws : List W64) : List Val :=
  ws.flatMap (fun w => [fltDecode fltFp32 (bits w 31 0), fltDecode fltFp32 (bits w 63 32)])

/-! ### Evaluation of one element (R110, R111) -/

/-- MIN and MAX: NaN from either operand, and a zero result of the right sign (R110). -/
def fMinMax (isMax : Bool) (a b : Val) : Val :=
  match a, b with
  | .nan, _ => .nan
  | _, .nan => .nan
  | a, b =>
    if valLt a b then (if isMax then b else a)
    else if valLt b a then (if isMax then a else b)
    else if isMax then (if valIsNeg a then b else a)
    else (if valIsNeg a then a else b)

/-- The FP32 result of an instruction that writes a temporary, from its exact operands (R110, R111). -/
def fopResult (op : FOp) (a b c : Val) : Val :=
  match op with
  | .add => toFp32 (valAdd a b)
  | .sub => toFp32 (valSub a b)
  | .mul => toFp32 (valMul a b)
  | .fma => toFp32 (valAdd (valMul a b) c)
  | .min => toFp32 (fMinMax false a b)
  | .max => toFp32 (fMinMax true a b)
  | .selgt => toFp32 (if valLt valZero a then b else c)
  | .exp2 => fExp2 a
  | .log2 => fLog2 a
  | .rcp => fRcp a
  | .rsq => fRsq a
  | .tanh => fTanh a
  | .erf => fErf a
  | .store | .rsum | .rmax | .rssq => a

/-- Where the operands of one element come from: inputs 0x08 to 0x0F and up, and constants. -/
structure FEnv where
  inputs : List (Nat × Val)
  consts : List Val
  deriving DecidableEq, Repr

/-- An operand by its code, exact (R109). -/
def operandVal (env : FEnv) (temps : List Val) (code : Nat) : Val :=
  if code < 8 then temps.getD code valZero
  else if 0x10 ≤ code ∧ code ≤ 0x17 then env.consts.getD (code - 0x10) valZero
  else if code = 0x1E then valZero
  else if code = 0x1F then valOne
  else Tbl.get valZero env.inputs code

/-- Operand A with its magnitude and negation (R109). -/
def operandA (env : FEnv) (temps : List Val) (i : FInstr) : Val :=
  let v := operandVal env temps i.a
  let v := if i.aa then valAbs v else v
  if i.na then valNeg v else v

def operandB (env : FEnv) (temps : List Val) (i : FInstr) : Val :=
  let v := operandVal env temps i.b
  if i.nb then valNeg v else v

/-- The figure run for one element: the temporaries after it and operand A of each store or reduction in order. -/
def evalFigure (env : FEnv) : List FInstr → List Val → List Val → List Val × List Val
  | [], temps, outs => (temps, outs)
  | i :: is, temps, outs =>
    let a := operandA env temps i
    if fopWrites i.op then evalFigure env is temps (outs ++ [a])
    else
      let r := fopResult i.op a (operandB env temps i) (operandVal env temps i.c)
      evalFigure env is (temps.set i.dst r) outs

def tempsZero : List Val := List.replicate 8 valZero

/-! ### Reductions (R113) -/

/-- The exact result of a reduction over the values of a row. -/
def reduceRow (op : FOp) (vs : List Val) : Val :=
  match op with
  | .rmax => match vs with
    | [] => valZero
    | v :: rest => rest.foldl (fMinMax true) v
  | .rssq => vs.foldl (fun acc v => valAdd acc (valMul v v)) valZero
  | _ =>
    match vs with
    | [] => valZero
    | v :: rest => rest.foldl valAdd v

/-! ### The element action entry (R116) -/

structure InDesc where
  base : Nat
  pitch : Nat
  cstep : Bool
  fmt : Fmt
  split : Bool
  deriving DecidableEq, Repr

structure OutDesc where
  pitch : Nat
  base : Nat
  deriving DecidableEq, Repr

inductive EleOp where
  | run | drain | sync
  deriving DecidableEq, Repr

structure EleEntry where
  op : EleOp
  figBase : Nat
  figLen : Nat
  tiles : Nat
  rowsrc : Bool
  rows : Nat
  cols : Nat
  dmask : Nat
  i0 : InDesc
  i1 : InDesc
  i2 : InDesc
  o0 : OutDesc
  o1 : OutDesc
  deriving DecidableEq, Repr

def inDescOf (v : Nat) : Option InDesc :=
  match fmtOfCode (v / 2 % 32) with
  | none => none
  | some f =>
    let split := v % 2 == 1
    if split ∧ !fmtIsMx f then none
    else some ⟨v / 2 ^ 23 % 2 ^ 18, v / 2 ^ 7 % 2 ^ 16, v / 64 % 2 == 1, f, split⟩

def outDescOf (v : Nat) : OutDesc := ⟨v / 2 ^ 18 % 2 ^ 16, v % 2 ^ 18⟩

/-- The fields of a non-NOP entry word; RUN, DRAIN and SYNC with the fields each forbids at zero (R116). -/
def eleEntryFields (w : BitVec 256) : Option EleEntry :=
  match inDescOf (bits w 195 155), inDescOf (bits w 154 114), inDescOf (bits w 113 73) with
  | some i0, some i1, some i2 =>
    let mk (op : EleOp) : EleEntry :=
      ⟨op, bits w 251 240, bits w 239 235 + 1, bits w 234 232 + 1, bitAt w 231, bits w 230 215 + 1,
       bits w 214 201 + 1, bits w 200 196, i0, i1, i2, outDescOf (bits w 72 39), outDescOf (bits w 38 5)⟩
    if bits w 4 0 ≠ 0 then none
    else match bits w 255 252 with
      | 1 => if bits w 234 232 = 0 then some (mk .run) else none
      | 2 => if bits w 231 201 = 0 ∧ bits w 195 155 = 0 then some (mk .drain) else none
      | 3 => if bits w 251 0 = 0 then some (mk .sync) else none
      | _ => none
  | _, _, _ => none

/-- Columns of the region; of a drain, 32 for each tile (R103, R106). -/
def eleCols (e : EleEntry) : Nat := if e.op = .drain then 32 * e.tiles else e.cols

/-- Bytes of one row of `cols` elements of a format, without split-layout scales (R104, R105). -/
def rowBytesOf (f : Fmt) (split : Bool) (cols : Nat) : Nat :=
  if fmtIsBlock f then
    let n := (cols + fmtBlock f - 1) / fmtBlock f
    if split then n * fmtElemBytes f else n * fmtBlockBytes f
  else (fmtBits f * cols + 7) / 8

/-- Row size of an output as one instruction writes it (R105, R116). -/
def outRowBytes (i : FInstr) (cols : Nat) : Nat :=
  match i.conv with
  | some c => if fopReduces i.op then (fmtBits c.dst + 7) / 8 else rowBytesOf c.dst c.split cols
  | none => 0

/-- Input streams a figure reads (R102). -/
def figureReads (is : List FInstr) (code : Nat) : Bool :=
  is.any (fun i => i.a == code || (2 ≤ fopArity i.op && i.b == code) || (3 ≤ fopArity i.op && i.c == code))

/-- The instructions that write output `o`. -/
def outWriters (is : List FInstr) (o : Nat) : List FInstr := is.filter (fun i => fopWrites i.op && i.dst % 2 == o)

def inDesc (e : EleEntry) (n : Nat) : InDesc := if n = 0 then e.i0 else if n = 1 then e.i1 else e.i2
def outDesc (e : EleEntry) (o : Nat) : OutDesc := if o = 0 then e.o0 else e.o1

/-- Whether input `n` is read as F48 (R106, R111): an F48 stream, or the banks in a drain. -/
def inputIsF48 (e : EleEntry) (n : Nat) : Bool :=
  (n == 0 && e.op == .drain) || (inDesc e n).fmt == .f48

/-- The load checks of R105, R111-R113 and R116 on a RUN or DRAIN with its figure. A region row or column is taken as operand A
of a transcendental instruction (DESIGN CHOICE, notes/assumptions/69.md). -/
def eleFigureOk (e : EleEntry) (is : List FInstr) : Bool :=
  let cols := eleCols e
  is.all (fun i =>
    (!fopUnary i.op || !(0x08 ≤ i.a && i.a ≤ 0x0A) || !inputIsF48 e (i.a - 8)) &&
    (match i.conv with
     | some c =>
       if fopReduces i.op then !fmtIsBlock c.dst
       else (!fmtIsBlock c.dst || cols % fmtBlock c.dst == 0)
     | none => true) &&
    (!fopWrites i.op || decide (outRowBytes i cols ≤ (outDesc e (i.dst % 2)).pitch))) &&
  decide ((outWriters is 0).length ≤ 1) && decide ((outWriters is 1).length ≤ 1)

/-- An element entry word with the figure store of its bank, checked as R108 to R116 say; `some none` for a NOP.
`fig` reads a word of the store. -/
def eleEntryOf (w : BitVec 256) (fig : Nat → W64) : Option (Option (EleEntry × List FInstr × List Val)) :=
  if bits w 255 252 = 0 then (if w = 0#256 then some none else none)
  else
    match eleEntryFields w with
    | none => none
    | some e =>
      if e.op = .sync then some (some (e, [], []))
      else if 4096 < e.figBase + e.figLen + 4 then none
      else
        let ws := (List.range (e.figLen + 4)).map (fun k => fig (e.figBase + k))
        match finstrsOf operandOk (ws.take e.figLen) with
        | none => none
        | some is =>
          if eleFigureOk e is then some (some (e, is, constantsOf (ws.drop e.figLen))) else none

/-- The words of a figure an action carries: its instructions and constants (R108). -/
def figureWords (w : BitVec 256) (fig : Nat → W64) : List W64 :=
  (List.range (bits w 239 235 + 1 + 4)).map (fun k => fig (bits w 251 240 + k))

end Sys2Proof.Machine
end

