-- ==== Sys2Proof/Machine/Units.lean ====
section
/-!
DEFINITION. The state of the compute, memory and control units: arrays and banks (spec/03, spec/04), census (spec/05),
element engines (spec/06), memory, tip-in buffers, regulators and movers (spec/07), the caller (spec/08, spec/09).
-/

namespace Sys2Proof.Machine

/-- A memory: the bytes that differ from zero, addresses strictly rising (notes/assumptions/2.md). -/
abbrev Mem := List Host.Cell

/-! ### Device and partition states (R392, R393) -/

inductive DevState where
  | off | standby | booting | ready | running | halted
  deriving DecidableEq, Repr

inductive PState where
  | active | fencing | resetting | idle | absent
  deriving DecidableEq, Repr

/-! ### Posts of tokens (R188, R189) -/

/-- Who makes a post. -/
inductive Poster where
  | mover (c : Nat) (m : Nat)
  | spanld (c : Nat)
  | setQueue (s : Nat)
  | expander (p : Nat) (x : Nat)
  | update (p : Nat)
  | farx
  | bindery
  | census (p : Nat)
  | software
  deriving DecidableEq, Repr

structure Post where
  by_ : Poster
  fill : Bool
  token : Nat
  /-- table slots the posting EXPAND names (R286) -/
  slots : Nat
  deriving DecidableEq, Repr

/-! ### Census records (R88-R94, R474) -/

/-- A record not yet written: its identity, counts and bins. -/
structure CRec where
  unit : Nat
  tag : Nat
  fmt : Nat
  src : Nat
  fill : Bool
  step : Nat
  elems : Nat
  sat : Nat
  flush : Nat
  nan : Nat
  hist : List Nat
  deriving DecidableEq, Repr

/-- A merge accumulator (R94). -/
structure MergeAcc where
  rc : CRec
  stepLo : Nat
  stepHi : Nat
  nrec : Nat
  crossed : Bool
  anyFill : Bool
  veto : Bool
  deriving DecidableEq, Repr

structure Census where
  base : W32
  cfg : W32
  head : W32
  tail : W32
  cctl : W32
  cthr0 : W32
  cthr1 : W32
  cstat : W32
  covf : W32
  /-- records made and not yet written or merged, oldest first -/
  waiting : List CRec
  /-- merge accumulators by format code -/
  merge : Tbl MergeAcc
  deriving DecidableEq, Repr

/-! ### Arrays and banks (R49-R86) -/

inductive BankSt where
  | free | filling | queued | draining
  deriving DecidableEq, Repr

/-- An open tile (R70, R75, R76): its bank, height, mode, opening pass and the passes issued so far. -/
structure Tile where
  bank : Bool
  half : Bool
  res : Bool
  height : Nat
  passes : Nat
  rows : Nat
  ent : ArrEntry
  deriving DecidableEq, Repr

structure Arr where
  front : WSet
  back : WSet
  tile : Option Tile
  /-- the fill stream's open tile (R85) -/
  ftile : Option Tile
  bank0 : BankSt
  bank1 : BankSt
  /-- `NEXT` of the primary stream and of the fill stream (R78, R85) -/
  next : Bool
  fnext : Bool
  /-- banks held by the fill stream, and banks that were FREE when the lend began, as bit masks -/
  fillHeld : Nat
  lendFree : Nat
  deriving DecidableEq, Repr

/-- A finished-tile descriptor (R79) with the context that posted it (R106). -/
structure Desc where
  seq : Nat
  array : Nat
  bank : Bool
  rowsM1 : Nat
  quart : Bool
  half : Bool
  res : Bool
  fill : Bool
  deriving DecidableEq, Repr

/-- An array action in progress. -/
structure ArrAct where
  ent : ArrEntry
  fill : Bool
  tag : Nat
  step : Nat
  /-- bytes of the bases after the delta (R68) -/
  abase : Nat
  wbase : Nat
  /-- rows of the pass, rows issued, and the row credit of R56; a LOAD has no rows -/
  rows : Nat
  done : Nat
  credit : Nat
  /-- the number of the pass in its tile (R71) -/
  passNo : Nat
  /-- a swap not yet performed (R53) -/
  swap : Bool
  /-- the arrays whose load has not yet started, and those whose load is not complete -/
  loadDue : Nat
  loads : Nat
  /-- tiles drained by array, for a fill action: a rerun does not post them again (R85, R201) -/
  drained : Tbl Nat
  /-- events of its load, and of its pass with the measurements of R474 -/
  ldEvents : Counts
  events : Counts
  elems : Nat
  hist : List Nat
  deriving DecidableEq, Repr

/-! ### Element engines (R102-R123) -/

/-- An element action in progress: its entry, figure and the addresses after the delta. -/
structure EleAct where
  ent : EleEntry
  instrs : List FInstr
  consts : List Val
  fill : Bool
  tag : Nat
  step : Nat
  seed : W64
  rows : Nat
  row : Nat
  /-- the slot's delta, and the bases in bytes of I0, I1, I2, O0, O1 after it -/
  delta : Int
  bases : List Nat
  /-- a drain's tiles, once taken -/
  tiles : List Desc
  taken : Bool
  /-- writes of the action not yet landed -/
  writes : Nat
  /-- one record in progress for each marked instruction, by instruction number -/
  recs : Tbl CRec
  /-- a poisoned word was met (R473) -/
  dead : Bool
  deriving DecidableEq, Repr

/-- Outputs of one row on their way to the scratchpad (R120). -/
structure EleOut where
  bytes : List (Nat × Byte)
  deriving DecidableEq, Repr

structure Engine where
  arrs : Tbl Arr
  acts : List ArrAct
  /-- fill actions suspended by a reclaim, and fill passes whose tiles are not all drained (R85, R201) -/
  suspended : List ArrAct
  undrained : List ArrAct
  /-- results of row steps on their way to the banks, oldest first (R81) -/
  inflight : List (List (Nat × W48))
  bankMem : Tbl W48
  queue : List Desc
  seq : Nat
  arrErr : W32
  accErr : W32
  eles : List EleAct
  eleSuspended : List EleAct
  outs : List EleOut
  eleErr : W32
  seedLo : W32
  seedHi : W32
  step : W32
  lastSeq : Nat
  deriving DecidableEq, Repr

/-! ### Movers (R150-R153) -/

inductive MovOp where
  | copy | zero | seal
  deriving DecidableEq, Repr

structure MovEntry where
  op : MovOp
  token : Nat
  post : Bool
  dmask : Nat
  verify : Bool
  produce : Bool
  srcSram : Bool
  src : Nat
  dstSram : Bool
  dst : Nat
  len : Nat
  rows : Nat
  planes : Nat
  spitch : Nat
  dpitch : Nat
  splane : Nat
  dplane : Nat
  deriving DecidableEq, Repr

structure MovAct where
  /-- the entry with the delta added to its addresses -/
  ent : MovEntry
  fill : Bool
  running : Bool
  /-- rows read and not yet written: destination address and bytes -/
  data : List (Nat × List Byte)
  /-- slow-tier lines not yet requested: slow-tier offset, place in SRAM or device space, bytes to write (R149, R379) -/
  slowTodo : List (Nat × Nat × List Byte)
  /-- slow-tier requests not yet completed -/
  slow : List Nat
  /-- writes to the slow tier have been requested -/
  wrote : Bool
  /-- the address and `MEM_ERR` bit of a fault found during the action -/
  faultAt : Option (Nat × Nat)
  /-- suspended by a reclaim (R201) -/
  suspended : Bool
  /-- rows still to move, source, destination and length: pieces written before a reclaim are gone (R151, R201) -/
  left : List (Nat × Nat × Nat)
  /-- the global interleave was rewritten under it, so its mapping is not defined (R135) -/
  loose : Bool
  deriving DecidableEq, Repr

structure Mover where
  queue : List MovAct
  deriving DecidableEq, Repr

/-! ### Tip-in buffers and regulators (R139-R145) -/

/-- A held line: its number (address / 256), the bytes written by offset, its class and state. -/
structure TipLine where
  line : Nat
  data : Tbl Byte
  cls : Nat
  flushing : Bool
  covered : Bool
  deriving DecidableEq, Repr

/-- A write waiting at the buffer (R139, R140). -/
structure TipWait where
  addr : Nat
  bytes : List Byte
  cls : Nat
  deriving DecidableEq, Repr

structure Tip where
  /-- held lines, allocated longest ago first -/
  lines : List TipLine
  waiting : List TipWait
  fencing : Bool
  alloc : Nat
  freed : Nat
  deriving DecidableEq, Repr

/-- A sequence that waits at a pseudo-channel for its grant: requester, class, pseudo-channel and local offsets, whole
atoms, and whether its action has made its last access (R133, R143). -/
structure HbmReq where
  by_ : Option Poster
  cls : Nat
  write : Bool
  chan : Nat
  lo : Nat
  hi : Nat
  ended : Bool
  deriving DecidableEq, Repr

structure Regs where
  /-- sequences that wait for a grant, oldest first -/
  reqs : List HbmReq
  /-- `BWR_CLASSc`, the buckets in 1/256 bytes, and the rotation pointers (R143, R144) -/
  cls : Tbl W32
  bucket : Tbl Int
  rotate : Nat
  borrowRotate : Nat
  cfgerr : Bool
  deriving DecidableEq, Repr

/-- The memory side of a partition (R17): census, memory errors, tip-in buffer, regulators. -/
structure MemSide where
  census : Census
  err : W32
  erraddr : Nat
  erraddrSram : Bool
  sramCe : Nat
  chk : Nat
  tip : Tip
  regs : Regs
  deriving DecidableEq, Repr

/-! ### The stream (R155-R203) -/

/-- What a fetched measure's tile turned out to be (R179). -/
inductive FetchState where
  | good | check | poisoned | fenced
  deriving DecidableEq, Repr

/-- A fetched or replayed measure with its effective bank (R175). -/
structure Meas where
  idx : Nat
  w : BitVec 4096
  bank : Bool
  fetched : FetchState
  replayed : Bool
  deriving DecidableEq, Repr

/-- Units that take actions from the measure bus. -/
inductive BusUnit where
  | array (e : Nat)
  | element (e : Nat)
  | mover (c : Nat) (m : Nat)
  | core (c : Nat)
  deriving DecidableEq, Repr

/-- An action broadcast and not yet taken by its unit: the copied entry (R165), the delta, the span and the bank. -/
structure BusAct where
  unit : BusUnit
  fill : Bool
  entry : BitVec 256
  fig : List W64
  delta : Int
  span : Nat
  bank : Bool
  index : Nat
  deriving DecidableEq, Repr

/-- A SPANLD load: core, register, value, post, the stream cycle of its measure (R161, R172), and the word's address while
the load waits for a held post of its core (R189). -/
structure SpanLoad where
  core : Nat
  reg : Nat
  val : Nat
  post : Option Nat
  at_ : W64
  wait : Option Nat
  deriving DecidableEq, Repr

structure Caller where
  run : Bool
  issued : Bool
  pc : Nat
  err : W32
  bankxor : Bool
  verA : W32
  verB : W32
  loadA : Bool
  loadB : Bool
  span : Tbl W32
  /-- by span register, the stream cycle and the core of the SPANLD that wrote it last (R161) -/
  spanBy : Tbl (W64 × Nat)
  loop : Tbl W32
  img : Nat
  imgCount : Nat
  /-- `ENGMAP` of the running image (R179) -/
  engmap : Nat
  /-- index the caller requests next, and requests in flight -/
  reqNext : Nat
  inflight : List Nat
  /-- arrived measures in order; the first 32 are the fetch queue, the others held beside it -/
  queue : List Meas
  /-- measures of a replayed segment not yet delivered, and those delivered and not issued -/
  replay : List Meas
  delivered : List Meas
  /-- the measure whose span is running, with the span's length; none while a measure is due -/
  current : Option (Meas × Nat)
  /-- hundredths of a cycle that the span has run, as the clock's periods count them (R185) -/
  ran : Nat
  /-- a fault of a running unit that stops the stream at its next issue test (R167) -/
  faultPend : Bool
  scyc : W64
  halting : Bool
  /-- HALT's span has ended; accepted actions run on (R392) -/
  draining : Bool
  /-- the bits of `CAL_ERR` that caused the last stop at an issue test (R192) -/
  cause : W32
  wdog : W32
  wdgStat : W32
  tokdisc : Nat
  deriving DecidableEq, Repr

structure Tokens where
  counts : Tbl Nat
  fcounts : Tbl Nat
  /-- posts on their way to the caller (R188) -/
  flight : List Post
  /-- posts held by their units (R189) -/
  held : List Post
  /-- posts of measures held by the caller (R159), by token -/
  own : Tbl Nat
  fown : Tbl Nat
  deriving DecidableEq, Repr

structure Reprise where
  segs : Tbl (List Meas)
  /-- the segment the next START records into, and the one an open recording fills -/
  seg : Nat
  recording : Option Nat
  deriving DecidableEq, Repr

structure Fill where
  en : Bool
  run : Bool
  base : Nat
  size : Nat
  img : Nat
  imgCount : Nat
  pc : Nat
  err : W32
  loop : Tbl W32
  /-- token the current fill measure posts when its span ends -/
  post : Option Nat
  halting : Bool
  stopping : Bool
  /-- lent cores and cores being reclaimed, as bit masks -/
  lent : Nat
  reclaiming : Nat
  /-- the last fill measure issued, whose span the fill cycle counter runs -/
  current : Option Meas
  /-- the fill measure due, where it is fetched (R175, R177) -/
  fetched : Option Meas
  deriving DecidableEq, Repr

/-- Action tables and figure stores of one bank: entries by table, unit and index (R170). -/
structure Tables where
  array : Tbl (Tbl (BitVec 128))
  element : Tbl (Tbl (BitVec 256))
  figure : Tbl (Tbl W64)
  mover : Tbl (Tbl (BitVec 256))
  coreMover : Tbl (Tbl (BitVec 256))
  core : Tbl (Tbl (BitVec 256))
  /-- entries whose stored words are poisoned: table kind, unit, index (R170) -/
  poison : List (Nat × Nat × Nat)
  /-- entries with a single-bit error, which a read corrects (R128, R170) -/
  flips : List (Nat × Nat × Nat)
  deriving DecidableEq, Repr

/-! ### Reset values -/

def arrReset : Arr := ⟨wsetEmpty, wsetEmpty, none, none, .free, .free, false, false, 0, 0⟩

def engineReset : Engine :=
  { arrs := [], acts := [], suspended := [], undrained := [], inflight := [], bankMem := [], queue := [], seq := 0,
    arrErr := 0, accErr := 0, eles := [], eleSuspended := [], outs := [], eleErr := 0, seedLo := 0, seedHi := 0,
    step := 0, lastSeq := 0 }

def censusReset : Census :=
  { base := 0, cfg := 0, head := 0, tail := 0, cctl := 0, cthr0 := 0, cthr1 := 0, cstat := 0, covf := 0,
    waiting := [], merge := [] }

def moverReset : Mover := ⟨[]⟩

def tipReset : Tip := ⟨[], [], false, 0, 0⟩

/-- `SHARE` at reset by class (R143). -/
def shareReset (c : Nat) : Nat := [48, 8, 16, 128, 24, 8, 8, 16].getD c 0

/-- `BWR_CLASSc` at reset: BORROW 1, BURST 0x10 (R154). -/
def bwrClassReset (c : Nat) : W32 := BitVec.ofNat 32 (2 ^ 31 + 0x10 * 2 ^ 16 + shareReset c)

/-- A full bucket, in 1/256 bytes (R144); the spec gives no reset value (notes/assumptions/3.md). -/
def bucketFull (w : W32) : Int := (bits w 23 16 * 4096 * 256 : Nat)

def regsReset : Regs := ⟨[], [], [], 0, 0, false⟩

def memSideReset : MemSide :=
  { census := censusReset, err := 0, erraddr := 0, erraddrSram := false, sramCe := 0, chk := 0, tip := tipReset,
    regs := regsReset }

def callerReset : Caller :=
  { run := false, issued := false, pc := 0, err := 0, bankxor := false, verA := 0, verB := 0, loadA := false,
    loadB := false, span := [], spanBy := [], loop := [], img := 0, imgCount := 0, engmap := 0, reqNext := 0, inflight := [], queue := [],
    replay := [], delivered := [], current := none, ran := 0, faultPend := false, scyc := 0, halting := false,
    draining := false, cause := 0, wdog := 0x64, wdgStat := 0, tokdisc := 0 }

def tokensReset : Tokens := ⟨[], [], [], [], [], []⟩

def repriseReset : Reprise := ⟨[], 0, none⟩

def fillReset : Fill :=
  { en := false, run := false, base := 0, size := 0, img := 0, imgCount := 0, pc := 0, err := 0, loop := [],
    post := none, halting := false, stopping := false, lent := 0, reclaiming := 0, current := none, fetched := none }

def tablesReset : Tables := ⟨[], [], [], [], [], [], [], []⟩

end Sys2Proof.Machine
end

