-- ==== Sys2Proof/Machine/CommUnits.lean ====
section
/-!
DEFINITION. The state of the device links and sets (spec/11), of compression and the expanders (spec/12), and the core
action entry (spec/08 R172, spec/11 R244, spec/12 R287).
-/

namespace Sys2Proof.Machine

/-! ### Core actions (R172) -/

inductive SetOp where
  | allReduce | reduceScatter | allGather | broadcast | allToAll | permute | barrier | rsUpd | agUpd | commit
  deriving DecidableEq, Repr

/-- A SET descriptor (R244); `fill` tells the context that enqueued it. -/
structure SetBody where
  set : Nat
  op : SetOp
  post : Bool
  token : Nat
  srcSram : Bool
  src : Nat
  dstSram : Bool
  dst : Nat
  aux : Nat
  count : Nat
  arg : Nat
  deriving DecidableEq, Repr

/-- An EXPAND descriptor (R287). -/
structure ExpBody where
  exp : Nat
  post : Bool
  token : Nat
  slots : Nat
  stream : Nat
  first : Nat
  count : Nat
  dstSram : Bool
  dst : Nat
  produce : Bool
  deriving DecidableEq, Repr

structure SpanBody where
  reg : Nat
  post : Bool
  token : Nat
  addr : Nat
  deriving DecidableEq, Repr

inductive CoreAct where
  | set (b : SetBody)
  | expand (b : ExpBody)
  | spanld (b : SpanBody)
  deriving DecidableEq, Repr

/-! ### Compression (R280-R291) -/

/-- A table slot: plane count, code lengths by plane and symbol, generation; generation 0 is empty (R286). -/
structure Slot where
  w : Nat
  lens : List (List Nat)
  gen : Nat
  deriving DecidableEq, Repr

def slotEmpty : Slot := ⟨0, [], 0⟩

structure ExpAct where
  body : ExpBody
  running : Bool
  /-- decoded blocks not yet written: destination and bytes -/
  data : List (Nat × List Byte)
  /-- blocks dropped for their generation and as bad, and an index that failed (R288) -/
  gen : Nat
  bad : Nat
  idx : Bool
  /-- poison met, and a fault of a write: address and `MEM_ERR` bit -/
  poison : Option Nat
  fault : Option (Nat × Nat)
  /-- slow-tier lines to write and those requested (R149) -/
  slowTodo : List (Nat × Nat × List Byte)
  slow : List Nat
  wrote : Bool
  /-- the global interleave was rewritten under it (R135) -/
  loose : Bool
  deriving DecidableEq, Repr

structure Cmp where
  slot0 : Slot
  slot1 : Slot
  err : W32
  /-- `CMP_CNT`: BAD and GENDROP -/
  cntBad : Nat
  cntGen : Nat
  exp : Tbl (List ExpAct)
  deriving DecidableEq, Repr

def cmpReset : Cmp := ⟨slotEmpty, slotEmpty, 0, 0, 0, []⟩

/-- A residual area of a set (R276). -/
structure ResArea where
  srcSram : Bool
  srcwin : Nat
  rbase : Nat
  size : Nat
  deriving DecidableEq, Repr

/-! ### Links (R235-R239) -/

inductive LinkState where
  | down | training | up | retrain
  deriving DecidableEq, Repr

structure Flit where
  vc : Nat
  som : Bool
  eom : Bool
  seq : Nat
  payload : List Byte
  deriving DecidableEq, Repr

/-- A whole message in the receive buffers with the flits it occupies. -/
structure RxMsg where
  bytes : List Byte
  flits : Nat
  deriving DecidableEq, Repr

structure Link where
  state : LinkState
  half : Bool
  /-- what the peer reported in training and whether it was recorded as planned (R369) -/
  upAsPlanned : Bool
  /-- unacknowledged data flits, oldest first, and how often each was replayed (R236) -/
  replay : List Flit
  replays : List Nat
  nextSeq : Nat
  rxNext : Nat
  /-- a NAK is sent and flits are discarded until the replay (R236) -/
  nakWait : Bool
  cntReplay : Nat
  cntRetrain : Nat
  lost : Nat
  /-- credits held for sending, receive buffers occupied, and this side's grants, by channel (R239) -/
  credits : Tbl Nat
  occ : Tbl Nat
  grants : Tbl Nat
  /-- credits of buffers freed while the link retrains, to be returned when it is UP (R236, R239) -/
  owed : Tbl Nat
  /-- flits waiting to be sent, by channel -/
  tx : Tbl (List Flit)
  /-- the channel the deficit round robin stands at and what is left of its quantum (R238) -/
  rrVc : Nat
  rrLeft : Nat
  /-- bytes and flits of messages not yet complete, and whole messages in the receive buffers, by channel -/
  part : Tbl RxMsg
  rx : Tbl (List RxMsg)
  /-- weights and credits by channel: in force, and set for the next training (R238) -/
  weights : List Nat
  nextWeights : List Nat
  nextCredits : List Nat
  deriving DecidableEq, Repr

def weightsReset : List Nat := [4, 16, 12, 8, 4, 12, 4, 4]
def creditsReset : List Nat := [16, 128, 96, 64, 32, 96, 48, 32]

def linkReset : Link :=
  { state := .down, half := false, upAsPlanned := false, replay := [], replays := [], nextSeq := 0, rxNext := 0,
    nakWait := false, cntReplay := 0, cntRetrain := 0, lost := 0, credits := [], occ := [], grants := [], owed := [], tx := [],
    rrVc := 0, rrLeft := 0, part := [], rx := [], weights := weightsReset, nextWeights := weightsReset,
    nextCredits := creditsReset }

/-! ### Sets (R243-R266) -/

/-- A set entry (R243). -/
structure SetCfg where
  tag : Nat
  quad : Bool
  n : Nat
  ord : Nat
  /-- Reel extents and origin -/
  ext : List Nat
  origin : List Nat
  vc : Nat
  timeout : Nat
  win : Nat
  retry : Nat
  code : Nat
  fill : Bool
  parts : Nat
  sbase : Nat
  ssize : Nat
  members : List Nat
  deriving DecidableEq, Repr

inductive SetPhase where
  | idle | run | vote | doubt | hold | unconfigured
  deriving DecidableEq, Repr

/-- Kinds of set messages (R247). -/
inductive MsgKind where
  | chunk | vote | abort | nack | wcred
  deriving DecidableEq, Repr

/-- A message of a set: its header and payload (R247). -/
structure SetMsg where
  tag : Nat
  kind : MsgKind
  attempt : Nat
  step : Nat
  from_ : Nat
  dest : Nat
  flags : Nat
  dseq : Nat
  chunk : Nat
  cchk : Nat
  payload : List Byte
  deriving DecidableEq, Repr

/-- A chunk kept until the vote decides: the message, its link, the times it was re-sent, and whether its payload is an LTC
block (R265, R285). -/
structure Retained where
  msg : SetMsg
  link : Nat
  resent : Nat
  ltc : Bool
  deriving DecidableEq, Repr

/-- A chunk to send as credits and slots allow, with its payload and check where it is formed already. `key` names the
window it draws on. -/
structure ToSend where
  chunk : Nat
  dest : Nat
  link : Nat
  key : Nat
  ready : Option (List Byte × Nat)
  deriving DecidableEq, Repr

/-- Where the running descriptor stands. -/
structure SetRun where
  body : SetBody
  /-- the stage of the operation's plan of axes, and the chunks held at it -/
  stage : Nat
  base : Nat
  len : Nat
  toSend : List ToSend
  /-- chunks received in the stage, by direction or source -/
  got : List (Nat × Nat)
  /-- dense FP32 values held from earlier additions, by chunk (R274), and coded chunks of an all-gather -/
  held : Tbl (List Byte)
  coded : Tbl (List Byte × Nat)
  /-- contributions awaiting the fixed order, by chunk * 64 + ordinal (R252) -/
  contrib : Tbl (List Byte)
  /-- chunks written at DST, and rows received by source -/
  stored : List Nat
  rows : Tbl Nat
  /-- chunks not yet taken by update units (R260) -/
  delivered : Nat
  /-- bytes written in HBM and not yet in a completed tile, as joined device ranges (R147) -/
  filled : List (Nat × Nat)
  /-- the global interleave was rewritten under it (R135) -/
  loose : Bool
  deriving DecidableEq, Repr

/-- Failures of one chunk: its sender, the descriptor and stage it belongs to, and the times met (R265). -/
structure ChunkFail where
  from_ : Nat
  dseq : Nat
  stage : Nat
  chunk : Nat
  times : Nat
  deriving DecidableEq, Repr

structure SetSt where
  cfg : Option SetCfg
  phase : SetPhase
  /-- SET_FREEZE is accepted, and the step boundary is reached (R263) -/
  freezing : Bool
  frozen : Bool
  redos : Nat
  attempt : Nat
  queue : List SetBody
  /-- a round is open: an RS_UPD has started since the last decision (R245) -/
  round : Bool
  /-- descriptors of the current work already run, oldest first (R245, R257) -/
  done : List SetBody
  run : Option SetRun
  /-- the number of the current or next descriptor (R247) -/
  dseq : Nat
  /-- messages that arrived ahead of what they are for, with the link and the window they hold -/
  early : List (Nat × SetMsg)
  mask : W64
  vetoFlag : Bool
  failFlag : Bool
  /-- stage of the vote and messages received in it; ordinals heard in a direct exchange -/
  voteStage : Nat
  voteGot : Nat
  voteFrom : List Nat
  /-- the attempt last aborted, whose further ABORT messages are absorbed (R259) -/
  aborted : Option Nat
  retained : List Retained
  /-- window slots in use -/
  window : Nat
  alloc : Nat
  freed : Nat
  /-- window credits held, by window -/
  wcred : Tbl Nat
  stale : Nat
  nack : Nat
  /-- failures of the chunks of the work (R265) -/
  nacks : List ChunkFail
  /-- steps whose round a census record vetoes (R97, R99) -/
  vetoes : List Nat
  /-- tokens that COMMITs post once the commit records of these partitions are visible, oldest first (R245) -/
  commitWait : List (Nat × List Nat)
  res : Option ResArea
  /-- residual chunks the work has used (R277) -/
  usedRes : List Nat
  deriving DecidableEq, Repr

def setReset : SetSt :=
  { cfg := none, phase := .unconfigured, freezing := false, frozen := false, redos := 0, attempt := 1, queue := [],
    round := false, done := [], run := none, dseq := 0, early := [], mask := 0, vetoFlag := false, failFlag := false,
    voteStage := 0, voteGot := 0, voteFrom := [], aborted := none, retained := [], window := 0, alloc := 0, freed := 0,
    wcred := [], stale := 0, nack := 0, nacks := [], vetoes := [], commitWait := [], res := none, usedRes := [] }

/-! ### The core action entry (R172) -/

def setOpOf : Nat → Option SetOp
  | 0 => some .allReduce | 1 => some .reduceScatter | 2 => some .allGather | 3 => some .broadcast
  | 4 => some .allToAll | 5 => some .permute | 6 => some .barrier | 7 => some .rsUpd | 8 => some .agUpd
  | 9 => some .commit | _ => none

/-- The load checks of a SET body (R244). -/
def setBodyOf (w : BitVec 256) : Option SetBody :=
  match setOpOf (bits w 245 242) with
  | none => none
  | some op =>
    let b : SetBody :=
      { set := bits w 251 246, op := op, post := bitAt w 241, token := bits w 240 235, srcSram := bitAt w 234,
        src := bits w 233 186, dstSram := bitAt w 185, dst := bits w 184 137, aux := bits w 136 88,
        count := bits w 87 64, arg := bits w 63 48 }
    let bare := op = .barrier ∨ op = .commit
    let usesArg := op = .broadcast ∨ op = .allToAll
    let usesAux := op = .allToAll ∨ op = .permute ∨ op = .rsUpd ∨ op = .agUpd
    if bits w 47 0 ≠ 0 ∨ b.count = 0 then none
    else if bare ∧ (bits w 234 88 ≠ 0 ∨ b.arg ≠ 0 ∨ b.count ≠ 1) then none
    else if (!usesArg ∧ b.arg ≠ 0) ∨ (!usesAux ∧ b.aux ≠ 0) then none
    else some b

/-- The load checks of an EXPAND body for the core of partition `c` (R287). -/
def expBodyOf (c : Nat) (w : BitVec 256) : Option ExpBody :=
  let b : ExpBody :=
    { exp := bits w 251 250, post := bitAt w 249, token := bits w 248 243, slots := bits w 242 241,
      stream := bits w 240 193, first := bits w 192 169, count := bits w 168 153 + 1, dstSram := bitAt w 152,
      dst := bits w 151 104, produce := bitAt w 103 }
  if bits w 102 0 ≠ 0 then none
  else if b.stream % 16 ≠ 0 ∨ b.stream / 0x2000000000 ≠ c ∨ 0x1FF8000000 ≤ b.stream % 0x2000000000 then none
  else if b.dst % 64 ≠ 0 then none
  else if b.produce ∧ (b.dstSram ∨ b.dst % 4096 ≠ 0 ∨ 0x20000000000 ≤ b.dst) then none
  else some b

/-- The load checks of a SPANLD body: a 4-byte aligned address in the core's own core memory (R172). -/
def spanBodyOf (c : Nat) (w : BitVec 256) : Option SpanBody :=
  let b : SpanBody := { reg := bits w 251 249, post := bitAt w 248, token := bits w 247 242, addr := bits w 241 210 }
  if bits w 209 0 ≠ 0 then none
  else if b.addr % 4 ≠ 0 ∨ b.addr < 0x60000000 + c * 0x2000000 ∨ 0x60000000 + (c + 1) * 0x2000000 ≤ b.addr then none
  else some b

/-- A core action entry of core `c`, `some none` for a NOP; nothing where the load refuses it (R172). -/
def coreEntryOf (c : Nat) (w : BitVec 256) : Option (Option CoreAct) :=
  match bits w 255 252 with
  | 0 => if w = 0#256 then some none else none
  | 1 => (setBodyOf w).map (fun b => some (.set b))
  | 2 => (expBodyOf c w).map (fun b => some (.expand b))
  | 3 => (spanBodyOf c w).map (fun b => some (.spanld b))
  | _ => none

end Sys2Proof.Machine
end

