-- ==== Sys2Proof/Machine/FarUnits.lean ====
section
/-!
DEFINITION. The state of the far exchange (spec/13), the cipher engine (spec/14), the Bindery (spec/15), and start-up,
flash and attestation (spec/21, spec/22).
-/

namespace Sys2Proof.Machine

/-! ### Far exchange (R292-R316) -/

structure FarCfg where
  fid : Nat
  set : Nat
  token : Nat
  h : Nat
  lag : Nat
  /-- bytes -/
  budget : Nat
  /-- milliseconds -/
  deadline : Nat
  guardMin : Nat
  qmin : Nat
  qfrac : Nat
  wself : Nat
  disc1 : Nat
  disc2 : Nat
  udpport : Nat
  silence : Nat
  sbuf : Nat
  rbuf : Nat
  frec : Nat
  deriving DecidableEq, Repr

inductive EpochSt where
  | rx | cur | old
  deriving DecidableEq, Repr

/-- An epoch position (R328). -/
structure Epoch where
  num : Nat
  key : List Byte
  st : EpochSt
  deriving DecidableEq, Repr

inductive PartnerSt where
  | joining | active | silent | left
  deriving DecidableEq, Repr

/-- A probe sample: delay and offset in ticks (R310). -/
structure Sample where
  delay : Int
  offset : Int
  deriving DecidableEq, Repr

/-- A segment not acknowledged: its index, the tick of its last send, how often it was sent, how many successive SACKs
reported a later one, and whether it is to be sent again (R308). -/
structure SegTx where
  seg : Nat
  last : Nat
  sends : Nat
  later : Nat
  due : Bool
  deriving DecidableEq, Repr

/-- A selection or anchor image being sent to a partner. -/
structure SendSel where
  bulk : Bool
  round : Nat
  data : List Byte
  segs : List SegTx
  deriving DecidableEq, Repr

/-- A contribution or anchor image on its way in: segments received, and those since the last SACK (R307). -/
structure RecvSel where
  bulk : Bool
  round : Nat
  total : Nat
  got : List Nat
  unacked : Nat
  /-- merged, or refused -/
  closed : Bool
  /-- segments that came before their round had a place in the receive buffer (R300, R315; notes/assumptions/36.md) -/
  early : Tbl (List Byte)
  deriving DecidableEq, Repr

/-- A partner entry (R304) with its transport (R306-R311) and epochs (R328). -/
structure Partner where
  fid : Nat
  st : PartnerSt
  /-- the port FLAGS names, and whether the partner moved to the other (R293) -/
  port : Nat
  moved : Bool
  failover : Bool
  vlanOn : Bool
  wt : Nat
  vlan : Nat
  pace : Nat
  udp : Nat
  mac : List Byte
  addr : List Byte
  /-- SEQ of the last frame sent -/
  seq : Nat
  /-- the highest SEQ received and those received within the window (R328) -/
  high : Nat
  seen : List Nat
  epochs : List Epoch
  /-- a switch was made and no frame under the CUR epoch has come yet; the end of the overlap (R331) -/
  switched : Bool
  overlap : Option Nat
  srtt : Nat
  rttvar : Nat
  rto : Nat
  sampled : Bool
  /-- SRTT before the discontinuity, while in holdover (R299, R311) -/
  holdover : Bool
  held : Nat
  maxRtt : Nat
  samples : List Sample
  theta : Int
  delta : Int
  timed : Bool
  sends : List SendSel
  recvs : List RecvSel
  /-- the round of the last selection sent to this partner -/
  given : Option Nat
  /-- the token bucket in units of 1/51,200 byte, the tick it was filled to, and a HELLO that waits for it (R309) -/
  bucket : Nat
  stamp : Nat
  hello : Bool
  /-- the tick of the last delay discontinuity (R311) -/
  jumped : Option Nat
  deriving DecidableEq, Repr

inductive FarPhase where
  | none | select | opened | closed | applying | joining
  deriving DecidableEq, Repr

/-- An entry of a far group table (R294). -/
structure FarGroup where
  base : Nat
  en : Bool
  deriving DecidableEq, Repr

/-- A pull of an anchor: the donor, the repeats so far, the donor's round and the length once known (R305). -/
structure FarJoin where
  entry : Nat
  repeats : Nat
  round : Nat
  total : Nat
  failed : Bool
  deriving DecidableEq, Repr

/-- A contribution summed at a close: its sender, its round, the partner entry it came by, its merge factor in units of
1/16,777,216, and its bytes (R300, R301). -/
structure FarTerm where
  fid : Nat
  round : Nat
  entry : Option Nat
  factor : Nat
  data : List Byte
  deriving DecidableEq, Repr

structure FarPort where
  up : Bool
  drop : Nat
  deriving DecidableEq, Repr

structure Far where
  cfg : Option FarCfg
  en : Bool
  phase : FarPhase
  forced : Bool
  void : Bool
  k : Nat
  /-- the last closed round plus one (R300) -/
  next : Nat
  /-- a round has been selected since configuration (R305) -/
  begun : Bool
  /-- the close or the apply met a bad tile (R313) -/
  stopped : Bool
  tsnap : Nat
  err : W32
  disc : Nat
  badsel : Nat
  stale : Nat
  badfrm : Nat
  port0 : FarPort
  port1 : FarPort
  ppsTick : W64
  ppsSeen : Bool
  fast : Nat
  edges : Nat
  /-- far group tables by partition and group -/
  groups : Tbl (Tbl FarGroup)
  /-- FPAR and the SEQ and round of the far record, by partition -/
  fpar : Tbl Bool
  recSeq : Tbl Nat
  recRound : Tbl Nat
  /-- partitions on which the apply of this round is complete -/
  applied : List Nat
  /-- the selection of the current round -/
  sel : List Byte
  /-- what the last close summed, kept until its apply is complete (R313) -/
  terms : List FarTerm
  partners : Tbl Partner
  join : Option FarJoin
  /-- the anchor copy pinned for a pull, and the round it stands after -/
  pinned : Option (Bool × Nat)
  /-- `FAR_FREC` by partition (R316) -/
  frec : Tbl Nat
  /-- STEP of the set when the exchange was enabled (R314) -/
  enStep : Nat
  /-- the set's parity by partition when SELECT began: the slot P of STEP kH (R295) -/
  selParity : Tbl Bool
  /-- the partner that last sent under its bucket at each port (R309) -/
  turn0 : Nat
  turn1 : Nat
  deriving DecidableEq, Repr

def farReset : Far :=
  { cfg := none, en := false, phase := .none, forced := false, void := false, k := 0, next := 0, begun := false,
    stopped := false, tsnap := 0, err := 0, disc := 0, badsel := 0, stale := 0, badfrm := 0, port0 := ⟨false, 0⟩,
    port1 := ⟨false, 0⟩, ppsTick := 0, ppsSeen := false, fast := 0, edges := 0, groups := [], fpar := [], recSeq := [],
    recRound := [], applied := [], sel := [], terms := [], partners := [], join := none, pinned := none,
    frec := [], enStep := 0, selParity := [], turn0 := 0, turn1 := 0 }

/-! ### The cipher engine (R317-R333) -/

/-- An unwrapped key (R320) and the binding it came under. -/
structure KeySlot where
  key : List Byte
  use : Nat
  owners : Nat
  keyid : Nat
  bind : Nat
  deriving DecidableEq, Repr

/-- A message of R323. -/
structure CipMsg where
  owner : Owner
  decrypt : Bool
  slot : Nat
  iv : List Byte
  aad : Nat
  aadlen : Nat
  len : Nat
  src : Nat
  dst : Nat
  tag : Nat
  /-- an access met a fenced partition, or a slow-tier access failed -/
  fenced : Bool
  failed : Bool
  /-- slow-tier lines not yet asked for, requests outstanding, and lines read, by device address -/
  todo : List (Nat × Nat × List Byte)
  slow : List Nat
  got : Tbl (List Byte)
  /-- the output is written but for the slow tier, with the status it ends in -/
  done : Option Nat
  /-- the global interleave was rewritten under it (R135) -/
  loose : Bool
  deriving DecidableEq, Repr

structure Cip where
  owner : Option Owner
  wait : List Owner
  running : Option CipMsg
  /-- save slots 0 and 1, and whether slot 1 was filled last (R325) -/
  save0 : Option CipMsg
  save1 : Option CipMsg
  last1 : Bool
  /-- descriptor banks by owner, as dwords -/
  banks : Tbl (Tbl W32)
  slots : Tbl KeySlot
  /-- bindings, held in the always-on domain, and their KEKs (R318) -/
  binds : Tbl (List Byte)
  keks : Tbl (List Byte)
  lockto : Nat
  err : W32
  tagfail : Nat
  nokey : Nat
  replay : Nat
  deriving DecidableEq, Repr

def cipReset : Cip :=
  { owner := none, wait := [], running := none, save0 := none, save1 := none, last1 := false, banks := [], slots := [],
    binds := [], keks := [], lockto := 0x000A, err := 0, tagfail := 0, nokey := 0, replay := 0 }

/-! ### The Bindery (R334-R357) -/

/-- A job descriptor (R353). -/
structure BndJob where
  num : Nat
  ctab : Nat
  n : Nat
  epoch : W32
  key : W64
  firstMb : Nat
  nmb : Nat
  b : Nat
  p : Nat
  t : Nat
  ycc : Bool
  loadLoop : Bool
  ccw : Nat
  sreg : Nat
  lreg : Nat
  token : Nat
  nbuf : Nat
  maxRows : Nat
  buf : Nat
  step : W32
  deriving DecidableEq, Repr

/-- What became of the clip at a position. -/
inductive ClipSt where
  | waiting | running | done | failed | grain | failedGrain
  deriving DecidableEq, Repr

/-- The running job: clip entries read by position, clips by position, pieces claimed, headers written, pieces handed
off, and whether the header of the last of them has been read as zero since (R350, R351). -/
structure BndRun where
  job : BndJob
  /-- micro-batches whose entries are read -/
  mbs : Nat
  entries : Tbl (List Byte)
  clips : Tbl ClipSt
  claimed : Nat
  written : List Nat
  handed : Nat
  released : Bool
  /-- the census record in progress of each die's emitter -/
  rec0 : Option CRec
  rec1 : Option CRec
  stopping : Bool
  /-- bytes written in the frame store of each busy lane (R340) -/
  stores : Tbl Nat
  deriving DecidableEq, Repr

structure Bnd where
  run : Option BndRun
  queue : List BndJob
  lastJob : Nat
  nextJob : Nat
  mbCount : Nat
  /-- the position each busy lane decodes -/
  lanes : Tbl Nat
  err : W32
  cntFail : Nat
  cntBad : Nat
  cntGrain : Nat
  seedLo : W32
  seedHi : W32
  /-- frame-store carve-out: offset and bytes; no bytes while none is set -/
  fsOff : Nat
  fsSize : Nat
  /-- filters as 512 coefficients, and colour entries as 18 FP32 codes -/
  filters : Tbl (List Int)
  colours : Tbl (List Nat)
  deriving DecidableEq, Repr

def bndReset : Bnd :=
  { run := none, queue := [], lastJob := 0, nextJob := 0, mbCount := 0, lanes := [], err := 0, cntFail := 0, cntBad := 0,
    cntGrain := 0, seedLo := 0, seedHi := 0, fsOff := 0, fsSize := 0, filters := [], colours := [] }

/-! ### Start-up, flash and attestation (R432-R445, R449, R382) -/

inductive SlotSt where
  | empty | valid | writing | invalid
  deriving DecidableEq, Repr

/-- The SPDM connection (R442). -/
inductive SpdmSt where
  | start | versioned | capable | negotiated
  deriving DecidableEq, Repr

/-- A record of the flash's replay-protected area, with the write counter it was written at and its HMAC (R435). -/
structure RpRecord where
  count : Nat
  floor : Nat
  next : Bool
  slot0 : SlotSt
  slot1 : SlotSt
  tag : List Byte
  deriving DecidableEq, Repr

structure Sec where
  /-- image slots written in service; one never written holds the factory's image -/
  img0 : Option (List Byte)
  img1 : Option (List Byte)
  /-- the flash's write counter and the record of the replay-protected area; one never written is the factory's (R435) -/
  counter : Nat
  area : Option RpRecord
  /-- the record in force: SVN floor, slot for the next start, slot states -/
  floor : Nat
  next : Bool
  slot0 : SlotSt
  slot1 : SlotSt
  /-- `SEC_BOOT` and the registers of this start; `shown` once stage 3 is reached -/
  stage : Nat
  cause : Nat
  slot : Bool
  fallback : Bool
  warm : Bool
  shown : Bool
  svn : Nat
  version : List Byte
  /-- the six measurements (R441) -/
  meas : List (List Byte)
  /-- public keys derived at this start: identity and key agreement -/
  idKey : List Byte
  kaKey : List Byte
  /-- the flash key, held in the security block (R433) -/
  flashKey : List Byte
  /-- a DOE request not yet answered, and an abort not yet in effect (R382) -/
  doe : Option (List Byte)
  doeAbort : Bool
  doeError : Bool
  spdm : SpdmSt
  /-- SPDM messages of the negotiation, of certificate retrieval and of measurements since the last signature -/
  vca : List Byte
  certLog : List Byte
  measLog : List Byte
  /-- the instruction in force at the test access port (R449) -/
  tapIr : Nat
  /-- `TRST_N` is low (R448) -/
  trstLow : Bool
  deriving DecidableEq, Repr

def secReset : Sec :=
  { img0 := none, img1 := none, counter := 0, area := none, floor := 0, next := false, slot0 := .valid, slot1 := .empty, stage := 0,
    cause := 0, slot := false, fallback := false, warm := false, shown := false, svn := 0, version := [], meas := [],
    idKey := [], kaKey := [], flashKey := [], doe := none, doeAbort := false, doeError := false, spdm := .start, vca := [], certLog := [], measLog := [], tapIr := 0, trstLow := false }

end Sys2Proof.Machine
end

