-- ==== Sys2Proof/Machine/HostUnits.lean ====
section
/-!
DEFINITION. The state of the CXL host interface (spec/17) and of fences and watchdogs (spec/20), and what the block
sends to the outside.
-/

namespace Sys2Proof.Machine

/-! ### CXL (R371-R384) -/

/-- A line the host holds (R376). -/
structure TrackLine where
  line : Nat
  excl : Bool
  /-- a BISnp for it is sent and its BIRsp awaited; whether it is a BISnpInv -/
  snooped : Bool
  inv : Bool
  deriving DecidableEq, Repr

/-- Who waits for a D2H request (R379). -/
inductive SlowUser where
  | mover (c : Nat) (m : Nat)
  | park (p : Nat) (slot : Nat)
  | expander (p : Nat) (x : Nat)
  | cipher
  deriving DecidableEq, Repr

/-- An outstanding D2H request of the slow tier. -/
structure D2h where
  id : Nat
  write : Bool
  hpa : Nat
  len : Nat
  user : SlowUser
  /-- the slow-tier device address, and where the data read goes, as the user's own address -/
  addr : Nat
  dst : Nat
  /-- the slow-tier window used -/
  window : Nat
  deriving DecidableEq, Repr

/-- A host access to memory: CXL.mem or BAR2, its device range and, of a write, the bytes (R374, R375). -/
structure HostAcc where
  mem : Bool
  addr : Nat
  len : Nat
  data : Option (List Byte)
  deriving DecidableEq, Repr

/-- The port's configuration space as far as R371 and R372 name it: what the host's enumeration sets, and viral. No command
of the table reaches it (notes/assumptions/54.md). -/
structure ConfSpace where
  classCode : BitVec 24
  bar0 : W64
  bar2 : W64
  hdmBase : W64
  hdmOn : Bool
  viral : Bool
  deriving DecidableEq, Repr

def confReset : ConfSpace :=
  { classCode := 0x120000#24, bar0 := 0, bar2 := 0, hdmBase := 0, hdmOn := false, viral := false }

structure Cxl where
  conf : ConfSpace
  up : Bool
  rate : Nat
  width : Nat
  downs : Nat
  irqStat : W32
  herr : W32
  track : List TrackLine
  /-- host requests for lines waiting for a tracker entry -/
  waitTakes : List (Nat × Bool)
  /-- host accesses waiting for lines the host holds, in the order of their arrival (R376, R138) -/
  waitHost : List HostAcc
  /-- lines that left the tracker unanswered at a fence (R377) -/
  late : List Nat
  slowWin : Tbl W32
  slowHpa : Tbl W32
  d2h : List D2h
  nextId : Nat
  /-- MSI-X table dwords (four to a vector) and pending bits (R381) -/
  msix : Tbl W32
  pba : W64
  deriving DecidableEq, Repr

def cxlReset : Cxl :=
  { conf := confReset, up := false, rate := 0, width := 0, downs := 0, irqStat := 0, herr := 0, track := [], waitTakes := [], waitHost := [], late := [], slowWin := [], slowHpa := [], d2h := [], nextId := 0, msix := [], pba := 0 }

/-! ### Fences and watchdogs (R416-R431) -/

structure Rst where
  policy : W32
  fence : W32
  discard : Nat
  errans : Nat
  sbwdog : W32
  mpBites : Nat
  mpTimeout : Nat
  bTick : W64
  kind : Nat
  detail : Nat
  bites : Nat
  fences : Nat
  fPart : Nat
  fCause : Nat
  fTick : W64
  /-- fences Jante or the hardware is to start: partition and cause -/
  req : List (Nat × Nat)
  /-- Jante is restarting after an MP bite (R417) -/
  mpDown : Bool
  /-- a device warm reset has begun, and whether RST_DEVICE awaits its 10 µs (R396, R425) -/
  warm : Bool
  /-- the drain windows of a device warm reset are open (R377, R425) -/
  windows : Bool
  /-- requesters of the service bus by rank, highest first (R418) -/
  sbOrder : List Nat
  deriving DecidableEq, Repr

def rstReset : Rst :=
  { policy := 1, fence := 0, discard := 0, errans := 0, sbwdog := 0, mpBites := 0, mpTimeout := 0x64, bTick := 0,
    kind := 0, detail := 0, bites := 0, fences := 0, fPart := 0, fCause := 0, fTick := 0, req := [],
    mpDown := false, warm := false, windows := false, sbOrder := List.range 7 }

/-- The headers under a Chotin frame: Ethernet with its optional 802.1Q tag, IPv6 and UDP (R292). -/
structure Wire where
  dstMac : List Byte
  srcMac : List Byte
  vlan : Option Nat
  srcIp : List Byte
  dstIp : List Byte
  srcPort : Nat
  dstPort : Nat
  deriving DecidableEq, Repr

/-- What the block sends to the outside (the model's own record, newest first; notes/assumptions/9.md). -/
inductive Out where
  | msi (vector : Nat)
  | hostData (bytes : List Byte)
  | completerAbort
  | unsupported
  | poisoned
  | bisnp (line : Nat) (inv : Bool)
  | d2hRead (id hpa len : Nat)
  | d2hWrite (id hpa : Nat) (bytes : List Byte)
  | mctp (tag code : Nat) (bytes : List Byte)
  | doe (bytes : List Byte)
  | doeError
  | snoopResponse (addr : Nat)
  | frame (port : Nat) (w : Wire) (f : Frame)
  | packet (port : Nat) (bytes : List Byte)
  | flit (link : Nat) (frame : BitVec 128) (payload : List Byte)
  | vid (code : Nat)
  | halve (link : Nat) (half : Bool)
  | tap (value : W64)
  deriving DecidableEq, Repr

end Sys2Proof.Machine
end

