-- ==== Sys2Proof/Machine/SystemUnits.lean ====
section
/-!
DEFINITION. The state of the power manager and the always-on domain (spec/19) and of the mailboxes and Jante (spec/18).
-/

namespace Sys2Proof.Machine

/-! ### Power and the always-on domain (R398-R415) -/

/-- The gate that holds: an ordinary one, the brake's or a peak gate (R402, R406, R410). -/
inductive Gate where
  | none | duty | brake | peak
  deriving DecidableEq, Repr

/-- What the trims and the brake move: operating point, duty, regulator scale, VC6 paused, links halved (R403). -/
structure PwrConfig where
  point : Nat
  duty : Nat
  scale : Nat
  vc6p : Bool
  half : Bool
  deriving DecidableEq, Repr

structure Pwr where
  cap : Nat
  /-- former limits that still govern, soonest over first, each with the 10 µs samples it has left (R402) -/
  lims : List (Nat × Nat)
  pavane : Bool
  order : Nat
  /-- the samples of the last 1 ms, newest first (R401) -/
  samples : List Reading
  mean : Nat
  cfg : PwrConfig
  /-- trims in force, latest first: 0 operating point, 1 memory, 2 links, 3 duty (R403) -/
  trims : List Nat
  /-- the configuration and trims in force before the brake (R410) -/
  before : Option (PwrConfig × List Nat)
  unmet : Bool
  short : Nat
  /-- bits 23 to 20 of `PWR_STAT` -/
  sticky : W32
  gate : Gate
  debt : Int
  /-- a peak gate's DUTY of 8 is in force, until the next control step (R402) -/
  peak : Bool
  temp : Nat
  /-- 95 °C was reached and 92 °C has not been passed since (R411) -/
  hot : Bool
  /-- the operating point in force, while a change to that of `cfg` is under way -/
  now : Nat
  /-- the voltage code the regulators hold (R452, R453) -/
  vid : Nat
  sensor : Nat
  /-- the junction as `PWR_TEMP` shows it: the last report since the reset -/
  shownTemp : Nat
  wakeLo : W32
  wakeHi : W32
  aonStat : W32
  latch : BitVec 14
  good : BitVec 14
  /-- the inputs `COOLANT_OK` and `PWR_BRAKE_N` (asserted), and the outputs `THERMTRIP_N`, `DEV_READY` -/
  coolant : Bool
  brake : Bool
  thermtrip : Bool
  /-- the tick counter and whether REFCLK100 runs (R413) -/
  tick : W64
  refclk : Bool
  deriving DecidableEq, Repr

def pwrConfigReset : PwrConfig := ⟨1, 16, 256, false, false⟩

def pwrReset : Pwr :=
  { cap := 0x7D0, lims := [], pavane := false, order := 0x24, samples := [], mean := 0,
    cfg := pwrConfigReset, trims := [], before := none, unmet := false, short := 0, sticky := 0,
    gate := .none, debt := 0, peak := false, temp := 0, hot := false, now := 1, vid := 30, sensor := 0, shownTemp := 0, wakeLo := 0, wakeHi := 0, aonStat := 0, latch := 0, good := 0,
    coolant := false, brake := false, thermtrip := false, tick := 0, refclk := true }

/-! ### Mailboxes and Jante (R385-R397) -/

structure Mailbox where
  cmd : W32
  plen : W32
  args : Tbl W32
  payload : Mem
  status : W32
  deriving DecidableEq, Repr

def mailboxReset : Mailbox := ⟨0, 0, [], [], 0⟩

/-- A command as Jante takes it up; mailbox 16 is the sideband, 17 one whose sender no longer waits (R389). -/
structure Req where
  src : Nat
  opcode : Nat
  tag : Nat
  plen : Nat
  args : List W64
  payload : List Byte
  deriving DecidableEq, Repr

/-- What a PENDING command holds (R387): the kind of object and its number. -/
inductive Obj where
  | set (n : Nat) | partition (n : Nat) | bank (n : Nat) | tableSlot (n : Nat) | keySlot (n : Nat)
  | partner (n : Nat) | bindery | boardWrite | fill | stream | far | link (n : Nat) | firmware | none
  deriving DecidableEq, Repr

structure Pend where
  req : Req
  obj : Obj
  /-- a number its completion needs -/
  note : Nat
  deriving DecidableEq, Repr

structure Jante where
  boxes : Tbl Mailbox
  /-- rung mailboxes not taken up, in the order of their rings -/
  rung : List Nat
  sideband : Option Req
  /-- the command under examination -/
  exam : Option Req
  pend : List Pend
  deriving DecidableEq, Repr

def janteReset : Jante := ⟨[], [], none, none, []⟩

end Sys2Proof.Machine
end

