-- ==== Sys2Proof/Machine/UpdUnits.lean ====
section
/-!
DEFINITION. The state of the update units (spec/10) and of the Folio (spec/16).
-/

namespace Sys2Proof.Machine

/-! ### Groups and rules (R209, R211) -/

structure UGroup where
  sbase0 : Nat
  sbase1 : Nat
  wbase0 : Nat
  wbase1 : Nat
  count : Nat
  ccw : Nat
  rule : Nat
  set : Nat
  gkey : Nat
  en : Bool
  mrnd : Bool
  post : Bool
  token : Nat
  schlen : Nat
  sched : Nat
  dmap : Nat
  deriving DecidableEq, Repr

structure URule where
  kind : Nat
  mom : Nat
  lenM1 : Nat
  ks : List W32
  fig : List W64
  deriving DecidableEq, Repr

/-! ### Chunks on their way (R215, R260) -/

/-- A reduced chunk delivered by a set. `good` tells whether its check holds, and `link`, `src` and `buf` where it came
from: link, sender's ordinal and chunk in the set's buffer. -/
structure Deliv where
  set : Nat
  group : Nat
  chunk : Nat
  tag : Nat
  lsq : W32
  payload : List Byte
  good : Bool
  link : Nat
  src : Nat
  buf : Nat
  deriving DecidableEq, Repr

/-- What a chunk writes, with the measurements of its three records (R215, R231). -/
structure ChunkOut where
  masters : List Byte
  codes0 : List Byte
  codes1 : List Byte
  scales : List Byte
  copy : List Byte
  cnt0 : List (Count × Nat)
  cnt1 : List (Count × Nat)
  cntw : List (Count × Nat)
  sred : Val
  deriving DecidableEq, Repr

/-- A parking slot in use (R228). -/
structure Park where
  slot : Nat
  d : Deliv
  /-- parts of the state not yet arrived, by number, and D2H requests outstanding or still to send -/
  parts : List Nat
  todo : List (Nat × Nat × List Byte)
  slow : List Nat
  lines : List (Nat × List Byte)
  /-- the rule has run and its slow-tier writes are under way -/
  applied : Bool
  /-- what the rule computed, counted once those writes are complete -/
  result : Option ChunkOut
  aborted : Bool
  failed : Bool
  deriving DecidableEq, Repr

/-- A tile of the assembly buffer (R217): its address, the bytes filled in, its group and the chunks of it still to be applied.
The list keeps the least recently used tile first. -/
structure AsmTile where
  addr : Nat
  bytes : List Byte
  group : Nat
  need : List Nat
  deriving DecidableEq, Repr

/-- Sums of a group in one attempt (R231), the schedule entry it read (R214) and the census records in progress
(R87). -/
structure GSum where
  sloc : Val
  sred : Val
  n : Nat
  sch : List Byte
  recs : List CRec
  /-- the group is applied: its records made, its noise record written -/
  closed : Bool
  deriving DecidableEq, Repr

inductive RoundSt where
  | idle | opened | applied | commit
  deriving DecidableEq, Repr

/-- A set's state in one update unit (R221). -/
structure USet where
  st : RoundSt
  step : W32
  parity : Bool
  attempt : Nat
  /-- COMMIT and ABORT events from the set not yet acted on -/
  events : List Bool
  deriving DecidableEq, Repr

def usetReset : USet := ⟨.idle, 0, false, 1, []⟩

structure Upd where
  gtab : W32
  crec : W32
  noise : W32
  park : W32
  parkSize : Nat
  seedLo : W32
  seedHi : W32
  err : W32
  dup : Nat
  chk : Nat
  groups : Tbl UGroup
  rules : Tbl URule
  sets : Tbl USet
  seq : Nat
  deliver : List Deliv
  /-- chunks whose checks are done, in the order they are applied; `none` for a parking slot's -/
  work : List (Deliv × Option Nat)
  sums : Tbl GSum
  asm : List AsmTile
  parks : List Park
  alloc : Nat
  freed : Nat
  deriving DecidableEq, Repr

def updReset : Upd :=
  { gtab := 0, crec := 0, noise := 0, park := 0, parkSize := 0x10000, seedLo := 0, seedHi := 0, err := 0, dup := 0,
    chk := 0, groups := [], rules := [], sets := [], seq := 0, deliver := [], work := [], sums := [], asm := [],
    parks := [], alloc := 0, freed := 0 }

/-! ### The Folio (R358-R370) -/

structure Folio where
  /-- the two flash copies of the board part and their write counts (R367) -/
  board0 : List Byte
  board1 : List Byte
  count0 : Nat
  count1 : Nat
  /-- the static part in the flash, where it is not as it left production -/
  static : Option (List Byte)
  /-- the copy used at this start, and the flags of the header -/
  copy : Bool
  staticOk : Bool
  boardOk : Bool
  dynOk : Bool
  headerUp : Bool
  start : W64
  dyn : List Byte
  /-- what the self-test and link training found (R368) -/
  partTest : Tbl Nat
  stackTest : Tbl Nat
  portTest : Tbl Nat
  linkRep : Tbl (Nat × Nat × Nat × W64)
  deriving DecidableEq, Repr

def folioReset : Folio :=
  { board0 := [], board1 := [], count0 := 0, count1 := 0, static := none, copy := false, staticOk := false, boardOk := false,
    dynOk := false, headerUp := false, start := 0, dyn := [], partTest := [], stackTest := [], portTest := [],
    linkRep := [] }

end Sys2Proof.Machine
end

