-- ==== Sys2Proof/Machine/State.lean ====
section
/-!
DEFINITION. The state of the block, its faults and refusals, and the state right after reset.
-/

namespace Sys2Proof.Machine

structure State where
  /-- the commands waiting, first in, first out -/
  pending : List Instr
  dev : DevState
  /-- engines the grade leaves out (R1-R3, R19), a fact of the part -/
  absent : List Nat
  pstates : Tbl PState
  engines : Tbl Engine
  /-- mover `m` of core `c` is entry `11 * c + m` -/
  movers : Tbl Mover
  mem : Tbl MemSide
  /-- `MEM_GIL_CTL` without AVAIL -/
  gil : W32
  /-- the access under way belongs to an action under which `MEM_GIL_CTL` was changed: its mapping is not defined (R135) -/
  gilLoose : Bool
  hbm : Mem
  sram : Mem
  /-- checksum entries by tile (R146) -/
  sheet : Tbl W32
  /-- poisoned 32-byte atoms of HBM and 64-bit words of SRAM (R128, R131) -/
  hbmPoison : List Nat
  sramPoison : List Nat
  /-- words of SRAM with a single-bit error that a read corrects (R128) -/
  sramFlips : List Nat
  tabA : Tables
  tabB : Tables
  cal : Caller
  tok : Tokens
  rpr : Reprise
  fill : Fill
  /-- actions broadcast on the measure bus and not yet taken (R165, R183) -/
  bus : List BusAct
  /-- SPANLD loads on their way (R172) -/
  spanlds : List SpanLoad
  cmp : Tbl Cmp
  /-- compression slots being loaded (R290) -/
  cmpLoading : List Nat
  links : Tbl Link
  sets : Tbl SetSt
  setErr : W32
  upd : Tbl Upd
  /-- what Jante knows of the update unit of a partition that is reset, until it is ACTIVE again (R424) -/
  kept : Tbl Upd
  far : Far
  cip : Cip
  bnd : Bnd
  folio : Folio
  sec : Sec
  cxl : Cxl
  rst : Rst
  pwr : Pwr
  jante : Jante
  /-- the inputs `DEV_RESET_N` and `PERST_N`, asserted -/
  devReset : Bool
  perst : Bool
  /-- how many free values the model has drawn (the model's own; notes/assumptions/5.md) -/
  freeCtr : Nat
  /-- what the block sends to the outside, newest first (the model's own; notes/assumptions/9.md) -/
  out : List Out
  deriving DecidableEq, Repr

inductive Fault where
  /-- Raised by nobody: an error of the block is a status bit, a status code or a stop of a stream; safe. -/
  | unused
  deriving DecidableEq, Repr

inductive Refusal where
  /-- Raised by an arm of `exec` whose command has no meaning yet; safe. -/
  | notModelled (mnemonic : String)
  deriving DecidableEq, Repr

def State.reset : State :=
  { pending := [], dev := .off, absent := [], pstates := [], engines := [], movers := [], mem := [], gil := 0, gilLoose := false,
    hbm := [], sram := [], sheet := [], hbmPoison := [], sramPoison := [], sramFlips := [], tabA := tablesReset, tabB := tablesReset,
    cal := callerReset, tok := tokensReset, rpr := repriseReset, fill := fillReset, bus := [], spanlds := [],
    cmp := [], cmpLoading := [], links := [], sets := [], setErr := 0, upd := [], kept := [],
    far := farReset, cip := cipReset, bnd := bndReset, folio := folioReset, sec := secReset, cxl := cxlReset,
    rst := rstReset, pwr := pwrReset, jante := janteReset, devReset := false, perst := false,
    freeCtr := 0, out := [] }

end Sys2Proof.Machine
end

