-- ==== Sys2Proof/Machine/Ops.lean ====
section
/-!
DEFINITION. The shared operations: memories in canonical form, checksums, accessors of units by number, address
decoding, HBM and SRAM accesses with the tip-in buffer, error recording, interrupts and posts.
-/

namespace Sys2Proof.Machine

/-! ### Memories -/

/-- The canonical form: addresses strictly rising, no byte that reads as an unlisted one does. -/
def Memory.wf : Mem → Bool
  | [] => true
  | [c] => c.2 != 0#8
  | c :: d :: m => c.2 != 0#8 && decide (c.1 < d.1) && Memory.wf (d :: m)

/-- The byte at an address; an unlisted one is 0 (notes/assumptions/2.md). -/
def memGet : Mem → Nat → Byte
  | [], _ => 0#8
  | c :: m, a => if c.1 = a then c.2 else memGet m a

/-- One byte written, the canonical form kept. -/
def memSet : Mem → Nat → Byte → Mem
  | [], a, b => if b = 0#8 then [] else [(a, b)]
  | c :: m, a, b =>
    if a < c.1 then (if b = 0#8 then c :: m else (a, b) :: c :: m)
    else if a = c.1 then (if b = 0#8 then m else (a, b) :: m)
    else c :: memSet m a b

def memRead (m : Mem) (a : Nat) : Nat → List Byte
  | 0 => []
  | n + 1 => memGet m a :: memRead m (a + 1) n

def memWrite : Mem → Nat → List Byte → Mem
  | m, _, [] => m
  | m, a, b :: bs => memWrite (memSet m a b) (a + 1) bs

/-- Bytes from an address below `n` numbers on. -/
def memReadNat (m : Mem) (a n : Nat) : Nat := bytesNat (memRead m a n)

/-! ### CRC-32C (R146) -/

def crcBit (c : Nat) : Nat := if c % 2 = 1 then (c >>> 1) ^^^ 0x82F63B78 else c >>> 1

def crcByte (c : Nat) (b : Byte) : Nat :=
  crcBit (crcBit (crcBit (crcBit (crcBit (crcBit (crcBit (crcBit (c ^^^ b.toNat))))))))

/-- CRC-32C of bytes in address order (R146). -/
def crc32c (bs : List Byte) : Nat := bs.foldl crcByte 0xFFFFFFFF ^^^ 0xFFFFFFFF

/-- The checksum of a tile of zeros, what an unlisted sheet entry holds (notes/assumptions/2.md). -/
def crcZeroTile : Nat := 0x98F94189

/-! ### Units by number -/

def engineOf (s : State) (e : Nat) : Engine := Tbl.get engineReset s.engines e
def setEngine (s : State) (e : Nat) (x : Engine) : State := { s with engines := Tbl.set s.engines e x }
def arrOf (x : Engine) (a : Nat) : Arr := Tbl.get arrReset x.arrs a
def setArr (x : Engine) (a : Nat) (v : Arr) : Engine := { x with arrs := Tbl.set x.arrs a v }
def moverOf (s : State) (c m : Nat) : Mover := Tbl.get moverReset s.movers (11 * c + m)
def setMover (s : State) (c m : Nat) (x : Mover) : State := { s with movers := Tbl.set s.movers (11 * c + m) x }
def memOf (s : State) (p : Nat) : MemSide := Tbl.get memSideReset s.mem p
def setMem (s : State) (p : Nat) (x : MemSide) : State := { s with mem := Tbl.set s.mem p x }
def pstateOf (s : State) (p : Nat) : PState := Tbl.get .active s.pstates p
def setPstate (s : State) (p : Nat) (v : PState) : State := { s with pstates := Tbl.set s.pstates p v }

/-- All eight partitions hold a state. -/
def allParts (f : Nat → Bool) : Bool := (List.range 8).all f

def partActive (s : State) (p : Nat) : Bool := pstateOf s p == .active

/-- An engine present: not left out by the grade (R2) nor in an ABSENT partition (R370). -/
def enginePresent (s : State) (e : Nat) : Bool :=
  decide (e < 80) && !s.absent.contains e && pstateOf s (e / 10) != .absent

/-- A mover present: mover 10 of a core whose partition is not ABSENT, or the pair of a present engine (R19). -/
def moverPresent (s : State) (c m : Nat) : Bool :=
  if m < 10 then enginePresent s (10 * c + m) else pstateOf s c != .absent

/-! ### Interrupts (R381) -/

/-- The mask bit of a vector's MSI-X entry; a vector is masked at reset. -/
def vectorMasked (s : State) (v : Nat) : Bool := bitAt (Tbl.get 1#32 s.cxl.msix (4 * v + 3)) 0

/-- A vector is raised: its cause bit sets, and where it was clear its message is sent, or its pending bit set while
it is masked. -/
def raiseVector (s : State) (v : Nat) : State :=
  if bitAt s.cxl.irqStat v then s
  else
    let s := { s with cxl := { s.cxl with irqStat := setBit s.cxl.irqStat v } }
    if vectorMasked s v then { s with cxl := { s.cxl with pba := setBit s.cxl.pba v } }
    else { s with out := .msi v :: s.out }

/-! ### Errors of a partition (R154, R419) -/

/-- The faults of `MEM_ERR` by bit. -/
abbrev errRange : Nat := 0
abbrev errCheck : Nat := 1
abbrev errTile : Nat := 2
abbrev errSheet : Nat := 3
abbrev errUnmapped : Nat := 4
abbrev errGil : Nat := 5
abbrev errSlow : Nat := 6
abbrev errUe : Nat := 7
abbrev errFenced : Nat := 8

/-- Jante is asked to fence a partition, once (R419). -/
def requestFence (s : State) (p cause : Nat) : State :=
  if partActive s p && !(s.rst.req.any (fun r => r.1 == p)) then
    { s with rst := { s.rst with req := s.rst.req ++ [(p, cause)] } }
  else s

/-- A `MEM_ERR` bit of partition `p` sets; the address is kept of the first fault since the register was clear, and
consumed poison fences the partition where the policy says so (R154, R419). -/
def memError (s : State) (p bit addr : Nat) (inSram : Bool) : State :=
  let m := memOf s p
  let m := if m.err = 0 then { m with erraddr := addr, erraddrSram := inSram } else m
  let s := raiseVector (setMem s p { m with err := setBit m.err bit }) 24
  if bit = errUe ∧ bitAt s.rst.policy 0 then requestFence s p 1 else s

/-! ### SRAM (R124, R128) -/

/-- The engine or core an SRAM address belongs to is there, and the address is in use (R124). -/
def sramMapped (s : State) (a : Nat) : Bool :=
  if a < 0x50000000 then decide (a % 0x1000000 < 0xC00000) && enginePresent s (a / 0x1000000)
  else if 0x60000000 ≤ a ∧ a < 0x70000000 then pstateOf s ((a - 0x60000000) / 0x2000000) != .absent
  else false

/-- The scratchpad slot an SRAM address lies in, or 80 for the core memories. -/
def sramSlot (a : Nat) : Nat := if a < 0x50000000 then a / 0x1000000 else 80

/-- A range stays in its scratchpad slot, or lies in core memories that are there, which adjoin (R124, R152). -/
def sramRangeOk (s : State) (lo n : Nat) : Bool :=
  n == 0 || (sramMapped s lo && sramMapped s (lo + n - 1) && sramSlot lo == sramSlot (lo + n - 1) &&
    (decide (lo < 0x50000000) || (List.range 8).all (fun c =>
      decide (lo + n ≤ 0x60000000 + c * 0x2000000) || decide (0x60000000 + (c + 1) * 0x2000000 ≤ lo) ||
        sramMapped s (0x60000000 + c * 0x2000000))))

def sramRead (s : State) (a n : Nat) : List Byte := memRead s.sram a n

/-- The words a range touches. -/
def wordsOf (a n : Nat) : List Nat := if n = 0 then [] else (List.range ((a + n - 1) / 8 - a / 8 + 1)).map (· + a / 8)

/-- Bytes written; a word written whole loses its poison, a word written in part keeps it, and both take fresh check
bits, so no single-bit error is left (R128). -/
def sramWrite (s : State) (a : Nat) (bs : List Byte) : State :=
  { s with sram := memWrite s.sram a bs,
           sramPoison := s.sramPoison.filter (fun w => !(decide (a ≤ 8 * w) && decide (8 * w + 8 ≤ a + bs.length))),
           sramFlips := s.sramFlips.filter (fun w => !(decide (a < 8 * w + 8) && decide (8 * w < a + bs.length))) }

/-- The first poisoned word a read meets. -/
def sramPoisoned (s : State) (a n : Nat) : Option Nat :=
  if s.sramPoison.isEmpty then none
  else ((wordsOf a n).find? (fun w => s.sramPoison.contains w)).map (· * 8)

/-- The partition an SRAM address belongs to (R17, R124). -/
def sramPart (a : Nat) : Nat := if a < 0x50000000 then a / 0x1000000 / 10 else (a - 0x60000000) / 0x2000000

/-- Single-bit errors a read meets are corrected in it and counted in `MEM_ECNT.SRAM_CE` (R128). -/
def sramCorrected (s : State) (a n : Nat) : State :=
  if s.sramFlips.isEmpty then s
  else
    let k := ((wordsOf a n).filter (fun w => s.sramFlips.contains w)).length
    let m := memOf s (sramPart a)
    setMem s (sramPart a) { m with sramCe := min 0xFFFF (m.sramCe + k) }

def scratchBase (e : Nat) : Nat := e * 0x1000000
def coreBase (c : Nat) : Nat := 0x60000000 + c * 0x2000000

/-! ### The device address map (R129-R136, R370) -/

/-- Where a device address leads. -/
inductive Place where
  | hbm (a : Nat)
  | sheet (a : Nat)
  | slow (off : Nat)
  | unmapped
  | beyond
  | fenced
  deriving DecidableEq, Repr

def hbmWindow : Nat := 0x2000000000
def sheetOffset : Nat := 0x1FF8000000
def hbmPart (a : Nat) : Nat := a / hbmWindow

/-- The pseudo-channel, 0 to 63, that serves a window offset; those below 32 lie on stack 2p, the others on stack 2p + 1
(R18, R132). -/
def chanOf (off : Nat) : Nat := let n := off / 256; (n % 64) ^^^ (n / 64 % 64) ^^^ (n / 4096 % 64)

def stackOf (p off : Nat) : Nat := 2 * p + chanOf off / 32

/-- The offset inside its pseudo-channel (R132). -/
def chanLocal (off : Nat) : Nat := off / 256 / 64 * 256 + off % 256

/-- An address inside a partition's window. -/
def accOfHbm (s : State) (a : Nat) : Place :=
  match pstateOf s (hbmPart a) with
  | .absent => .unmapped
  | .active => if sheetOffset ≤ a % hbmWindow then .sheet a else .hbm a
  | _ => .fenced

def gilEn (s : State) : Bool := bitAt s.gil 31
def gilSize (s : State) : Nat := bits s.gil 6 0
def gilOffset (s : State) : Nat := bits s.gil 14 8

/-- `MEM_GIL_CTL.AVAIL` (R136, R154). -/
def gilAvail (s : State) : Bool := gilEn s && allParts (partActive s)

/-- The HBM address of an offset in the global-interleave window (R134); a free one while the mapping is not defined
(R135). -/
def gilMap (s : State) (g : Nat) : Nat :=
  let n := g / 4096
  if s.gilLoose then Config.gilPlace s.freeCtr g % (8 * hbmWindow)
  else n % 8 * hbmWindow + gilOffset s * 2 ^ 30 + n / 8 * 4096 + g % 4096

/-- Where a device address leads (R129-R136). With EN clear the window lends nothing, so every offset lies beyond it
(notes/assumptions/11.md). -/
def accOf (s : State) (a : Nat) : Place :=
  if a < 0x10000000000 then accOfHbm s a
  else if a < 0x20000000000 then
    if !gilEn s then .beyond
    else if !gilAvail s then .fenced
    else if 8 * gilSize s * 2 ^ 30 ≤ a - 0x10000000000 then .beyond
    else accOfHbm s (gilMap s (a - 0x10000000000))
  else if a < 0x800000000000 then .unmapped
  else if a < 0x1000000000000 then .slow (a - 0x800000000000)
  else .unmapped

/-- A range cut at 4 KiB boundaries, within which an address leads to one place. -/
def tileChunks : Nat → Nat → Nat → List (Nat × Nat)
  | 0, _, _ => []
  | fuel + 1, a, n =>
    if n = 0 then []
    else
      let k := min n (4096 - a % 4096)
      (a, k) :: tileChunks fuel (a + k) (n - k)

def chunksIn (a n : Nat) : List (Nat × Nat) := tileChunks (n / 4096 + 2) a n

/-! ### Reading and writing HBM through the tip-in buffer (R137-R142) -/

def tipLineOf (s : State) (line : Nat) : Option TipLine :=
  (memOf s (hbmPart (line * 256))).tip.lines.find? (fun l => l.line == line)

/-- One byte as any requester reads it: the held line's byte where it is masked, else HBM's (R137, R140). -/
def hbmByte (s : State) (a : Nat) : Byte :=
  match tipLineOf s (a / 256) with
  | some l => match Tbl.get? l.data (a % 256) with
    | some b => b
    | none => memGet s.hbm a
  | none => memGet s.hbm a

def hbmRead (s : State) (a : Nat) : Nat → List Byte
  | 0 => []
  | n + 1 => hbmByte s a :: hbmRead s (a + 1) n

/-- The checksum entry of the tile at an HBM address; the last 32,768 entries of a sheet read as zero (R146). -/
def sheetGet (s : State) (a : Nat) : Nat :=
  if sheetOffset ≤ a % hbmWindow then 0 else (Tbl.get (BitVec.ofNat 32 crcZeroTile) s.sheet (a / 4096)).toNat

def sheetSet (s : State) (a crc : Nat) : State :=
  { s with sheet := Tbl.set s.sheet (a / 4096) (BitVec.ofNat 32 crc) }

/-- Bytes of the checksum sheet (R146). -/
def sheetByte (s : State) (a : Nat) : Byte :=
  let off := a % hbmWindow - sheetOffset
  BitVec.ofNat 8 (sheetGet s (hbmPart a * hbmWindow + off / 4 * 4096) >>> (8 * (off % 4)))

def sheetRead (s : State) (a : Nat) : Nat → List Byte
  | 0 => []
  | n + 1 => sheetByte s a :: sheetRead s (a + 1) n

/-- Bytes at a device address that faults nowhere. -/
def devRead (s : State) (a n : Nat) : List Byte :=
  (chunksIn a n).flatMap (fun c =>
    match accOf s c.1 with
    | .hbm h => hbmRead s h c.2
    | .sheet h => sheetRead s h c.2
    | _ => List.replicate c.2 0#8)

/-- The HBM address of the entry of the tile at an HBM address (R146). -/
def entryAddr (a : Nat) : Nat := hbmPart a * hbmWindow + sheetOffset + a % hbmWindow / 4096 * 4

/-- The checksum of the tile at an HBM address as it reads now. -/
def tileCrc (s : State) (a : Nat) : Nat := crc32c (hbmRead s (a / 4096 * 4096) 4096)

/-- The tile at an HBM address agrees with its entry (R148). -/
def tileOk (s : State) (a : Nat) : Bool := tileCrc s a == sheetGet s a

/-- The first poisoned atom of a range, but for those a full-mask atom of the tip-in buffer supersedes (R131). A read of an
atom that a held line covers in part meets its poison, be it only masked bytes that are read (notes/assumptions/69.md). -/
def hbmPoisoned (s : State) (a n : Nat) : Option Nat :=
  if s.hbmPoison.isEmpty ∨ n = 0 then none
  else
    let covered (t : Nat) : Bool := match tipLineOf s (t / 8) with
      | some l => (List.range 32).all (fun k => (Tbl.get? l.data (t % 8 * 32 + k)).isSome)
      | none => false
    (((List.range ((a + n - 1) / 32 - a / 32 + 1)).map (· + a / 32)).find?
      (fun t => s.hbmPoison.contains t && !covered t)).map (· * 32)

/-- The poison a check of the tile at an HBM address meets: in its data, or in the atom of its entry (R131, R148). -/
def tilePoisoned (s : State) (a : Nat) : Option Nat :=
  (hbmPoisoned s (a / 4096 * 4096) 4096).orElse (fun _ => hbmPoisoned s (entryAddr a) 4)

def updTip (s : State) (p : Nat) (f : Tip → Tip) : State :=
  let m := memOf s p
  setMem s p { m with tip := f m.tip }

/-! ### Traffic of the pseudo-channels (R132, R133, R143) -/

/-- A piece of traffic joins the sequence of the same action or requester stream that it follows at consecutive local offsets,
else it begins one (R133). -/
def joinSeq (x : HbmReq) : List HbmReq → List HbmReq
  | [] => [x]
  | r :: rest =>
    if !r.ended ∧ r.by_ = x.by_ ∧ r.cls = x.cls ∧ r.write = x.write ∧ r.chan = x.chan ∧ r.lo ≤ x.lo ∧ x.lo ≤ r.hi then
      { r with hi := max r.hi x.hi } :: rest
    else r :: joinSeq x rest

/-- A range cut at granules of 256 bytes. -/
def granules : Nat → Nat → Nat → List (Nat × Nat)
  | 0, _, _ => []
  | fuel + 1, a, n =>
    if n = 0 then []
    else
      let k := min n (256 - a % 256)
      (a, k) :: granules fuel (a + k) (n - k)

/-- The sequences of an access to window offsets, beside those that wait: whole atoms of each granule (R132, R133). -/
def addTraffic (by_ : Option Poster) (cls : Nat) (write : Bool) (off n : Nat) (reqs : List HbmReq) : List HbmReq :=
  (granules (n / 256 + 2) off n).foldl (fun rs g =>
    let l := chanLocal g.1
    joinSeq ⟨by_, cls, write, chanOf g.1, l / 32 * 32, (l + g.2 + 31) / 32 * 32, false⟩ rs) reqs

/-- An access to HBM is metered at its target partition under its class: its sequences wait for their grants (R143). -/
def meterHbm (s : State) (by_ : Option Poster) (cls : Nat) (write : Bool) (h n : Nat) : State :=
  let m := memOf s (hbmPart h)
  setMem s (hbmPart h) { m with regs := { m.regs with reqs := addTraffic by_ cls write (h % hbmWindow) n m.regs.reqs } }

/-- A read of device addresses is metered where it leads to HBM, the checksum sheet included (R130, R143). -/
def meterRead (s : State) (by_ : Option Poster) (cls a n : Nat) : State :=
  (chunksIn a n).foldl (fun s c => match accOf s c.1 with
    | .hbm h => meterHbm s by_ cls false h c.2
    | .sheet h => meterHbm s by_ cls false h c.2
    | _ => s) s

/-- A verifying consumer reads every tile its range touches in full, and their entries; the extra bytes are its own (R143,
R148). -/
def meterVerify (s : State) (by_ : Option Poster) (cls a n : Nat) : State :=
  if n = 0 then s
  else
    let lo := a / 4096 * 4096
    let k := (a + n + 4095) / 4096 * 4096 - lo
    (chunksIn lo k).foldl (fun s c => match accOf s c.1 with
      | .hbm h => meterHbm s by_ cls false (entryAddr h) 4
      | .sheet h => meterHbm s by_ cls false (entryAddr h) 4
      | _ => s) (meterRead s by_ cls lo k)

/-- The entry of a tile written to match its data, by a producer under its class (R143, R147). -/
def tileSeal (s : State) (cls a : Nat) : State :=
  meterHbm (sheetSet s a (tileCrc s a)) none cls true (entryAddr a) 4

/-- The entries of several tiles written. -/
def sealAll (s : State) (cls : Nat) (ts : List Nat) : State := ts.foldl (fun s t => tileSeal s cls t) s

/-- No later traffic joins the sequences of a class that name no requester: an action's accesses, `f`, are its own (R133). -/
def apart (s : State) (cls : Nat) (f : State → State) : State :=
  let close (s : State) : State := { s with mem := s.mem.map (fun m => (m.1, { m.2 with regs := { m.2.regs with
    reqs := m.2.regs.reqs.map (fun r => { r with ended := r.ended || (r.by_ == none && r.cls == cls) }) } })) }
  close (f (close s))

/-- Waiting sequences of a requester are withdrawn. -/
def dropTraffic (s : State) (by_ : Poster) : State :=
  { s with mem := s.mem.map (fun m => (m.1, { m.2 with regs := { m.2.regs with
      reqs := m.2.regs.reqs.filter (fun r => r.by_ != some by_) } })) }

def classOf (r : Regs) (c : Nat) : W32 := Tbl.get (bwrClassReset c) r.cls c
def bucketOf (r : Regs) (c : Nat) : Int := Tbl.get (bucketFull (bwrClassReset c)) r.bucket c

/-- A class with neither share nor borrowing is never granted (R145). -/
def classShut (r : Regs) (c : Nat) : Bool := bits (classOf r c) 7 0 == 0 && !bitAt (classOf r c) 31

/-- A requester's traffic still waits for its grants at an ACTIVE partition (R144). -/
def trafficWaits (s : State) (by_ : Poster) : Bool :=
  (List.range 8).any (fun p => partActive s p && (memOf s p).regs.reqs.any (fun r => r.by_ == some by_))

/-- A held line is freed (R141, R142). -/
def tipFree (t : Tip) (line : Nat) : Tip :=
  let n := (t.lines.filter (fun l => l.line == line)).length
  { t with lines := t.lines.filter (fun l => l.line != line), freed := t.freed + n }

/-- One atom of a flushed line: written whole, merged, or left alone; a poisoned atom is not merged (R131, R141). -/
def flushAtom (s : State) (l : TipLine) (k : Nat) : State :=
  let base := l.line * 256 + k * 32
  let mask := l.data.filter (fun e => decide (k * 32 ≤ e.1) && decide (e.1 < k * 32 + 32))
  if mask.isEmpty then s
  else if mask.length = 32 then
    { s with hbm := mask.foldl (fun m e => memSet m (l.line * 256 + e.1) e.2) s.hbm,
             hbmPoison := s.hbmPoison.filter (fun t => t != base / 32) }
  else if s.hbmPoison.contains (base / 32) then memError s (hbmPart base) errUe base false
  else { s with hbm := mask.foldl (fun m e => memSet m (l.line * 256 + e.1) e.2) s.hbm }

/-- The traffic of a flush, under the class of the requester that allocated the line: partial atoms are read, and every
atom with a mask is written (R141). -/
def flushTraffic (s : State) (l : TipLine) : State :=
  let masked (k : Nat) : Nat := (l.data.filter (fun e => decide (k * 32 ≤ e.1) && decide (e.1 < k * 32 + 32))).length
  let some_ := (List.range 8).filter (fun k => masked k != 0)
  let s := (some_.filter (fun k => masked k != 32)).foldl (fun s k => meterHbm s none l.cls false (l.line * 256 + k * 32) 32) s
  some_.foldl (fun s k => meterHbm s none l.cls true (l.line * 256 + k * 32) 32) s

/-- A held line written to HBM and freed (R141). -/
def tipFlush (s : State) (line : Nat) : State :=
  match tipLineOf s line with
  | none => s
  | some l =>
    let s := apart ((List.range 8).foldl (fun s k => flushAtom s l k) s) l.cls (fun s => flushTraffic s l)
    updTip s (hbmPart (line * 256)) (fun t => tipFree t line)

def tblSetMany (t : Tbl Byte) (off : Nat) : List Byte → Tbl Byte
  | [] => t
  | b :: bs => tblSetMany (Tbl.set t off b) (off + 1) bs

/-- Bytes merged into the held line of their address, or into a line newly taken (R140). -/
def tipMerge (t : Tip) (line off : Nat) (bs : List Byte) (cls : Nat) : Tip :=
  if t.lines.any (fun l => l.line == line) then
    { t with lines := t.lines.map (fun l => if l.line = line then { l with data := tblSetMany l.data off bs } else l) }
  else { t with lines := t.lines ++ [⟨line, tblSetMany [] off bs, cls, false, false⟩], alloc := t.alloc + 1 }

def tipHeld (t : Tip) (line : Nat) : Bool := t.lines.any (fun l => l.line == line)

/-- A partial write of one line by a unit is taken at once: where no line is free the oldest is flushed
(R140; notes/assumptions/12.md), and a mask that becomes full is written as a whole line (R141). -/
def tipWrite (s : State) (line off : Nat) (bs : List Byte) (cls : Nat) : State :=
  let p := hbmPart (line * 256)
  let t := (memOf s p).tip
  let s := if tipHeld t line then s
    else match t.lines with
      | l :: _ => if 512 ≤ t.lines.length then tipFlush s l.line else s
      | [] => s
  let s := updTip s p (fun t => tipMerge t line off bs cls)
  match tipLineOf s line with
  | some l => if l.data.length = 256 then tipFlush s line else s
  | none => s

/-- A whole line to the controller: a held line is superseded and freed, atoms lose their poison (R131, R139). -/
def lineWrite (s : State) (line : Nat) (bs : List Byte) : State :=
  let s := { s with hbm := memWrite s.hbm (line * 256) bs,
                    hbmPoison := s.hbmPoison.filter (fun t => t / 8 != line) }
  updTip s (hbmPart (line * 256)) (fun t => tipFree t line)

/-- A write within one line: whole to the controller, metered there, or partial to the tip-in buffer (R139, R143). -/
def writeNow (s : State) (cls a : Nat) (bs : List Byte) : State :=
  if bs.length = 256 then meterHbm (lineWrite s (a / 256) bs) none cls true a 256
  else tipWrite s (a / 256) (a % 256) bs cls

/-- Flushes under way at a buffer end, and the writes that wait there are taken in their order, before a unit's write
that must follow them (R138-R140; notes/assumptions/12.md). -/
def tipSettle (s : State) (p : Nat) : State :=
  let t := (memOf s p).tip
  if t.waiting.isEmpty && t.lines.all (fun l => !l.flushing) then s
  else
    let s := (t.lines.filter (·.flushing)).foldl (fun s l => tipFlush s l.line) s
    t.waiting.foldl (fun s w => writeNow s w.cls w.addr w.bytes) (updTip s p (fun t => { t with waiting := [] }))

/-- A write must follow what the buffer has under way: a flush of its line, or writes that wait. -/
def tipBusy (s : State) (line : Nat) : Bool :=
  let t := (memOf s (hbmPart (line * 256))).tip
  !t.waiting.isEmpty || t.lines.any (fun l => l.line == line && l.flushing)

/-- A range cut at 256-byte lines. -/
def lineChunks : Nat → Nat → List Byte → List (Nat × List Byte)
  | 0, _, _ => []
  | fuel + 1, a, bs =>
    if bs.isEmpty then []
    else
      let k := 256 - a % 256
      (a, bs.take k) :: lineChunks fuel (a + k) (bs.drop k)

/-- A write to usable HBM (R137, R139). -/
def hbmWrite (s : State) (cls a : Nat) (bs : List Byte) : State :=
  (lineChunks (bs.length / 256 + 2) a bs).foldl (fun s c =>
    writeNow (if tipBusy s (c.1 / 256) then tipSettle s (hbmPart c.1) else s) cls c.1 c.2) s

/-- A write to device addresses that faults nowhere; bytes for the sheet are discarded with SHEET (R130). -/
def devWrite (s : State) (cls a : Nat) (bs : List Byte) : State :=
  ((chunksIn a bs.length).foldl (fun (acc : State × List Byte) c =>
    let here := acc.2.take c.2
    let s := match accOf acc.1 c.1 with
      | .hbm h => hbmWrite acc.1 cls h here
      | .sheet h => memError acc.1 (hbmPart h) errSheet h false
      | _ => acc.1
    (s, acc.2.drop c.2)) (s, bs)).1

/-- The first fault of an access to a range of device addresses: the address and its `MEM_ERR` bit. -/
def devFault (s : State) (a n : Nat) : Option (Nat × Nat) :=
  (chunksIn a n).findSome? (fun c =>
    match accOf s c.1 with
    | .unmapped => some (c.1, errUnmapped)
    | .beyond => some (c.1, errGil)
    | .fenced => some (c.1, errFenced)
    | _ => none)

/-- The first poisoned atom a device read meets. -/
def devPoisoned (s : State) (a n : Nat) : Option Nat :=
  if s.hbmPoison.isEmpty then none
  else (chunksIn a n).findSome? (fun c =>
    match accOf s c.1 with
    | .hbm h => hbmPoisoned s h c.2
    | .sheet h => hbmPoisoned s h c.2
    | _ => none)

/-- The HBM tiles a device range touches, where it leads to HBM. -/
def tilesOf (s : State) (a n : Nat) : List Nat :=
  (chunksIn a n).filterMap (fun c =>
    match accOf s c.1 with
    | .hbm h => some (h / 4096 * 4096)
    | _ => none)

/-- A range lies wholly in the usable HBM of one partition that is there (R180). -/
def usableHbm (s : State) (a n : Nat) : Bool :=
  decide (a < 0x10000000000) && pstateOf s (hbmPart a) != .absent &&
    decide (a % hbmWindow + n ≤ sheetOffset)

/-! ### The host line tracker (R376) -/

/-- The tracked lines an access must wait for: every line for a write, an Exclusive one for a read. -/
def trackedIn (s : State) (a n : Nat) (write : Bool) : List TrackLine :=
  s.cxl.track.filter (fun l => decide (a < l.line * 64 + 64) && decide (l.line * 64 < a + n) && (write || l.excl))

/-- BISnp sent for the lines an access waits for that are not yet snooped. -/
def sendSnoops (s : State) (ls : List TrackLine) (inv : Bool) : State :=
  let fresh := ls.filter (fun l => !l.snooped)
  { s with cxl := { s.cxl with track := s.cxl.track.map (fun l =>
              if fresh.any (fun f => f.line == l.line) then { l with snooped := true, inv := inv } else l) },
           out := fresh.map (fun l => Out.bisnp l.line inv) ++ s.out }

/-- HBM ranges, given as device addresses, that an access touches, the checksum sheet included. -/
def hbmRanges (s : State) (a n : Nat) : List (Nat × Nat) :=
  (chunksIn a n).filterMap (fun c =>
    match accOf s c.1 with
    | .hbm h => some (h, c.2)
    | .sheet h => some (h, c.2)
    | _ => none)

/-- Ranges with the entries of the tiles they touch, as a verifying consumer and a producer reach them (R147, R148). -/
def withEntries (s : State) (rs : List (Nat × Nat)) : List (Nat × Nat) :=
  rs ++ (rs.flatMap (fun r => tilesOf s r.1 r.2)).map (fun t => (entryAddr t, 4))

/-- Ranges widened to whole tiles, with their entries: what verifying them reads (R148). -/
def verifySpans (s : State) (rs : List (Nat × Nat)) : List (Nat × Nat) :=
  withEntries s ((rs.filter (fun r => r.2 != 0)).map (fun r => (r.1 / 4096 * 4096, (r.1 + r.2 + 4095) / 4096 * 4096 - r.1 / 4096 * 4096)))

/-- A device range leads to a partition that never grants its class (R145). -/
def shutAt (s : State) (cls a n : Nat) : Bool :=
  (hbmRanges s a n).any (fun r => classShut (memOf s (hbmPart r.1)).regs cls)

/-- An access of an action under which the global interleave was rewritten: its mapping is not defined (R135). -/
def loosely (loose : Bool) (s : State) (f : State → State) : State := { f { s with gilLoose := loose } with gilLoose := false }

/-- The tracked lines that hold back an access to a device range. -/
def trackedDev (s : State) (a n : Nat) (write : Bool) : List TrackLine :=
  if s.cxl.track.isEmpty then [] else (hbmRanges s a n).flatMap (fun r => trackedIn s r.1 r.2 write)

/-- Host lines that hold back an access (R376): `rd` is read and `wr` written. The snoops are sent. -/
def hostHolds (s : State) (rd wr : List (Nat × Nat)) : Option State :=
  let held := rd.flatMap (fun r => trackedDev s r.1 r.2 false)
  let heldW := wr.flatMap (fun r => trackedDev s r.1 r.2 true)
  if held.isEmpty && heldW.isEmpty then none else some (sendSnoops (sendSnoops s held false) heldW true)

/-! ### Posts (R188) -/

/-- A unit makes a post; it reaches the caller later. -/
def sendPost (s : State) (by_ : Poster) (fill : Bool) (token : Nat) (slots : Nat := 0) : State :=
  { s with tok := { s.tok with flight := s.tok.flight ++ [⟨by_, fill, token, slots⟩] } }

/-- A unit whose post is held starts no further action (R189). -/
def unitHeld (s : State) (by_ : Poster) : Bool := s.tok.held.any (fun h => h.by_ == by_)

/-- Held posts of a unit that count against an action of a context: the fill stream's never hold a primary action back
(R189, R202). -/
def heldFor (s : State) (by_ : Poster) (fill : Bool) : Nat :=
  (s.tok.held.filter (fun h => h.by_ == by_ && (fill || !h.fill))).length

/-! ### Faults reported to the caller (R167, R192) -/

/-- `CAL_STOP` and the stream after a stop: no further measure, RUN clear, the stream interrupt (R192). -/
def streamStop (s : State) (pc : Nat) (issued : Bool) : State :=
  raiseVector { s with cal := { s.cal with run := false, issued := issued, pc := pc, cause := 0 } } 16

/-- The fill context stops (R202). -/
def fillStop (s : State) (bit : Nat) : State :=
  raiseVector { s with fill := { s.fill with run := false, err := setBit s.fill.err bit } } 16

/-- A unit faults an action at issue: the stream stops at the issuing measure, which has issued (R167). -/
def faultAtIssue (s : State) (fill : Bool) : State :=
  if fill then fillStop s 1
  else
    let s := { s with cal := { s.cal with err := setBit s.cal.err 1 } }
    if s.cal.run then streamStop s s.cal.pc true else s

/-- A unit faults an action it is running: the stream stops at its next issue test (R167). -/
def faultInRun (s : State) (fill : Bool) : State :=
  if fill then fillStop s 1
  else { s with cal := { s.cal with err := setBit s.cal.err 1, faultPend := s.cal.run } }

/-! ### Census records (R87-R91) -/

def histZero : List Nat := List.replicate 32 0

/-- One more element in a bin. -/
def histAdd (h : List Nat) (b : Nat) : List Nat := h.set b (h.getD b 0 + 1)

/-- The bin of an element, its scale removed (R88). -/
def histBin (top : Int) (v : Val) : Nat :=
  match v with
  | .fin _ num den =>
    if num = 0 then 0
    else
      let x := top - floorLog2 num den + 2
      if x < 1 then 1 else if 30 < x then 30 else x.toNat
  | _ => 31

/-- The reference exponent of a destination (R88); `wref` is `MEM_CCTL.WREF`. -/
def histTop (f : Fmt) (wref : Nat) : Int :=
  match f with
  | .fp32 | .bf16 | .fp16 | .f48 => signedOf 8 wref
  | .e4m3 => 8 | .e5m2 => 15 | .e4m4u => 8
  | .int8 => 6 | .int4 => 2 | .int2 => 0
  | f => (fmtEmax f : Int)

/-- A record waits at its partition to be written or merged (R91). -/
def pushCensus (s : State) (p : Nat) (r : CRec) : State :=
  let m := memOf s p
  setMem s p { m with census := { m.census with waiting := m.census.waiting ++ [r] } }

def wrefOf (s : State) (p : Nat) : Nat := bits (memOf s p).census.cctl 7 0

end Sys2Proof.Machine
end

