-- ==== Sys2Proof/Machine/Clock.lean ====
section
/-!
DEFINITION. What one 10 ns period of `REFCLK100` does whatever is commanded (spec/22 R456, spec/07 R144).
-/

namespace Sys2Proof.Machine

/-- A bucket after one period: SHARE × 9.6 bytes per ns, scaled, up to its size, in 1/256 bytes (R144). -/
def bucketRefill (scale : Nat) (r : Regs) (c : Nat) : Int :=
  let w := Tbl.get (bwrClassReset c) r.cls c
  min (bucketFull w) (Tbl.get (bucketFull (bwrClassReset c)) r.bucket c + (bits w 7 0 * 96 * scale : Nat))

/-- The buckets of one partition after one period. -/
def regsPeriod (scale : Nat) (r : Regs) : Regs :=
  { r with bucket := (List.range 8).map (fun c => (c, bucketRefill scale r c)) }

/-- The clocks outside the always-on domain run in these states (R412, R414). -/
def clocksRun (d : DevState) : Bool := d == .booting || d == .ready || d == .running

/-- What an event of the clocked units comes to: `t`, or nothing while the clocks stand still. -/
def clocked (s t : State) : State := if clocksRun s.dev then t else s

/-- Engine clock by POINT (R400). -/
def pointMhz (p : Nat) : Nat := [1800, 1500, 1350, 1200, 1050, 900, 750, 600].getD p 0

/-- The registers answer: the core's clocks run, or BAR0 stays up in HALTED (R439). -/
def regsUp (s : State) : Bool := clocksRun s.dev || s.dev == .halted

/-- A write of software arrives: none does while `PERST_N` holds the port and the mailboxes in reset (R426, R458). -/
def softUp (s : State) : Bool := regsUp s && !s.perst

/-- One more member of a set kept as a list. -/
def addOne (xs : List Nat) (x : Option Nat) : List Nat := match x with
  | some v => if xs.contains v then xs else xs ++ [v]
  | none => xs

/-- A word of the action tables is there: kind as R173 has it, engine or core, and index (R170). -/
def tableWordThere (s : State) (w : Nat × Nat × Nat) : Bool :=
  decide (1 ≤ w.1) && decide (w.1 ≤ 6) && decide (w.2.2 < [0, 4096, 1024, 4096, 1024, 1024, 1024].getD w.1 0) &&
    (if w.1 ≤ 4 then enginePresent s w.2.1 else decide (w.2.1 < 8) && pstateOf s w.2.1 != .absent)

/-- An error met by a word of the tables: a single-bit one, or a double-bit one, which poisons it (R128, R170). -/
def tableError (s : State) (double : Bool) (x : Option (Bool × Nat × Nat × Nat)) : State :=
  match x with
  | none => s
  | some (b, w) =>
    let add (t : Tables) : Tables :=
      if double then { t with poison := if t.poison.contains w then t.poison else t.poison ++ [w] }
      else { t with flips := if t.flips.contains w then t.flips else t.flips ++ [w] }
    if !tableWordThere s w then s else if b then { s with tabB := add s.tabB } else { s with tabA := add s.tabA }

/-- What a period brings to memory: a word of SRAM with a single-bit error, which a read corrects, or with a double-bit
error, which poisons it, and an atom of HBM that its stack reports uncorrectable (R128, R131). Which, if any, is a free
value (notes/assumptions/55.md), and the action tables meet errors as SRAM does (R170). -/
def memoryErrors (s : State) : State :=
  let s := tableError (tableError s false (Config.tableFlip s.freeCtr)) true (Config.tableDouble s.freeCtr)
  let inUse (w : Option Nat) : Option Nat := w.filter (fun w => sramMapped s (8 * w))
  { s with sramFlips := addOne s.sramFlips (inUse (Config.sramFlip s.freeCtr)),
           sramPoison := addOne s.sramPoison (inUse (Config.sramDouble s.freeCtr)),
           hbmPoison := addOne s.hbmPoison ((Config.hbmBroken s.freeCtr).filter (fun t => decide (t < 8 * hbmWindow / 32))),
           freeCtr := s.freeCtr + 1 }

/-- One period of the reference clock: the tick counter advances by 64 while the clock is there (R413, R456), memory may
meet an error, and the buckets refill (notes/assumptions/6.md). -/
def clockPeriod (s : State) : State :=
  let s := if s.dev ≠ .off ∧ s.pwr.refclk then { s with pwr := { s.pwr with tick := s.pwr.tick + 64 } } else s
  if clocksRun s.dev then
    (List.range 8).foldl (fun s p =>
      let m := memOf s p
      setMem s p { m with regs := regsPeriod s.pwr.cfg.scale m.regs }) (memoryErrors s)
  else s

end Sys2Proof.Machine
end

