-- ==== Sys2Proof/Machine/Arrays.lean ====
section
/-!
DEFINITION. The array commands: PASS, LOAD, PASS_LOAD and ELEM at issue, weight loads, row steps and bank writes
(spec/03_matrix_arrays.md, spec/04_accumulation.md, R474).
-/

namespace Sys2Proof.Machine

/-! ### Actions on the measure bus -/

/-- The next action for a unit: the oldest of the primary stream, which a fill action never holds back, else the oldest
(R165, R202). -/
def busFirst (s : State) (u : BusUnit) : Option BusAct :=
  (s.bus.find? (fun b => b.unit == u && !b.fill)).orElse (fun _ => s.bus.find? (fun b => b.unit == u))

/-- That action taken off the bus. -/
def busTake (s : State) (u : BusUnit) : State :=
  match busFirst s u with
  | some b => { s with bus := s.bus.erase b }
  | none => s

/-- Core `c` serves the fill stream: it is lent and not being reclaimed (R199). -/
def coreServes (s : State) (c : Nat) : Bool := s.fill.lent.testBit c && !s.fill.reclaiming.testBit c

/-- An action arrives for a core that does not serve its context, so it waits outside the unit (R201). -/
def mustWait (s : State) (c : Nat) (fill : Bool) : Bool := fill && !coreServes s c

/-- A gate withholds its cycles from the caller, the measure bus, the arrays and the element engines (R185, R406). -/
def gated (s : State) : Bool := s.pwr.gate != .none

/-- What an event of a gated unit comes to: `t`, or nothing in a gated cycle or while the clocks stand still (R406). -/
def running (s t : State) : State := if clocksRun s.dev && !gated s then t else s

/-- Set bits of an 8-bit mask, ascending. -/
def maskBits (m : Nat) : List Nat := (List.range 8).filter (fun a => m.testBit a)

/-- Scratchpad bytes a context may touch: the fill share while the fill context is enabled (R126, R197). -/
def shareOk (s : State) (fill : Bool) (lo hi : Int) : Bool :=
  if fill then decide (0xA00000 ≤ lo) && decide (hi ≤ 0xC00000)
  else decide (0 ≤ lo) && decide (hi ≤ (if s.fill.en then 0xA00000 else 0xC00000))

/-- A range outside the fill context's limits also sets `CAL_FERR.RANGE` (R198). -/
def fillRange (s : State) (fill : Bool) : State :=
  if fill then { s with fill := { s.fill with err := setBit s.fill.err 2 } } else s

/-! ### Issue checks (R68, R76, R472) -/

def actRows (e : ArrEntry) (span : Nat) : Nat := if e.rowsrc then span else e.rowsM1 + 1

def loads (e : ArrEntry) : Bool := e.op == .load || e.op == .passLoad
def passes (e : ArrEntry) : Bool := e.op != .load

/-- Stream numbers of an action: one in broadcast mode, else one for each array or quarter (R55, R65). -/
def streamNos (e : ArrEntry) : List Nat :=
  if !e.distinct then [0]
  else if e.quart then (maskBits e.amask).flatMap (fun a => [4 * a, 4 * a + 1, 4 * a + 2, 4 * a + 3])
  else maskBits e.amask

/-- Base in bytes after the delta, for the base DSEL names (R68). -/
def baseAfter (units : Nat) (named : Bool) (delta : Int) : Int := ((units : Int) + (if named then delta else 0)) * 64

/-- The activation and weight ranges lie in the context's share of the scratchpad (R68). -/
def arrRangeOk (s : State) (e : ArrEntry) (fill : Bool) (rows : Nat) (delta : Int) : Bool :=
  let ab := baseAfter e.abase (!e.dsel) delta
  let wb := baseAfter e.wbase e.dsel delta
  let ns := streamNos e
  let lo := ns.headD 0
  let hi := ns.getLastD 0
  let as_ := maskBits e.amask
  let img := arrImageBytes e
  (!passes e || shareOk s fill (ab + (lo * rows * e.apitch : Nat))
      (ab + ((hi * rows + (rows - 1)) * e.apitch + arrRowBytes e : Nat))) &&
  (!loads e || shareOk s fill (wb + (as_.headD 0 * img : Nat)) (wb + ((as_.getLastD 0 + 1) * img : Nat)))

/-- The open tile of a context (R85). -/
def openTile (r : Arr) (fill : Bool) : Option Tile := if fill then r.ftile else r.tile

/-- Height of a tile the code opens (R75). -/
def tileHeight (e : ArrEntry) : Nat :=
  match e.acc with
  | .startHalf => if e.quart then 128 else 256
  | _ => if e.quart then 256 else 512

/-- A continuing pass differs from its tile's opening pass (R76). "The arrays of the open tiles" are taken as the AMASK of
the opening pass of each named tile (notes/assumptions/58.md). -/
def tileMismatch (t : Tile) (e : ArrEntry) (rows : Nat) : Bool :=
  t.rows != rows || t.ent.wfmt != e.wfmt || t.ent.afmt != e.afmt || t.ent.grp != e.grp || t.ent.quart != e.quart ||
    t.ent.distinct != e.distinct || t.ent.expand != e.expand || (!t.res && t.ent.pint != e.pint) ||
    t.ent.amask != e.amask

def continues (e : ArrEntry) : Bool := e.acc == .cont || e.acc == .finish

/-- The bits of `ARR_ACC_ERR` whose conditions hold (R76). The rows are held to the height of every named array's tile; an
array without an open tile, where NOTILE is set, counts at full height (notes/assumptions/58.md). A fill action opens no tile on
an array whose tile the primary stream left open (R76, R78). -/
def accErrBits (x : Engine) (e : ArrEntry) (fill : Bool) (rows : Nat) : Nat :=
  if !passes e then 0
  else
    let taken := fill && (maskBits e.amask).any (fun a => (arrOf x a).tile.isSome)
    let ts := (maskBits e.amask).map (fun a => openTile (arrOf x a) fill)
    let some_ := ts.filterMap id
    let height (t : Option Tile) : Nat := if continues e then (t.map (·.height)).getD (tileHeight e) else tileHeight e
    let notile := continues e && ts.any (fun t => t.isNone)
    let open_ := !continues e && (!some_.isEmpty || taken)
    let match_ := continues e && some_.any (fun t => tileMismatch t e rows)
    let rows_ := e.acc != .single && ts.any (fun t => decide (height t < rows))
    let split := continues e && some_.any (fun t => !t.half && !t.res && decide (0 < t.ent.pint) &&
      decide (t.ent.pint + 1 ≤ t.passes))
    b2n notile + 2 * b2n open_ + 4 * b2n match_ + 8 * b2n rows_ + 16 * b2n split

/-- The last action whose load of array `a` has not started. -/
def loadWaiting (x : Engine) (a : Nat) : Option ArrAct := (x.acts.filter (fun t => t.loadDue.testBit a)).getLast?

/-- The back set that a swap now asked for will take: of a load that waits, the settings it will have (R53, R472). -/
def backToBe (x : Engine) (a : Nat) : WSet :=
  match loadWaiting x a with
  | some t => wsetOf t.ent []
  | none => (arrOf x a).back

/-- The bits of `ARR_ERR` whose conditions hold (R53, R68, R472). -/
def arrErrBits (s : State) (x : Engine) (e : ArrEntry) (fill : Bool) (rows : Nat) (delta : Int) : Nat :=
  let as_ := maskBits e.amask
  let range := !arrRangeOk s e fill rows delta
  let used (a : Nat) : WSet := if e.swap then backToBe x a else (arrOf x a).front
  let there (w : WSet) : Bool := w.valid || w.loading
  let noback := passes e && e.swap && as_.any (fun a => !there (used a))
  let nofront := passes e && !e.swap && as_.any (fun a => !(used a).valid)
  let wset := passes e && as_.any (fun a => there (used a) && !wsetAgrees (used a) e)
  b2n range + 2 * b2n noback + 4 * b2n wset + 8 * b2n nofront

/-! ### Loads and swaps (R52, R53) -/

def setWset (x : Engine) (a : Nat) (w : WSet) : Engine := setArr x a { arrOf x a with back := w }

/-- The parts of an image that have a header of their own (R65). -/
def imageParts (e : ArrEntry) (img : List Byte) : List (List Byte) :=
  let n := arrPartBytes e
  (List.range (if e.quart then 4 else 1)).map (fun q => (img.drop (q * n)).take n)

/-- The arrays `mask` of an action read their images into their back sets, the whole image as the load begins
(notes/assumptions/19.md); one whose image holds a poisoned word stops and its back set is invalid (R52, R473). Answers the
engine, the arrays loading, the events and a poisoned address. -/
def beginLoad (s : State) (eng : Nat) (x : Engine) (act : ArrAct) (mask : Nat) : Engine × Nat × Counts × Option Nat :=
  (maskBits mask).foldl (fun (acc : Engine × Nat × Counts × Option Nat) a =>
    let at_ := scratchBase eng + act.wbase + a * arrImageBytes act.ent
    match sramPoisoned s at_ (arrImageBytes act.ent) with
    | some p => (setWset acc.1 a wsetEmpty, acc.2.1, acc.2.2.1, some (acc.2.2.2.getD p))
    | none =>
      let img := sramRead s at_ (arrImageBytes act.ent)
      let ev := if act.ent.census then (imageParts act.ent img).foldl (fun c part =>
          let k := loadCounts act.ent part
          ⟨c.sat + k.sat, c.flush, c.nan + k.nan⟩) acc.2.2.1 else acc.2.2.1
      (setWset acc.1 a (wsetOf act.ent img), acc.2.1 + 2 ^ a, ev, acc.2.2.2)) (x, 0, countsZero, none)

/-- The sets of the named arrays exchange roles (R49, R53). -/
def swapSets (x : Engine) (mask : Nat) : Engine :=
  (maskBits mask).foldl (fun x a => let r := arrOf x a; setArr x a { r with front := r.back, back := r.front }) x

def backsValid (x : Engine) (mask : Nat) : Bool := (maskBits mask).all (fun a => (arrOf x a).back.valid)
def backsLoading (x : Engine) (mask : Nat) : Bool := (maskBits mask).any (fun a => (arrOf x a).back.loading)

/-- Arrays of a mask whose back set is not loading: a load aimed at them may begin. -/
def backsReady (x : Engine) (mask : Nat) : Nat :=
  ((maskBits mask).filter (fun a => !(arrOf x a).back.loading)).foldl (fun m a => m + 2 ^ a) 0

/-- A pending swap is performed once every back set is valid, and a due load begins after it on each array whose back set is
not still loading (R53). -/
def advanceAct (s : State) (eng : Nat) (x : Engine) (act : ArrAct) : Engine × ArrAct × Option Nat :=
  let (x, act) := if act.swap && backsValid x act.ent.amask then (swapSets x act.ent.amask, { act with swap := false })
    else (x, act)
  let now := if act.swap then 0 else backsReady x act.loadDue
  if now = 0 then (x, act, none)
  else
    let (x, mask, ev, bad) := beginLoad s eng x act now
    (x, { act with loadDue := act.loadDue - now, loads := act.loads + mask, ldEvents := countsSum act.ldEvents ev,
                   ent := if bad.isSome then { act.ent with census := false } else act.ent }, bad)

/-- The image ranges that the loads about to begin read: single-bit errors in them are corrected and counted (R128). -/
def loadCorrected (s : State) (eng : Nat) (before after : ArrAct) : State :=
  (maskBits (before.loadDue - after.loadDue)).foldl (fun s a =>
    sramCorrected s (scratchBase eng + before.wbase + a * arrImageBytes before.ent) (arrImageBytes before.ent)) s

/-- All work of an action has ended (R474). -/
def actEnded (act : ArrAct) : Bool := act.done == act.rows && act.loadDue == 0 && act.loads == 0 && !act.swap

/-- The census record of an array action (R474). -/
def actRecord (eng : Nat) (act : ArrAct) : CRec :=
  { unit := 0, tag := act.tag, fmt := 0x11, src := eng, fill := act.fill, step := act.step, elems := act.elems,
    sat := act.ldEvents.sat + act.events.sat, flush := act.ldEvents.flush + act.events.flush,
    nan := act.ldEvents.nan + act.events.nan, hist := act.hist }

/-- Actions whose work has ended leave the engine, each marked one with its record (R91, R474). -/
def retireActs (s : State) (eng : Nat) : State :=
  let x := engineOf s eng
  let ended := x.acts.filter actEnded
  let x := { x with acts := x.acts.filter (fun a => !actEnded a),
                    undrained := x.undrained ++ ended.filter (fun a => a.fill && a.rows != 0) }
  (ended.filter (fun a => a.ent.census)).foldl (fun s a => pushCensus s (eng / 10) (actRecord eng a)) (setEngine s eng x)

/-- A fault found while an action runs: poisoned SRAM was consumed (R128, R473). -/
def consumedSram (s : State) (p addr : Nat) (fill : Bool) : State := faultInRun (memError s p errUe addr true) fill

/-! ### Actions at issue -/

/-- What can go on at an engine goes on: swaps whose load is complete, and loads that waited (R53). -/
def advanceAll (s : State) (eng : Nat) : State :=
  let step (acc : State × List ArrAct) (t : ArrAct) : State × List ArrAct :=
    let (x, t', bad) := advanceAct acc.1 eng (engineOf acc.1 eng) t
    let s := loadCorrected (setEngine acc.1 eng x) eng t t'
    (match bad with | some p => consumedSram s (eng / 10) p t.fill | none => s, acc.2 ++ [t'])
  let (s, acts) := (engineOf s eng).acts.foldl step (s, [])
  retireActs (setEngine s eng { engineOf s eng with acts := acts }) eng

/-- An accepted action begins; one of the fill stream whose core does not serve it waits outside the engine (R201). -/
def arrayBegin (s : State) (eng : Nat) (b : BusAct) (e : ArrEntry) : State :=
  let x := engineOf s eng
  let rows := actRows e b.span
  let passNo := if continues e then
      (((maskBits e.amask).head?.bind (fun a => openTile (arrOf x a) b.fill)).map (·.passes)).getD 0 else 0
  let bump (t : Option Tile) : Option Tile := t.map (fun t => { t with passes := t.passes + 1 })
  let x := if continues e then (maskBits e.amask).foldl (fun x a =>
      let r := arrOf x a
      setArr x a (if b.fill then { r with ftile := bump r.ftile } else { r with tile := bump r.tile })) x else x
  let act : ArrAct :=
    { ent := e, fill := b.fill, tag := b2n b.bank * 4096 + b.index, step := x.step.toNat,
      abase := (baseAfter e.abase (!e.dsel) b.delta).toNat, wbase := (baseAfter e.wbase e.dsel b.delta).toNat,
      rows := if passes e then rows else 0, done := 0, credit := 0, passNo := passNo,
      swap := passes e && e.swap, loadDue := if loads e then e.amask else 0, loads := 0, drained := [], ldEvents := countsZero,
      events := countsZero, elems := 0, hist := histZero }
  if mustWait s (eng / 10) b.fill then setEngine s eng { x with suspended := x.suspended ++ [act] }
  else advanceAll (setEngine s eng { x with acts := x.acts ++ [act] }) eng

/-- A load of arrays `mask` waits: a back set is loading, or an earlier action has still to swap or load there (R53). -/
def loadHeld (x : Engine) (mask : Nat) : Bool :=
  backsLoading x mask || x.acts.any (fun t => (t.swap && t.ent.amask &&& mask != 0) || t.loadDue &&& mask != 0)

/-- The action whose pass has rows left on an array, with its place. -/
def passOn (x : Engine) (a : Nat) : Option (Nat × ArrAct) :=
  (x.acts.zipIdx.find? (fun p => p.1.ent.amask.testBit a && decide (p.1.done < p.1.rows))).map (fun p => (p.2, p.1))

/-- An array action with operation `op` at the head of the engine's actions on the bus issues: every check at once,
then its work begins or the stream stops (R68, R76, R167, R472). A LOAD waits for a back set that is loading, and behind a
swap or a load that has not come about on its arrays; and a pass waits for the last row step of one before it on its arrays (R56, R183). -/
def arrayIssue (s : State) (eng : Nat) (op : ArrOp) : State :=
  match busFirst s (.array eng) with
  | none => s
  | some b =>
    match arrEntryOf (b.entry.setWidth 128) with
    | some (some e) =>
      if e.op ≠ op then s
      else if op = .load ∧ loadHeld (engineOf s eng) e.amask then s
      else if op ≠ .load ∧ (maskBits e.amask).any (fun a => (passOn (engineOf s eng) a).isSome) then s
      else
        let s := busTake s (.array eng)
        let x := engineOf s eng
        let rows := actRows e b.span
        let eb := arrErrBits s x e b.fill rows b.delta
        let ab := accErrBits x e b.fill rows
        if eb = 0 ∧ ab = 0 then arrayBegin s eng b e
        else
          let s := setEngine s eng { x with arrErr := x.arrErr ||| BitVec.ofNat 32 eb,
                                            accErr := x.accErr ||| BitVec.ofNat 32 ab }
          faultAtIssue (fillRange s (b.fill && eb.testBit 0)) b.fill
    | _ => s

def execArrayPass (e : Fin 80) (s : State) : Host.Outcome State Fault Refusal := .next (running s (arrayIssue s e .pass))
def execArrayLoad (e : Fin 80) (s : State) : Host.Outcome State Fault Refusal := .next (running s (arrayIssue s e .load))
def execArrayPassLoad (e : Fin 80) (s : State) : Host.Outcome State Fault Refusal := .next (running s (arrayIssue s e .passLoad))
def execArrayElem (e : Fin 80) (s : State) : Host.Outcome State Fault Refusal := .next (running s (arrayIssue s e .elem))

/-! ### Weight loads -/

/-- The load of one back set completes; swaps that waited for it and their loads follow (R52, R53). -/
def weightLoaded (s : State) (eng a : Nat) : State :=
  let x := engineOf s eng
  let r := arrOf x a
  if !r.back.loading then s
  else
    let x := setArr x a { r with back := { r.back with loading := false, valid := true } }
    let done (t : ArrAct) : ArrAct := if t.loads.testBit a then { t with loads := t.loads - 2 ^ a } else t
    advanceAll (setEngine s eng { x with acts := x.acts.map done, suspended := x.suspended.map done,
                                         undrained := x.undrained.map done }) eng

def execWeightLoadComplete (e : Fin 80) (a : Fin 8) (s : State) : Host.Outcome State Fault Refusal :=
  .next (running s (weightLoaded s e a))

/-! ### Row steps (R54-R61, R66, R71-R83) -/

/-- Place of a bank word: array, bank, row, column. -/
def bankKey (a : Nat) (bank : Bool) (row col : Nat) : Nat := ((a * 2 + b2n bank) * 512 + row) * 32 + col

/-- A bank word as the arrays see it: the newest write in flight, else the bank (R81). -/
def bankWord (x : Engine) (k : Nat) : W48 :=
  match x.inflight.reverse.findSome? (fun ws => Tbl.get? ws k) with
  | some w => w
  | none => Tbl.get 0 x.bankMem k

def bankState (r : Arr) (bank : Bool) : BankSt := if bank then r.bank1 else r.bank0
def setBank (r : Arr) (bank : Bool) (v : BankSt) : Arr := if bank then { r with bank1 := v } else { r with bank0 := v }

/-- Bank rows one step of an action takes (R66). -/
def stepRows (e : ArrEntry) : Nat := if e.op = .elem then arrDepth e else 1

/-- Row of the tile at which step `n` writes (R82). -/
def tileRow (e : ArrEntry) (n : Nat) : Nat :=
  if e.acc = .single then n * stepRows e % tileHeight e else n

/-- Step `n` opens a tile (R82, R83). -/
def opensTile (act : ArrAct) : Bool := !continues act.ent && tileRow act.ent act.done == 0

/-- Step `n` finishes a tile (R79, R82). -/
def finishesTile (act : ArrAct) : Bool :=
  let last := act.done + 1 == act.rows
  match act.ent.acc with
  | .single => last || tileRow act.ent act.done + stepRows act.ent == tileHeight act.ent
  | .finish => last
  | _ => false

def nextBank (r : Arr) (fill : Bool) : Bool := if fill then r.fnext else r.next

/-- The bank a tile would open in is FREE, and was so at the lend for the fill stream (R83, R85). -/
def bankReady (r : Arr) (fill : Bool) : Bool :=
  let b := nextBank r fill
  bankState r b == .free && (!fill || r.lendFree.testBit (b2n b))

/-- A tile opens in the NEXT bank, and NEXT flips (R78). -/
def arrOpen (r : Arr) (act : ArrAct) : Arr :=
  let b := nextBank r act.fill
  let t : Tile := ⟨b, act.ent.acc == .startHalf, act.ent.acc == .startRes, tileHeight act.ent, 1, act.rows, act.ent⟩
  let r := setBank r b .filling
  if act.fill then { r with ftile := some t, fnext := !r.fnext, fillHeld := r.fillHeld ||| (1 <<< b2n b) }
  else { r with tile := some t, next := !r.next }

/-- A tile closes, its bank taking state `v`. -/
def arrClose (r : Arr) (fill : Bool) (v : BankSt) : Arr :=
  match openTile r fill with
  | none => r
  | some t =>
    let r := setBank r t.bank v
    if fill then { r with ftile := none } else { r with tile := none }

/-- A tile closes with its contents discarded, and its bank is FREE. -/
def arrDiscard (r : Arr) (fill : Bool) : Arr :=
  match openTile r fill with
  | none => r
  | some t =>
    let r := arrClose r fill .free
    if fill then { r with fillHeld := r.fillHeld &&& (3 ^^^ (1 <<< b2n t.bank)) } else r

/-- SRAM address of the row that one stream takes at step `n` (R54, R55, R65). -/
def rowAddr (eng : Nat) (act : ArrAct) (stream : Nat) : Nat :=
  scratchBase eng + act.abase + (if act.ent.distinct then stream * act.rows + act.done else act.done) * act.ent.apitch

/-- The bytes that one row step reads, by stream. -/
def stepAddrs (eng : Nat) (act : ArrAct) : List Nat := (streamNos act.ent).map (rowAddr eng act)

/-- What a step computes for one output: the word written, where, the events and the measured total. -/
structure StepOut where
  key : Nat
  word : W48
  sat : Bool
  nan : Bool
  total : Option Val
  deriving DecidableEq, Repr

/-- One output of a pass (R71, R73): `row` and `col` place it in the bank. It adds at most one to each count: the events of
its run sum, and of a total it finishes (R68, R474; notes/assumptions/59.md). -/
def outputStep (x : Engine) (act : ArrAct) (t : Tile) (a row col : Nat) (w act_ : Nat → Val × Val) : StepOut :=
  let n := t.ent.pint + 1
  let p := act.passNo
  let totalKey := bankKey a t.bank row col
  let runKey := if t.half then bankKey a t.bank (row + t.height) col else totalKey
  let start : Val :=
    if t.res then (if p = 0 then valZero else f48Val (bankWord x totalKey))
    else if p % n = 0 then valZero else f48Val (bankWord x runKey)
  let (run, inf) := runColumn act.ent w act_ start
  let nan := run == .nan && start != .nan
  let last := act.ent.acc == .single || act.ent.acc == .finish
  if t.res then ⟨totalKey, f48Of run, inf, nan || (last && run == .nan), if last then some run else none⟩
  else if (p + 1) % n = 0 ∨ last then
    let before : Val := if p < n then .fin true 0 1 else f48Val (bankWord x totalKey)
    let total := promote before run
    let exceeds := last && valIsFinite before && valIsFinite run && !valIsFinite total
    ⟨totalKey, f48Of total, inf || exceeds, nan || (last && total == .nan), if last then some total else none⟩
  else ⟨runKey, f48Of run, inf, nan, none⟩

/-- The outputs of one array at one step of a pass; `row q` gives the bytes of quarter `q`'s stream. The product of an ELEM
counts as the run sum of its output (notes/assumptions/59.md). -/
def arrayStep (x : Engine) (act : ArrAct) (a : Nat) (row : Nat → List Byte) : List StepOut :=
  let r := arrOf x a
  let e := act.ent
  let we := { e with f19rne := r.front.f19rne }
  match openTile r act.fill with
  | none => []
  | some t =>
    let tr := tileRow e act.done
    if e.op = .elem then
      (List.range (arrK e)).map (fun k =>
        let w := weightAt we r.front.image 0 k
        let c := activationAt e (row 0) k
        let v := elemProduct w c
        let fin_ := valIsFinite w.1 && valIsFinite w.2 && valIsFinite c.1 && valIsFinite c.2
        ⟨bankKey a t.bank (tr + k / 32) (k % 32), f48Of v, fin_ && !valIsFinite v && v != .nan, v == .nan, some v⟩)
    else
      (List.range (if e.quart then 4 else 1)).flatMap (fun q =>
        let part := (r.front.image.drop (q * arrPartBytes e)).take (arrPartBytes e)
        (List.range (if e.quart then 16 else 32)).map (fun j =>
          outputStep x act t a (256 * (q / 2) + tr) (16 * (q % 2) + j) (weightAt we part j) (activationAt e (row q))))

/-- Number of the tile that the step of an action works on (R82). -/
def tileNo (act : ArrAct) : Nat := act.done * stepRows act.ent / tileHeight act.ent

/-- The tile an action finishes on array `a` was drained before a reclaim: a rerun discards it (R85, R201;
notes/assumptions/14.md). -/
def tileDrained (act : ArrAct) (a : Nat) : Bool := decide (tileNo act < Tbl.get 0 act.drained a)

/-- The descriptor of a finished tile (R79). -/
def tileDesc (x : Engine) (act : ArrAct) (a k : Nat) : Option Desc :=
  (openTile (arrOf x a) act.fill).map (fun t =>
    { seq := (x.seq + k) % 65536, array := a, bank := t.bank,
      rowsM1 := tileRow act.ent act.done + stepRows act.ent - 1, quart := t.ent.quart, half := t.half, res := t.res,
      fill := act.fill })

/-- Bytes one row step needs (R56). -/
def stepBytes (e : ArrEntry) : Nat := arrRowBytes e * (streamNos e).length

/-- The credit after the step, once it reaches what the step needs: a whole number of cycles, at least one (R56). -/
def creditAfter (e : ArrEntry) (credit loading : Nat) : Nat :=
  let s := stepBytes e
  let budget := 4096 - 320 * loading
  let k := max 1 ((s - credit + budget - 1) / budget)
  min (credit + budget * k - s) s

def arraysLoading (x : Engine) : Nat := ((List.range 8).filter (fun a => (arrOf x a).back.loading)).length

/-- The totals a step measures added to an action's record (R88, R474). -/
def measureOut (wref : Nat) (act : ArrAct) (o : StepOut) : ArrAct :=
  let ev := if o.sat then countsAdd act.events .saturated else act.events
  let ev := if o.nan then countsAdd ev .nan else ev
  match o.total with
  | some v => { act with events := ev, elems := act.elems + 1,
                         hist := histAdd act.hist (histBin (histTop .f48 wref) v) }
  | none => { act with events := ev }

/-- The step is performed on every named array (R56, R79, R82, R83). -/
def rowStepRun (s : State) (eng : Nat) (idx : Nat) (act : ArrAct) : State :=
  let x := engineOf s eng
  let as_ := maskBits act.ent.amask
  let x := if opensTile act then as_.foldl (fun x a => setArr x a (arrOpen (arrOf x a) act)) x else x
  let rows (a q : Nat) : List Byte :=
    sramRead s (rowAddr eng act (if !act.ent.distinct then 0 else if act.ent.quart then 4 * a + q else a))
      (arrRowBytes act.ent)
  let outs := as_.flatMap (fun a => arrayStep x act a (rows a))
  let act' := if act.ent.census then outs.foldl (measureOut (wrefOf s (eng / 10))) act else act
  let fin_ := finishesTile act
  let post := as_.filter (fun a => !tileDrained act a)
  let descs := if fin_ then (post.zipIdx.filterMap (fun p => tileDesc x act p.1 p.2)) else []
  let close (x : Engine) (a : Nat) : Engine :=
    setArr x a (if tileDrained act a then arrDiscard (arrOf x a) act.fill else arrClose (arrOf x a) act.fill .queued)
  let x := if fin_ then as_.foldl close x else x
  let act' := { act' with done := act.done + 1, credit := creditAfter act.ent act.credit (arraysLoading x) }
  let x := { x with acts := x.acts.set idx act', inflight := x.inflight ++ [outs.map (fun o => (o.key, o.word))],
                    queue := x.queue ++ descs, seq := (x.seq + descs.length) % 65536 }
  let s := (stepAddrs eng act).foldl (fun s p => sramCorrected s p (arrRowBytes act.ent)) (setEngine s eng x)
  advanceAll s eng

/-- A pass that meets a poisoned word stops: its open tile is closed and its bank FREE (R473). -/
def rowStepPoisoned (s : State) (eng idx : Nat) (act : ArrAct) (at_ : Nat) : State :=
  let x := engineOf s eng
  let x := (maskBits act.ent.amask).foldl (fun x a => setArr x a (arrDiscard (arrOf x a) act.fill)) x
  let act' := { act with rows := act.done, ent := { act.ent with census := false } }
  retireActs (consumedSram (setEngine s eng { x with acts := x.acts.set idx act' }) (eng / 10) at_ act.fill) eng

/-- A step waits for a swap whose load is not complete, or for its NEXT banks (R53, R83); one of the fill stream comes only
behind primary work (R199). -/
def stepWaits (x : Engine) (act : ArrAct) : Bool :=
  act.swap || (opensTile act && !(maskBits act.ent.amask).all (fun a => bankReady (arrOf x a) act.fill)) ||
    (act.fill && x.acts.any (fun t => !t.fill))

def rowStep (s : State) (eng a : Nat) : State :=
  let x := engineOf s eng
  match passOn x a with
  | none => s
  | some (idx, act) =>
    if stepWaits x act then s
    else
      match (stepAddrs eng act).findSome? (fun p => sramPoisoned s p (arrRowBytes act.ent)) with
      | some p => rowStepPoisoned s eng idx act p
      | none => rowStepRun s eng idx act

def execRowStep (e : Fin 80) (a : Fin 8) (s : State) : Host.Outcome State Fault Refusal := .next (running s (rowStep s e a))

/-- The oldest results in flight are written to their banks (R81). -/
def bankWrite (s : State) (eng : Nat) : State :=
  let x := engineOf s eng
  match x.inflight with
  | [] => s
  | ws :: rest =>
    setEngine s eng { x with inflight := rest, bankMem := ws.foldl (fun m w => Tbl.set m w.1 w.2) x.bankMem }

def execBankWrite (e : Fin 80) (s : State) : Host.Outcome State Fault Refusal := .next (running s (bankWrite s e))

end Sys2Proof.Machine
end

