-- ==== Sys2Proof/Machine/Crypto.lean ====
section
/-!
DEFINITION. The cryptographic functions the spec names by their standards: SHA-256, HMAC and HKDF, AES-256, GCM and key
wrap, and P-256 (spec/14_cipher_engine.md R317, R318, spec/21_boot_security.md R432, R433). Their definitions are those of
the published standards (PRESUMED, notes/assumptions/30.md). Byte strings are big-endian where those standards say so.
-/

namespace Sys2Proof.Machine

def natOfBe (bs : List Byte) : Nat := bs.foldl (fun a b => a * 256 + b.toNat) 0

def beBytes : Nat → Nat → List Byte
  | 0, _ => []
  | n + 1, v => BitVec.ofNat 8 (v >>> (8 * n)) :: beBytes n v

/-! ### SHA-256, HMAC and HKDF -/

def shaK : List Nat := [0x428a2f98, 0x71374491, 0xb5c0fbcf, 0xe9b5dba5, 0x3956c25b, 0x59f111f1, 0x923f82a4, 0xab1c5ed5] ++
  [0xd807aa98, 0x12835b01, 0x243185be, 0x550c7dc3, 0x72be5d74, 0x80deb1fe, 0x9bdc06a7, 0xc19bf174] ++
  [0xe49b69c1, 0xefbe4786, 0x0fc19dc6, 0x240ca1cc, 0x2de92c6f, 0x4a7484aa, 0x5cb0a9dc, 0x76f988da] ++
  [0x983e5152, 0xa831c66d, 0xb00327c8, 0xbf597fc7, 0xc6e00bf3, 0xd5a79147, 0x06ca6351, 0x14292967] ++
  [0x27b70a85, 0x2e1b2138, 0x4d2c6dfc, 0x53380d13, 0x650a7354, 0x766a0abb, 0x81c2c92e, 0x92722c85] ++
  [0xa2bfe8a1, 0xa81a664b, 0xc24b8b70, 0xc76c51a3, 0xd192e819, 0xd6990624, 0xf40e3585, 0x106aa070] ++
  [0x19a4c116, 0x1e376c08, 0x2748774c, 0x34b0bcb5, 0x391c0cb3, 0x4ed8aa4a, 0x5b9cca4f, 0x682e6ff3] ++
  [0x748f82ee, 0x78a5636f, 0x84c87814, 0x8cc70208, 0x90befffa, 0xa4506ceb, 0xbef9a3f7, 0xc67178f2]

def shaInit : List Nat := [0x6a09e667, 0xbb67ae85, 0x3c6ef372, 0xa54ff53a, 0x510e527f, 0x9b05688c, 0x1f83d9ab, 0x5be0cd19]

/-- The message schedule, newest word first. -/
def shaSchedule : Nat → List W32 → List W32
  | 0, w => w
  | n + 1, w =>
    let g (k : Nat) : W32 := w.getD k 0
    let s0 := (g 14).rotateRight 7 ^^^ (g 14).rotateRight 18 ^^^ (g 14 >>> 3)
    let s1 := (g 1).rotateRight 17 ^^^ (g 1).rotateRight 19 ^^^ (g 1 >>> 10)
    shaSchedule n ((g 15 + s0 + g 6 + s1) :: w)

def shaRound (v : List W32) (kw : W32) : List W32 :=
  match v with
  | [a, b, c, d, e, f, g, h] =>
    let s1 := e.rotateRight 6 ^^^ e.rotateRight 11 ^^^ e.rotateRight 25
    let t1 := h + s1 + ((e &&& f) ^^^ (~~~e &&& g)) + kw
    let s0 := a.rotateRight 2 ^^^ a.rotateRight 13 ^^^ a.rotateRight 22
    let t2 := s0 + ((a &&& b) ^^^ (a &&& c) ^^^ (b &&& c))
    [t1 + t2, a, b, c, d + t1, e, f, g]
  | v => v

def shaBlock (h : List W32) (blk : List Byte) : List W32 :=
  let w0 := ((List.range 16).map (fun i => BitVec.ofNat 32 (natOfBe ((blk.drop (4 * i)).take 4)))).reverse
  let w := (shaSchedule 48 w0).reverse
  let v := ((shaK.zip w).map (fun p => BitVec.ofNat 32 p.1 + p.2)).foldl shaRound h
  (h.zip v).map (fun p => p.1 + p.2)

def shaBlocks : Nat → List W32 → List Byte → List W32
  | 0, h, _ => h
  | n + 1, h, bs => shaBlocks n (shaBlock h (bs.take 64)) (bs.drop 64)

def sha256 (bs : List Byte) : List Byte :=
  let n := bs.length
  let padded := bs ++ [0x80#8] ++ List.replicate ((119 - n % 64) % 64) 0#8 ++ beBytes 8 (8 * n)
  (shaBlocks (padded.length / 64) (shaInit.map (BitVec.ofNat 32)) padded).flatMap (fun w => beBytes 4 w.toNat)

def hmac (key msg : List Byte) : List Byte :=
  let k := if 64 < key.length then sha256 key else key
  let k := k ++ List.replicate (64 - k.length) 0#8
  sha256 (k.map (· ^^^ 0x5C#8) ++ sha256 (k.map (· ^^^ 0x36#8) ++ msg))

/-- HKDF with an output of 32 bytes. -/
def hkdf32 (salt ikm info : List Byte) : List Byte := hmac (hmac salt ikm) (info ++ [1#8])

/-! ### AES-256 -/

def aesSbox : List Nat :=
  [99, 124, 119, 123, 242, 107, 111, 197, 48, 1, 103, 43, 254, 215, 171, 118] ++
  [202, 130, 201, 125, 250, 89, 71, 240, 173, 212, 162, 175, 156, 164, 114, 192] ++
  [183, 253, 147, 38, 54, 63, 247, 204, 52, 165, 229, 241, 113, 216, 49, 21] ++
  [4, 199, 35, 195, 24, 150, 5, 154, 7, 18, 128, 226, 235, 39, 178, 117] ++
  [9, 131, 44, 26, 27, 110, 90, 160, 82, 59, 214, 179, 41, 227, 47, 132] ++
  [83, 209, 0, 237, 32, 252, 177, 91, 106, 203, 190, 57, 74, 76, 88, 207] ++
  [208, 239, 170, 251, 67, 77, 51, 133, 69, 249, 2, 127, 80, 60, 159, 168] ++
  [81, 163, 64, 143, 146, 157, 56, 245, 188, 182, 218, 33, 16, 255, 243, 210] ++
  [205, 12, 19, 236, 95, 151, 68, 23, 196, 167, 126, 61, 100, 93, 25, 115] ++
  [96, 129, 79, 220, 34, 42, 144, 136, 70, 238, 184, 20, 222, 94, 11, 219] ++
  [224, 50, 58, 10, 73, 6, 36, 92, 194, 211, 172, 98, 145, 149, 228, 121] ++
  [231, 200, 55, 109, 141, 213, 78, 169, 108, 86, 244, 234, 101, 122, 174, 8] ++
  [186, 120, 37, 46, 28, 166, 180, 198, 232, 221, 116, 31, 75, 189, 139, 138] ++
  [112, 62, 181, 102, 72, 3, 246, 14, 97, 53, 87, 185, 134, 193, 29, 158] ++
  [225, 248, 152, 17, 105, 217, 142, 148, 155, 30, 135, 233, 206, 85, 40, 223] ++
  [140, 161, 137, 13, 191, 230, 66, 104, 65, 153, 45, 15, 176, 84, 187, 22]

def aesInvSbox : List Nat :=
  [82, 9, 106, 213, 48, 54, 165, 56, 191, 64, 163, 158, 129, 243, 215, 251] ++
  [124, 227, 57, 130, 155, 47, 255, 135, 52, 142, 67, 68, 196, 222, 233, 203] ++
  [84, 123, 148, 50, 166, 194, 35, 61, 238, 76, 149, 11, 66, 250, 195, 78] ++
  [8, 46, 161, 102, 40, 217, 36, 178, 118, 91, 162, 73, 109, 139, 209, 37] ++
  [114, 248, 246, 100, 134, 104, 152, 22, 212, 164, 92, 204, 93, 101, 182, 146] ++
  [108, 112, 72, 80, 253, 237, 185, 218, 94, 21, 70, 87, 167, 141, 157, 132] ++
  [144, 216, 171, 0, 140, 188, 211, 10, 247, 228, 88, 5, 184, 179, 69, 6] ++
  [208, 44, 30, 143, 202, 63, 15, 2, 193, 175, 189, 3, 1, 19, 138, 107] ++
  [58, 145, 17, 65, 79, 103, 220, 234, 151, 242, 207, 206, 240, 180, 230, 115] ++
  [150, 172, 116, 34, 231, 173, 53, 133, 226, 249, 55, 232, 28, 117, 223, 110] ++
  [71, 241, 26, 113, 29, 41, 197, 137, 111, 183, 98, 14, 170, 24, 190, 27] ++
  [252, 86, 62, 75, 198, 210, 121, 32, 154, 219, 192, 254, 120, 205, 90, 244] ++
  [31, 221, 168, 51, 136, 7, 199, 49, 177, 18, 16, 89, 39, 128, 236, 95] ++
  [96, 81, 127, 169, 25, 181, 74, 13, 45, 229, 122, 159, 147, 201, 156, 239] ++
  [160, 224, 59, 77, 174, 42, 245, 176, 200, 235, 187, 60, 131, 83, 153, 97] ++
  [23, 43, 4, 126, 186, 119, 214, 38, 225, 105, 20, 99, 85, 33, 12, 125]

def sboxB (t : List Nat) (b : Byte) : Byte := BitVec.ofNat 8 (t.getD b.toNat 0)
def xtime (b : Byte) : Byte := (b <<< 1) ^^^ (if b.getLsbD 7 then 0x1B#8 else 0#8)

/-- A byte times a constant below 16. -/
def gmul (k : Nat) (b : Byte) : Byte :=
  let b2 := xtime b
  let b4 := xtime b2
  (if k.testBit 0 then b else 0#8) ^^^ (if k.testBit 1 then b2 else 0#8) ^^^ (if k.testBit 2 then b4 else 0#8) ^^^
    (if k.testBit 3 then xtime b4 else 0#8)

def xorBytes (a b : List Byte) : List Byte := (a.zip b).map (fun p => p.1 ^^^ p.2)

/-- Key expansion: words of four bytes, newest first. -/
def aesExpand : Nat → Nat → Byte → List (List Byte) → List (List Byte)
  | 0, _, _, w => w
  | n + 1, i, rcon, w =>
    let prev := w.getD 0 []
    let old := w.getD 7 []
    if i % 8 = 0 then
      let t := (prev.drop 1 ++ prev.take 1).map (sboxB aesSbox)
      let t := xorBytes t [rcon, 0#8, 0#8, 0#8]
      aesExpand n (i + 1) (xtime rcon) (xorBytes old t :: w)
    else if i % 8 = 4 then aesExpand n (i + 1) rcon (xorBytes old (prev.map (sboxB aesSbox)) :: w)
    else aesExpand n (i + 1) rcon (xorBytes old prev :: w)

def wordsBy4 : Nat → List Byte → List (List Byte)
  | 0, _ => []
  | n + 1, bs => bs.take 4 :: wordsBy4 n (bs.drop 4)

/-- The fifteen round keys of sixteen bytes. -/
def aesKeys (key : List Byte) : List (List Byte) :=
  let w := (aesExpand 52 8 1#8 (wordsBy4 8 key).reverse).reverse
  (List.range 15).map (fun r => ((w.drop (4 * r)).take 4).flatten)

def mixWith (k : List Nat) (s : List Byte) : List Byte :=
  (List.range 16).map (fun i =>
    let c := i / 4 * 4
    (List.range 4).foldl (fun a j => a ^^^ gmul (k.getD ((j + 4 - i % 4) % 4) 0) (s.getD (c + j) 0#8)) 0#8)

def shiftRows (s : List Byte) : List Byte := (List.range 16).map (fun i => s.getD ((i + 4 * (i % 4)) % 16) 0#8)
def invShiftRows (s : List Byte) : List Byte := (List.range 16).map (fun i => s.getD ((i + 16 - 4 * (i % 4)) % 16) 0#8)

def aesRounds : List (List Byte) → List Byte → List Byte
  | [], s => s
  | [k], s => xorBytes (shiftRows (s.map (sboxB aesSbox))) k
  | k :: ks, s => aesRounds ks (xorBytes (mixWith [2, 3, 1, 1] (shiftRows (s.map (sboxB aesSbox)))) k)

def aesInvRounds : List (List Byte) → List Byte → List Byte
  | [], s => s
  | [k], s => xorBytes ((invShiftRows s).map (sboxB aesInvSbox)) k
  | k :: ks, s => aesInvRounds ks (mixWith [14, 11, 13, 9] (xorBytes ((invShiftRows s).map (sboxB aesInvSbox)) k))

def aesEnc (ks : List (List Byte)) (b : List Byte) : List Byte := aesRounds (ks.drop 1) (xorBytes b (ks.getD 0 []))
def aesDec (ks : List (List Byte)) (b : List Byte) : List Byte :=
  aesInvRounds (ks.reverse.drop 1) (xorBytes b (ks.getD 14 []))

/-! ### GCM -/

/-- One step of the product in GF(2^128): bit 127 of the number is the first bit of the block. -/
def gfStep (acc : Nat × Nat) (bit : Bool) : Nat × Nat :=
  let z := if bit then acc.1 ^^^ acc.2 else acc.1
  (z, if acc.2 % 2 = 1 then (acc.2 >>> 1) ^^^ (0xE1 <<< 120) else acc.2 >>> 1)

def gfMul (x y : Nat) : Nat := ((List.range 128).foldl (fun a i => gfStep a (x.testBit (127 - i))) (0, y)).1

def ghash (h : Nat) : Nat → Nat → List Byte → Nat
  | 0, y, _ => y
  | n + 1, y, bs =>
    if bs.isEmpty then y
    else
      let blk := bs.take 16
      ghash h n (gfMul (y ^^^ natOfBe (blk ++ List.replicate (16 - blk.length) 0#8)) h) (bs.drop 16)

/-- The text under the counter stream that begins at counter `c`. -/
def ctrStream (ks : List (List Byte)) (iv : List Byte) : Nat → Nat → List Byte → List Byte
  | 0, _, _ => []
  | n + 1, c, bs =>
    if bs.isEmpty then []
    else xorBytes (bs.take 16) (aesEnc ks (iv ++ beBytes 4 c)) ++ ctrStream ks iv n (c + 1) (bs.drop 16)

def gcmText (ks : List (List Byte)) (iv text : List Byte) : List Byte := ctrStream ks iv (text.length / 16 + 1) 2 text

def gcmTag (ks : List (List Byte)) (iv aad cipher : List Byte) : List Byte :=
  let h := natOfBe (aesEnc ks (List.replicate 16 0#8))
  let y := ghash h (aad.length / 16 + 1) 0 aad
  let y := ghash h (cipher.length / 16 + 1) y cipher
  let y := ghash h 1 y (beBytes 8 (8 * aad.length) ++ beBytes 8 (8 * cipher.length))
  xorBytes (beBytes 16 y) (aesEnc ks (iv ++ beBytes 4 1))

/-- Ciphertext and tag. -/
def gcmSeal (key iv aad text : List Byte) : List Byte × List Byte :=
  let ks := aesKeys key
  let c := gcmText ks iv text
  (c, gcmTag ks iv aad c)

/-- The text of an authentic ciphertext. -/
def gcmOpen (key iv aad cipher tag : List Byte) : Option (List Byte) :=
  let ks := aesKeys key
  if gcmTag ks iv aad cipher = tag then some (gcmText ks iv cipher) else none

/-! ### Key wrap -/

def kwStep (ks : List (List Byte)) (n : Nat) (acc : List Byte × List (List Byte)) (t : Nat) : List Byte × List (List Byte) :=
  let i := (t - 1) % n
  let b := aesDec ks (xorBytes acc.1 (beBytes 8 t) ++ acc.2.getD i [])
  (b.take 8, acc.2.set i (b.drop 8))

def by8 : Nat → List Byte → List (List Byte)
  | 0, _ => []
  | n + 1, bs => bs.take 8 :: by8 n (bs.drop 8)

/-- The plaintext of a wrapping whose integrity check holds. -/
def kwUnwrap (kek wrapped : List Byte) : Option (List Byte) :=
  let n := wrapped.length / 8 - 1
  let ks := aesKeys kek
  let r := ((List.range (6 * n)).map (fun k => 6 * n - k)).foldl (kwStep ks n) (wrapped.take 8, by8 n (wrapped.drop 8))
  if r.1 = List.replicate 8 0xA6#8 then some r.2.flatten else none

/-! ### P-256 -/

def pP : Nat := 0xffffffff00000001000000000000000000000000ffffffffffffffffffffffff
def pN : Nat := 0xffffffff00000000ffffffffffffffffbce6faada7179e84f3b9cac2fc632551
def pB : Nat := 0x5ac635d8aa3a93e7b3ebbd55769886bc651d06b0cc53b0f63bce3c3e27d2604b
def pGx : Nat := 0x6b17d1f2e12c4247f8bce6e563a440f277037d812deb33a0f4a13945d898c296
def pGy : Nat := 0x4fe342e2fe1a7f9b8ee7eb4a7c0f9e162bce33576b315ececbb6406837bf51f5

def powMod (m b : Nat) : Nat → Nat → Nat → Nat
  | 0, _, acc => acc
  | n + 1, e, acc => powMod m b n e (if e.testBit n then acc * acc % m * b % m else acc * acc % m)

def invMod (m a : Nat) : Nat := powMod m a 256 (m - 2) 1

/-- A point of the curve; `none` is the point at infinity. -/
abbrev EcPoint := Option (Nat × Nat)

def onCurve (x y : Nat) : Bool :=
  decide (x < pP) && decide (y < pP) && (y * y) % pP == (x * x * x + (pP - 3) * x + pB) % pP

def ecAdd (a b : EcPoint) : EcPoint :=
  match a, b with
  | none, q => q
  | p, none => p
  | some (x1, y1), some (x2, y2) =>
    if x1 = x2 ∧ (y1 + y2) % pP = 0 then none
    else
      let l := if x1 = x2 then (3 * x1 * x1 + (pP - 3)) * invMod pP (2 * y1) % pP
        else (y2 + pP - y1) * invMod pP ((x2 + pP - x1) % pP) % pP
      let x3 := (l * l + 2 * pP - x1 - x2) % pP
      some (x3, (l * (x1 + pP - x3) + pP - y1) % pP)

def ecMulFrom (k : Nat) (p : EcPoint) : Nat → EcPoint → EcPoint
  | 0, acc => acc
  | n + 1, acc => ecMulFrom k p n (if k.testBit n then ecAdd (ecAdd acc acc) p else ecAdd acc acc)

def ecMul (k : Nat) (p : EcPoint) : EcPoint := ecMulFrom k p 256 none

/-- The 64 bytes of a public key, x then y. -/
def ecPub (d : Nat) : List Byte :=
  match ecMul d (some (pGx, pGy)) with
  | some (x, y) => beBytes 32 x ++ beBytes 32 y
  | none => List.replicate 64 0#8

def ecPointOf (pub : List Byte) : EcPoint :=
  let x := natOfBe (pub.take 32)
  let y := natOfBe (pub.drop 32)
  if pub.length = 64 ∧ onCurve x y then some (x, y) else none

/-- The x-coordinate both sides agree on. -/
def ecdh (d : Nat) (pub : List Byte) : List Byte :=
  match ecPointOf pub with
  | none => List.replicate 32 0#8
  | some p => match ecMul d (some p) with
    | some (x, _) => beBytes 32 x
    | none => List.replicate 32 0#8

/-- ECDSA over SHA-256: `sig` is R then S. -/
def ecdsaOk (pub msg sig : List Byte) : Bool :=
  let r := natOfBe (sig.take 32)
  let t := natOfBe (sig.drop 32)
  if sig.length ≠ 64 ∨ r = 0 ∨ t = 0 ∨ pN ≤ r ∨ pN ≤ t then false
  else match ecPointOf pub with
    | none => false
    | some q =>
      let w := invMod pN t
      let z := natOfBe (sha256 msg)
      match ecAdd (ecMul (z * w % pN) (some (pGx, pGy))) (ecMul (r * w % pN) (some q)) with
      | some (x, _) => x % pN == r
      | none => false

/-- A signature by private key `d` with nonce `k`. -/
def ecdsaSign (d k : Nat) (msg : List Byte) : List Byte :=
  match ecMul k (some (pGx, pGy)) with
  | some (x, _) =>
    let r := x % pN
    beBytes 32 r ++ beBytes 32 (invMod pN (k % pN) * (natOfBe (sha256 msg) + r * d) % pN)
  | none => List.replicate 64 0#8

end Sys2Proof.Machine
end

