-- ==== Sys2Proof/Machine/Certs.lean ====
section
/-!
DEFINITION. The certificates of the configuration flash: X.509 v3 in DER, signed with ECDSA P-256 over SHA-256, read and
verified up to the root key of the boot ROM (spec/21_boot_security.md R432, R434, spec/16_folio.md R362).
-/

namespace Sys2Proof.Machine

/-! ### DER -/

/-- An element: its tag, its contents, and all of its bytes. -/
structure Der where
  tag : Nat
  body : List Byte
  whole : List Byte
  deriving DecidableEq, Repr

/-- A length, and the bytes it takes. -/
def derLen : List Byte → Option (Nat × Nat)
  | [] => none
  | b :: rest =>
    let n := b.toNat - 128
    if b.toNat < 128 then some (b.toNat, 1)
    else if n = 0 ∨ 3 < n ∨ rest.length < n then none
    else some (natOfBe (rest.take n), n + 1)

/-- The first element of some bytes, and the bytes behind it. -/
def derOne : List Byte → Option (Der × List Byte)
  | [] => none
  | t :: rest =>
    match derLen rest with
    | none => none
    | some (n, h) =>
      if rest.length < h + n then none
      else some (⟨t.toNat, (rest.drop h).take n, t :: rest.take (h + n)⟩, rest.drop (h + n))

def derAll : Nat → List Byte → List Der
  | 0, _ => []
  | fuel + 1, bs =>
    match derOne bs with
    | none => []
    | some (d, rest) => d :: derAll fuel rest

/-- The elements a constructed one holds. -/
def derKids (d : Der) : List Der := derAll d.body.length d.body

/-! ### Certificates -/

/-- What the G9 takes from a certificate. -/
structure Cert where
  tbs : List Byte
  issuer : List Byte
  subject : List Byte
  /-- the certified P-256 key, x then y -/
  key : List Byte
  /-- extensions by object identifier -/
  exts : List (List Byte × List Byte)
  /-- R then S -/
  sig : List Byte
  deriving DecidableEq, Repr

/-- The point of a SubjectPublicKeyInfo, uncompressed. -/
def spkiKey (d : Der) : List Byte :=
  match derKids d with
  | [_, b] => if b.body.length = 66 then b.body.drop 2 else []
  | _ => []

/-- R and S of an ECDSA signature value in a BIT STRING. -/
def sigPair (d : Der) : List Byte :=
  match derOne (d.body.drop 1) with
  | some (x, _) =>
    match derKids x with
    | [r, s] => beBytes 32 (natOfBe r.body) ++ beBytes 32 (natOfBe s.body)
    | _ => []
  | none => []

/-- Object identifier and value of each extension. -/
def certExts (d : Der) : List (List Byte × List Byte) :=
  ((derKids d).flatMap derKids).filterMap (fun e =>
    match (derKids e).head?, (derKids e).getLast? with
    | some o, some v => some (o.body, v.body)
    | _, _ => none)

/-- A certificate read from its DER bytes: tag 0xA0 is the version, 0xA3 the extensions. -/
def certOf (bs : List Byte) : Option Cert :=
  match derOne bs with
  | none => none
  | some (c, _) =>
    match derKids c with
    | [tbs, _, sig] =>
      match (derKids tbs).filter (fun d => d.tag != 0xA0) with
      | _ :: _ :: issuer :: _ :: subject :: spki :: rest =>
        some ⟨tbs.whole, issuer.whole, subject.whole, spkiKey spki, (rest.filter (fun d => d.tag == 0xA3)).flatMap certExts, sigPair sig⟩
      | _ => none
    | _ => none

/-- The last certificate of a chain of which each is signed by the one before it, the first by `key` (R432). -/
def chainCert : List Byte → List (List Byte) → Option Cert
  | _, [] => none
  | key, bs :: rest =>
    match certOf bs with
    | none => none
    | some c => if !ecdsaOk key c.tbs c.sig then none else if rest.isEmpty then some c else chainCert c.key rest

/-! ### The flash's certificates (R432, R434, R362, R442) -/

/-- The production key a KEYID names; no key where its chain does not lead to the root. -/
def productionKey (keyId : List Byte) : List Byte :=
  ((chainCert Config.lamnakRoot (Config.productionChain keyId)).map (·.key)).getD []

/-- The identity certificate, behind that of the device CA. -/
def idCert : Option Cert := chainCert Config.lamnakRoot Config.deviceChain

/-- The certified identity key, and the key-agreement key of the Lamnak extension (R434). -/
def certIdKey : List Byte := (idCert.map (·.key)).getD []
def certKaKey : List Byte := ((idCert.bind (fun c => c.exts.find? (fun e => e.1 == Config.lamnakExtension))).map (·.2)).getD []

/-- The chain of slot 0 as SPDM carries it: length, the root's digest, root, device CA, identity (R442). -/
def certChain : List Byte :=
  let certs := Config.rootCert ++ Config.deviceChain.flatten
  natBytes 2 (36 + certs.length) ++ natBytes 2 0 ++ sha256 Config.rootCert ++ certs

end Sys2Proof.Machine
end

