-- ==== Sys2Proof/Machine/Codes.lean ====
section
/-!
DEFINITION. The codes of spec/12_compression.md: gradient codes of chunks (R269-R275) and lossless table coding
(R280-R284).
-/

namespace Sys2Proof.Machine

/-! ### Rounding into scales -/

/-- A nonzero magnitude rounded toward +∞ into BF16, clamped to the largest finite one (R207, R271). -/
def bf16Up (num den : Nat) : Nat :=
  let c := roundFlt fltBf16 .rtz num den 0
  let c := if valLt (fltValue fltBf16 false c) (.fin false num den) then c + 1 else c
  min c fltBf16.maxCode

/-- An exact quotient by a nonzero finite value. -/
def valDiv (a b : Val) : Val :=
  match a, b with
  | .fin n p q, .fin m x y => if x = 0 then .nan else valMk (n != m) (p * y) (q * x)
  | _, _ => .nan

def bf16Of (v : Val) : Nat := (fltEncode fltBf16 .rne false 0 v).1
def bf16OfIeee (v : Val) : Nat := (fltEncode fltBf16 .rne true 0 v).1
def bf16Val (c : Nat) : Val := fltDecode fltBf16 c
def fp32Of (v : Val) : Nat := (fltEncode fltFp32 .rne true 0 v).1
def fp32Val (c : Nat) : Val := fltDecode fltFp32 c
/-- One rounding into FP32 to nearest even (R274). -/
def rneF32 (v : Val) : Val := fp32Val (fp32Of v)

def bytesAt (bs : List Byte) (o n : Nat) : List Byte := (bs.drop o).take n
def natAt (bs : List Byte) (o n : Nat) : Nat := bytesNat (bytesAt bs o n)

/-- Dense FP32 elements of a buffer, and back. -/
def fp32s (n : Nat) (bs : List Byte) : List Val := (List.range n).map (fun i => fp32Val (natAt bs (4 * i) 4))
def fp32Bytes (vs : List Val) : List Byte := vs.flatMap (fun v => natBytes 4 (fp32Of v))

def bf16s (n : Nat) (bs : List Byte) : List Val := (List.range n).map (fun i => bf16Val (natAt bs (2 * i) 2))
def bf16Bytes (vs : List Val) : List Byte := vs.flatMap (fun v => natBytes 2 (bf16OfIeee v))

/-! ### Gradient codes (R269-R273) -/

inductive GCode where
  | fp32 | bf16 | sign | topk (k : Nat)
  deriving DecidableEq, Repr

/-- GCODE and K of a CODE byte (R269). -/
def gcodeOf (code : Nat) : GCode :=
  match code / 64 with
  | 0 => .fp32 | 1 => .bf16 | 2 => .sign | _ => .topk (2 ^ (2 + code / 16 % 4))

/-- A CODE byte SET_CONFIG accepts (R269). -/
def codeByteOk (code : Nat) : Bool := code % 4 == 0 && (code / 64 == 3 || code / 16 % 4 == 0)
def codeLtc (code : Nat) : Bool := code / 8 % 2 == 1
def codeLslot (code : Nat) : Nat := code / 4 % 2
def lossy : GCode → Bool
  | .fp32 => false
  | _ => true

/-- Payload bytes of a chunk of 4,096 elements (R270-R272). -/
def gcodeBytes : GCode → Nat
  | .fp32 => 16384 | .bf16 => 8192 | .sign => 544 | .topk k => 16 * (2 * k + 2)

/-- One block's scale for SIGN: the mean magnitude rounded once (R270). -/
def signScale (vs : List Val) : Nat :=
  bf16Of (valDiv (vs.foldl (fun a v => valAdd a (valAbs v)) valZero) (valOfInt vs.length))

/-- Insertion of an element, larger magnitudes first and lower indices first on ties. -/
def insertMag (x : Nat × Val) : List (Nat × Val) → List (Nat × Val)
  | [] => [x]
  | y :: ys => if valLt (valAbs y.2) (valAbs x.2) then x :: y :: ys else y :: insertMag x ys

/-- The `k` largest magnitudes, kept while the block is read in ascending index. -/
def topEntries (k : Nat) (vs : List (Nat × Val)) : List (Nat × Val) :=
  vs.foldl (fun best x => (insertMag x best).take k) []

def insertIdx (x : Nat × Val) : List (Nat × Val) → List (Nat × Val)
  | [] => [x]
  | y :: ys => if x.1 < y.1 then x :: y :: ys else y :: insertIdx x ys

def byIndex (es : List (Nat × Val)) : List (Nat × Val) := es.foldl (fun a x => insertIdx x a) []

/-- One block of 256 values coded by SIGN or TOPK (R270, R271, R273). -/
def lossyBlock (g : GCode) (vs : List Val) : List Byte :=
  let bad := vs.any (fun v => !valIsFinite v)
  match g with
  | .sign =>
    if bad then List.replicate 32 0#8 ++ natBytes 2 0x7FC0
    else packCodes 1 (vs.map (fun v => b2n (valIsNeg v && !valIsZero v))) ++ natBytes 2 (signScale vs)
  | .topk k =>
    if bad then (List.range k).map (BitVec.ofNat 8) ++ List.replicate k 0#8 ++ natBytes 2 0x7FC0
    else
      let es := byIndex (topEntries k (vs.zipIdx.map (fun p => (p.2, p.1))))
      let amax := vs.foldl valMaxAbs valZero
      let s := match amax with
        | .fin _ num den => if num = 0 then 0 else bf16Up num (448 * den)
        | _ => 0
      let code (v : Val) : Nat := if s = 0 then 0 else (fltEncode fltE4m3 .rne false 0 (valDiv v (bf16Val s))).1
      es.map (fun e => BitVec.ofNat 8 e.1) ++ es.map (fun e => BitVec.ofNat 8 (code e.2)) ++ natBytes 2 s
  | _ => []

/-- Bytes of one lossy block. -/
def lossyBytes : GCode → Nat
  | .sign => 34 | .topk k => 2 * k + 2 | _ => 0

/-- A chunk of 4,096 values coded (R270-R273). -/
def gEncode (g : GCode) (vs : List Val) : List Byte :=
  match g with
  | .fp32 => fp32Bytes vs
  | .bf16 => vs.flatMap (fun v => natBytes 2 (bf16Of v))
  | g => (chunksOf 256 valZero 16 vs).flatMap (lossyBlock g)

/-- Indices strictly ascending (R271). -/
def ascending : List Nat → Bool
  | a :: b :: rest => decide (a < b) && ascending (b :: rest)
  | _ => true

/-- One block expanded to exact values; nothing where its indices are not ascending (R271, R273). -/
def lossyExpand (g : GCode) (bs : List Byte) : Option (List Val) :=
  match g with
  | .sign =>
    let s := bf16Val (natAt bs 32 2)
    some ((List.range 256).map (fun i =>
      let sg := elemBits 1 i (bs.take 32) == 1
      if s = .nan then .nan else if sg then valNeg s else s))
  | .topk k =>
    let idx := (bs.take k).map (·.toNat)
    let s := bf16Val (natAt bs (2 * k) 2)
    if !ascending idx then none
    else some ((List.range 256).map (fun i =>
      if s = .nan then .nan
      else match idx.idxOf? i with
        | some j => valMul (fltDecode fltE4m3 (natAt bs (k + j) 1)) s
        | none => valZero))
  | _ => some []

/-- The blocks of a chunk expanded in order. -/
def expandBlocks (g : GCode) (bs : List Byte) : Nat → Option (List Val)
  | 0 => some []
  | n + 1 =>
    match lossyExpand g (bs.take (lossyBytes g)), expandBlocks g (bs.drop (lossyBytes g)) n with
    | some a, some b => some (a ++ b)
    | _, _ => none

/-- A chunk's exact expansion (R272). -/
def gExpand (g : GCode) (bs : List Byte) : Option (List Val) :=
  match g with
  | .fp32 => some (fp32s 4096 bs)
  | .bf16 => some (bf16s 4096 bs)
  | g => expandBlocks g bs 16

/-- What a member codes for its hop, and the residuals it writes (R274, R278): `x`, `l` and `r` by element. R274 says nothing of
a residual beyond BF16: rounding takes it to infinity, as IEEE has it (DESIGN CHOICE, notes/assumptions/69.md). -/
def hopCode (g : GCode) (x l r : List Val) : List Byte × List Val :=
  let p := (x.zip (l.zip r)).map (fun t => rneF32 (valAdd (valAdd t.1 t.2.1) t.2.2))
  let c := gEncode g p
  let e := (gExpand g c).getD (p.map (fun _ => .nan))
  (c, if lossy g then (p.zip e).map (fun t => match t.2 with
    | .nan => valZero
    | v => bf16Val (bf16OfIeee (valSub t.1 v))) else [])

/-! ### Lossless table coding (R280-R284) -/

/-- Table slots by number. -/
def slotOf (x : Cmp) (k : Nat) : Slot := if k = 0 then x.slot0 else x.slot1
def setSlot (x : Cmp) (k : Nat) (t : Slot) : Cmp := if k = 0 then { x with slot0 := t } else { x with slot1 := t }

/-- Codes of a plane: length, code and symbol (R281). -/
def canonCodes (lens : List Nat) : List (Nat × Nat × Nat) :=
  ((List.range 15).foldl (fun (acc : Nat × List (Nat × Nat × Nat)) k =>
    let l := k + 1
    let here := (lens.zipIdx).filter (fun p => p.1 == l)
    let got := here.zipIdx.map (fun p => (l, acc.1 + p.2, p.1.2))
    ((acc.1 + here.length) * 2, acc.2 ++ got)) (0, [])).2

/-- Plane lengths that break the Kraft inequality, or a plane with no symbol, refuse a table (R280). -/
def planeOk (lens : List Nat) : Bool :=
  lens.any (· != 0) && decide (((lens.filter (· != 0)).map (fun l => 2 ^ (15 - l))).sum ≤ 2 ^ 15)

/-- A table image read: nothing where R280 refuses it. -/
def tableOf (img : List Byte) : Option (Nat × List (List Nat)) :=
  let w := natAt img 0 1
  if (w ≠ 1 ∧ w ≠ 2 ∧ w ≠ 4) ∨ (bytesAt img 1 15).any (· != 0#8) then none
  else
    let planes := (List.range w).map (fun j =>
      (List.range 256).map (fun k => elemBits 4 k (bytesAt img (16 + 128 * j) 128)))
    if planes.all planeOk then some (w, planes) else none

def bitsOf (n v : Nat) : List Bool := (List.range n).map (fun i => v.testBit (n - 1 - i))

/-- Bits filled into bytes from bit 7 down (R281). -/
def packMsb : Nat → List Bool → List Byte
  | 0, _ => []
  | fuel + 1, bs =>
    if bs.isEmpty then []
    else
      let v := (List.range 8).foldl (fun a i => 2 * a + b2n (bs.getD i false)) 0
      BitVec.ofNat 8 v :: packMsb fuel (bs.drop 8)

/-- One plane coded, or nothing where a symbol is absent. -/
def planeEncode (lens : List Nat) (syms : List Nat) : Option (List Byte) :=
  let codes := canonCodes lens
  let bs := syms.map (fun y => codes.find? (fun c => c.2.2 == y))
  if bs.any (fun b => b.isNone) then none
  else
    let all := bs.flatMap (fun b => match b with | some (l, c, _) => bitsOf l c | none => [])
    some (packMsb (all.length / 8 + 1) all)

/-- Symbols of plane `j` of a block of `w`-byte elements (R280). -/
def planeSyms (w j : Nat) (raw : List Byte) : List Nat :=
  (List.range (4096 / w)).map (fun i => (raw.getD (w * i + j) 0#8).toNat)

def padTo (n : Nat) (bs : List Byte) : List Byte := bs ++ List.replicate ((n - bs.length % n) % n) 0#8

/-- A raw block (R282). -/
def ltcRaw (raw : List Byte) : List Byte :=
  natBytes 1 1 ++ List.replicate 11 0#8 ++ natBytes 4 (crc32c raw) ++ raw

/-- A 4 KiB block coded with the table in slot `k` (R282); in an empty slot every symbol is absent. -/
def ltcEncode (t : Slot) (k : Nat) (raw : List Byte) : List Byte :=
  let planes := (List.range t.w).map (fun j => planeEncode (t.lens.getD j []) (planeSyms t.w j raw))
  if t.gen = 0 || planes.any (fun p => p.isNone) then ltcRaw raw
  else
    let ps := planes.map (fun p => p.getD [])
    let offs := (List.range 4).map (fun j => ((ps.take j).map List.length).sum)
    let body := ps.flatten
    let off (j : Nat) : List Byte := natBytes 2 (if j < t.w then offs.getD j 0 else 0)
    let blk := padTo 16 (natBytes 1 (2 * k) ++ natBytes 1 t.gen ++ natBytes 2 body.length ++ off 1 ++ off 2 ++ off 3 ++
      natBytes 1 t.w ++ [0#8] ++ natBytes 4 (crc32c raw) ++ body)
    if 3584 < blk.length then ltcRaw raw else blk

/-- `n` symbols read from a plane's bits, then nothing but zero padding within the last byte (R284); `len` and `code`
are the bits of the symbol under way, and the symbols read come newest first. -/
def planeDecode (codes : List (Nat × Nat × Nat)) : List Bool → Nat → Nat → Nat → List Nat → Option (List Nat)
  | [], n, len, _, acc => if n = 0 ∧ len = 0 then some acc.reverse else none
  | b :: bs, 0, _, _, acc => if bs.length < 7 && !b && bs.all (!·) then some acc.reverse else none
  | b :: bs, n + 1, len, code, acc =>
    let c := 2 * code + b2n b
    match codes.find? (fun e => e.1 == len + 1 && e.2.1 == c) with
    | some e => planeDecode codes bs n 0 0 (e.2.2 :: acc)
    | none => if 14 ≤ len then none else planeDecode codes bs (n + 1) (len + 1) c acc

/-- What a decoder answers for a block (R284). -/
inductive LtcOut where
  | ok (raw : List Byte)
  | gen
  | bad
  deriving DecidableEq, Repr

/-- The bits of bytes, bit 7 of each first. -/
def msbBits (bs : List Byte) : List Bool := bs.flatMap (fun b => bitsOf 8 b.toNat)

/-- Size of a block in a stream from its header (R282). -/
def ltcSize (blk : List Byte) : Nat := if natAt blk 0 1 % 2 = 1 then 4112 else (16 + natAt blk 2 2 + 15) / 16 * 16

/-- Bytes of `w` planes put together again (R280). -/
def joinPlanes (w : Nat) (ps : List (List Nat)) : List Byte :=
  (List.range (4096 / w)).flatMap (fun i => (List.range w).map (fun j => BitVec.ofNat 8 ((ps.getD j []).getD i 0)))

/-- The body of a coded block decoded with a table (R284 step 2). -/
def ltcBody (t : Slot) (blk : List Byte) : LtcOut :=
  let len := natAt blk 2 2
  let offs := (List.range 4).map (fun j => if j = 0 then 0 else if j < t.w then natAt blk (2 + 2 * j) 2 else len)
  let reserved := natAt blk 0 1 / 4 != 0 || natAt blk 11 1 != 0 ||
    (List.range 4).any (fun j => decide (t.w ≤ j) && natAt blk (2 + 2 * j) 2 != 0)
  let order := (List.range t.w).any (fun j =>
    decide (len < offs.getD j 0) || (j != 0 && decide (offs.getD j 0 ≤ offs.getD (j - 1) 0)))
  if reserved || natAt blk 10 1 != t.w || decide (3568 < len) || order then .bad
  else
    let planes := (List.range t.w).map (fun j =>
      let stop := if j + 1 < t.w then offs.getD (j + 1) 0 else len
      planeDecode (canonCodes (t.lens.getD j [])) (msbBits (bytesAt blk (16 + offs.getD j 0) (stop - offs.getD j 0)))
        (4096 / t.w) 0 0 [])
    if planes.any (fun p => p.isNone) then .bad
    else
      let raw := joinPlanes t.w (planes.map (fun p => p.getD []))
      if crc32c raw = natAt blk 12 4 then .ok raw else .bad

/-- A block decoded: `slot k` is a table slot, `named k` tells whether blocks may name it (R284, R288). -/
def ltcDecode (slot : Nat → Slot) (named : Nat → Bool) (blk : List Byte) : LtcOut :=
  let flags := natAt blk 0 1
  if flags % 2 = 1 then
    let raw := bytesAt blk 16 4096
    if raw.length = 4096 ∧ crc32c raw = natAt blk 12 4 then .ok raw else .bad
  else
    let k := flags / 2 % 2
    let t := slot k
    if !named k || t.gen == 0 || t.gen != natAt blk 1 1 then .gen else ltcBody t blk

end Sys2Proof.Machine
end

