-- ==== Sys2Proof/Machine/Mailbox.lean ====
section
/-!
DEFINITION. The mailboxes and the completion of commands (spec/18_mailbox_commands.md R385-R394).
-/

namespace Sys2Proof.Machine

/-! ### Status codes (R394) -/

inductive Status where
  | ok | pending | badOpcode | badArg | lengthRange | stateConflict | notPresent | busy | tableBusy | locked
  | fenced | timeout | checkFail | capUnmet | authFail | rollback | internal
  deriving DecidableEq, Repr

def statusCode : Status → Nat
  | .ok => 0x00 | .pending => 0x01 | .badOpcode => 0x10 | .badArg => 0x11 | .lengthRange => 0x12
  | .stateConflict => 0x13 | .notPresent => 0x14 | .busy => 0x15 | .tableBusy => 0x16 | .locked => 0x17
  | .fenced => 0x20 | .timeout => 0x21 | .checkFail => 0x22 | .capUnmet => 0x23 | .authFail => 0x30
  | .rollback => 0x31 | .internal => 0x3F

/-! ### Codes of states (R392, R393) -/

def devCode : DevState → Nat
  | .off => 0 | .standby => 1 | .booting => 2 | .ready => 3 | .running => 4 | .halted => 5

def pstateCode : PState → Nat
  | .active => 0 | .fencing => 1 | .resetting => 2 | .idle => 3 | .absent => 4

/-! ### Payloads (R388) -/

/-- What a STATE_CONFLICT names: object number, its state and kind. -/
structure Conflict where
  obj : Nat
  ostate : Nat
  kind : Nat
  deriving DecidableEq, Repr

def noConflict : Conflict := ⟨0xFFFF, 0xFF, 0⟩

def statePayload (s : State) (c : Conflict) : List Byte :=
  natBytes 1 (devCode s.dev) ++ (List.range 8).flatMap (fun p => natBytes 1 (pstateCode (pstateOf s p))) ++
    natBytes 2 c.obj ++ natBytes 1 c.ostate ++ natBytes 1 c.kind ++ natBytes 3 0

/-- Where a fault lies: WHERE, ARG, UNIT, OFFSET and DETAIL. -/
structure FaultAt where
  where_ : Nat
  arg : Nat
  unit : Nat
  offset : Nat
  detail : Nat
  deriving DecidableEq, Repr

def faultPayload (f : FaultAt) : List Byte :=
  natBytes 1 f.where_ ++ natBytes 1 f.arg ++ natBytes 2 f.unit ++ natBytes 4 f.offset ++ natBytes 8 f.detail

/-- A fault at argument `n`, in the request payload, or at an address in HBM. -/
def atArg (n : Nat) : FaultAt := ⟨0, n, 0, 0, 0⟩
def atPayload (o : Nat) : FaultAt := ⟨1, 0, 0, o, 0⟩
def atImage (o d : Nat) : FaultAt := ⟨2, 0, 0, o, d⟩

/-! ### Completion (R386, R390) -/

def mailboxOf (s : State) (i : Nat) : Mailbox := Tbl.get mailboxReset s.jante.boxes i
def setMailbox (s : State) (i : Nat) (x : Mailbox) : State :=
  { s with jante := { s.jante with boxes := Tbl.set s.jante.boxes i x } }

/-- The status word with BUSY clear, DONE set, CODE and RLEN; OVERRUN stays. -/
def doneStatus (w : W32) (code rlen : Nat) : W32 :=
  BitVec.ofNat 32 (2 ^ 30 + code * 2 ^ 16 + rlen) ||| (w &&& 0x20000000#32)

/-- A command completes on its mailbox: the response, CODE, RLEN and DONE in one update, and the vector (R386, R390). -/
def completeReq (s : State) (r : Req) (st : Status) (resp : List Byte) : State :=
  let code := statusCode st
  if r.src < 16 then
    let x := mailboxOf s r.src
    raiseVector (setMailbox s r.src { x with payload := memWrite x.payload 0 resp, status := doneStatus x.status code resp.length }) r.src
  else if r.src ≠ 16 then s
  else
    let msg := natBytes 2 r.opcode ++ natBytes 2 r.tag ++ natBytes 1 code ++ natBytes 3 0 ++ natBytes 4 resp.length ++ resp
    { s with out := .mctp r.tag code msg :: s.out, jante := { s.jante with sideband := none } }

def completeConflict (s : State) (r : Req) (c : Conflict) : State := completeReq s r .stateConflict (statePayload s c)
def completeFault (s : State) (r : Req) (st : Status) (f : FaultAt) : State := completeReq s r st (faultPayload f)

def argOf (r : Req) (n : Nat) : Nat := (r.args.getD n 0).toNat

/-- The bank a STREAM_LOAD_BANK names: B for 1. -/
def bankArg (r : Req) : Bool := argOf r 0 == 1

def setLoading (s : State) (b on : Bool) : State :=
  { s with cal := if b then { s.cal with loadB := on } else { s.cal with loadA := on } }

/-- The first PENDING command `p` accepts completes. -/
def finishPend (s : State) (p : Pend → Bool) (st : Status) (resp : List Byte) : State :=
  match s.jante.pend.find? p with
  | none => s
  | some x => completeReq { s with jante := { s.jante with pend := s.jante.pend.eraseP p } } x.req st resp

def pendOp (op : Nat) (x : Pend) : Bool := x.req.opcode == op

end Sys2Proof.Machine
end

