-- ==== Sys2Proof/Machine/SlowTier.lean ====
section
/-!
DEFINITION. Accesses to the slow tier over CXL: the map and the D2H requests (spec/07 R149, spec/17 R378, R379).
-/

namespace Sys2Proof.Machine

/-- The enabled window that covers a slow-tier offset (R378). -/
def slowWindow (s : State) (off : Nat) : Option Nat :=
  (List.range 16).find? (fun n =>
    let w := Tbl.get 0#32 s.cxl.slowWin n
    bitAt w 31 && decide (bits w 30 14 * 2 ^ 30 ≤ off) && decide (off < (bits w 30 14 + bits w 13 0) * 2 ^ 30))

/-- The host physical address of a slow-tier offset in window `n` (R378). -/
def slowHpaOf (s : State) (n off : Nat) : Nat :=
  bits (Tbl.get 0#32 s.cxl.slowHpa n) 21 0 * 2 ^ 30 + (off - bits (Tbl.get 0#32 s.cxl.slowWin n) 30 14 * 2 ^ 30)

/-- The link is up and a window covers the offset (R149). -/
def slowServed (s : State) (off : Nat) : Bool := s.cxl.up && (slowWindow s off).isSome

/-- One D2H request for at most a 64-byte line; `bytes` empty for a read of `len` bytes. -/
def sendD2h (s : State) (user : SlowUser) (off dst len : Nat) (bytes : List Byte) : State :=
  let w := (slowWindow s off).getD 0
  let hpa := slowHpaOf s w off
  let id := s.cxl.nextId
  let r : D2h := ⟨id, !bytes.isEmpty, hpa, len, user, 0x800000000000 + off, dst, w⟩
  { s with cxl := { s.cxl with d2h := s.cxl.d2h ++ [r], nextId := id + 1 },
           out := (if bytes.isEmpty then Out.d2hRead id hpa len else Out.d2hWrite id hpa bytes) :: s.out }

/-- A D2H request may be issued: at most 512 are outstanding (R379). -/
def d2hRoom (s : State) : Bool := decide (s.cxl.d2h.length < 512)

/-- A slow-tier range cut at 64-byte lines. -/
def slowLines : Nat → Nat → Nat → List (Nat × Nat)
  | 0, _, _ => []
  | fuel + 1, off, n =>
    if n = 0 then []
    else
      let k := min n (64 - off % 64)
      (off, k) :: slowLines fuel (off + k) (n - k)

def slowLinesIn (off n : Nat) : List (Nat × Nat) := slowLines (n / 64 + 2) off n

end Sys2Proof.Machine
end

