-- ==== Sys2Proof/Machine/Cipher.lean ====
section
/-!
DEFINITION. The cipher engine: the lock, messages, keys and epochs (spec/14_cipher_engine.md).
-/

namespace Sys2Proof.Machine

/-! ### The lock (R322, R325, R326, R333) -/

/-- An owner in the coding of `CIP_LOCK`; a higher number is a higher rank (R322). -/
def ownerCode : Owner → Nat
  | .host => 1 | .movers => 2 | .mp => 3 | .far => 4

def updCip (s : State) (f : Cip → Cip) : State := { s with cip := f s.cip }
/-- A `CIP_ERR` bit; a revoked lock and the end of a sequence raise vector 20 (R381). -/
def setCipErr (s : State) (b : Nat) : State :=
  let s := updCip s (fun c => { c with err := setBit c.err b })
  if b = 1 ∨ b = 2 then raiseVector s 20 else s

def lockRequest (s : State) (o : Owner) : State :=
  if s.cip.owner = some o ∨ s.cip.wait.contains o then s else updCip s (fun c => { c with wait := c.wait ++ [o] })

/-- The highest-ranked owner waiting. -/
def topWaiter (c : Cip) : Option Owner := [Owner.far, .mp, .movers, .host].find? (fun o => c.wait.contains o)

def holdLock (s : State) (o : Owner) : State :=
  updCip s (fun c => { c with owner := some o, wait := c.wait.filter (· != o) })

/-- The running message into a free save slot (R325). -/
def saveMsg (c : Cip) (m : CipMsg) : Cip :=
  if c.save0.isNone then { c with save0 := some m, last1 := false, running := none }
  else { c with save1 := some m, last1 := true, running := none }

def saveFree (c : Cip) : Bool := c.save0.isNone || c.save1.isNone

/-- The lock goes to the highest-ranked waiter where the engine is free, or where it outranks the running message and a
save slot is free (R322, R325). -/
def lockGrant (s : State) : State :=
  match topWaiter s.cip with
  | none => s
  | some o =>
    match s.cip.owner, s.cip.running with
    | none, _ => holdLock s o
    | some h, some m => if ownerCode h < ownerCode o ∧ saveFree s.cip then holdLock (updCip s (fun c => saveMsg c m)) o else s
    | some _, none => s

/-- A slow-tier access of the engine failed; the engine belongs to no partition, and partition 0 records it (R149, R379;
notes/assumptions/69.md). -/
def cipSlowFail (s : State) (addr : Nat) : State := memError s 0 errSlow addr false

/-- D2H requests of the running message sent as long as there is room; one that nothing serves any more fails (R149, R379). -/
def pumpCip : Nat → State → State
  | 0, s => s
  | fuel + 1, s =>
    match s.cip.running with
    | none => s
    | some m =>
      match m.todo with
      | [] => s
      | t :: todo =>
        let off := t.1 % 0x800000000000
        if !d2hRoom s then s
        else if !slowServed s off then cipSlowFail (updCip s (fun c => { c with running := some { m with todo := [], failed := true } })) t.1
        else
          let id := s.cxl.nextId
          let s := sendD2h s .cipher off t.1 t.2.1 t.2.2
          pumpCip fuel (updCip s (fun c => { c with running := some { m with todo := todo, slow := m.slow ++ [id] } }))

def cipPump (s : State) : State := match s.cip.running with
  | some m => pumpCip (m.todo.length + 1) s
  | none => s

/-- The most recently saved context resumes; with none saved the engine is free (R325). -/
def resumeSaved (s : State) : State :=
  let c := s.cip
  cipPump (match (if c.last1 then c.save1 else c.save0), c.save0, c.save1 with
    | some m, _, _ =>
      updCip s (fun c => if c.last1 then { c with save1 := none, last1 := false, running := some m, owner := some m.owner }
                         else { c with save0 := none, last1 := true, running := some m, owner := some m.owner })
    | none, some m, _ => updCip s (fun c => { c with save0 := none, running := some m, owner := some m.owner })
    | none, none, some m => updCip s (fun c => { c with save1 := none, running := some m, owner := some m.owner })
    | none, none, none => updCip s (fun c => { c with owner := none }))

/-- An owner whose message has ended gives the lock up (R322, R325). -/
def lockRelease (s : State) (o : Owner) : State :=
  if s.cip.owner = some o ∧ s.cip.running.isNone then resumeSaved s
  else updCip s (fun c => { c with wait := c.wait.filter (· != o) })

/-! ### Descriptor banks (R323) -/

def bankDw (s : State) (o : Owner) (n : Nat) : W32 := Tbl.get 0#32 (Tbl.get [] s.cip.banks (ownerCode o)) n
def setBankDw (s : State) (o : Owner) (n : Nat) (v : W32) : State :=
  updCip s (fun c => { c with banks := Tbl.set c.banks (ownerCode o) (Tbl.set (Tbl.get [] c.banks (ownerCode o)) n v) })

def bank64 (s : State) (o : Owner) (n : Nat) : Nat := (bankDw s o n).toNat + (bankDw s o (n + 1)).toNat * 2 ^ 32

def dwBytes (v : W32) : List Byte := natBytes 4 v.toNat

/-- The message an owner's bank describes. -/
def bankMsg (s : State) (o : Owner) : CipMsg :=
  let ctl := bankDw s o 0
  { owner := o, decrypt := bits ctl 29 28 == 1, slot := bits ctl 21 16,
    iv := dwBytes (bankDw s o 1) ++ dwBytes (bankDw s o 2) ++ dwBytes (bankDw s o 3),
    aad := bank64 s o 4, aadlen := (bankDw s o 6).toNat, len := (bankDw s o 7).toNat, src := bank64 s o 8,
    dst := bank64 s o 10, tag := bank64 s o 12, fenced := false, failed := false, todo := [], slow := [], got := [],
    done := none, loose := false }

/-- Status and DONE in CTL. -/
def bankDone (s : State) (o : Owner) (code : Nat) : State :=
  setBankDw s o 0 ((bankDw s o 0 &&& 0x303F0000#32) ||| BitVec.ofNat 32 (2 ^ 30 + code))

/-! ### Checks (R324) -/

inductive RangeKind where
  | good | fenced | bad
  deriving DecidableEq, Repr

/-- A range in usable HBM or in the slow-tier map, outside the checksum sheet; a partition that does not serve it changes
nothing about where it lies. -/
def cipRange (s : State) (a n : Nat) : RangeKind :=
  let ks := (chunksIn a n).map (fun c => match accOf s c.1 with
    | .hbm _ => RangeKind.good
    | .slow off => if (slowWindow s off).isSome then .good else .bad
    | .fenced =>
      if c.1 < 0x10000000000 then (if sheetOffset ≤ c.1 % hbmWindow then .bad else .fenced)
      else if 8 * gilSize s * 2 ^ 30 ≤ c.1 - 0x10000000000 then .bad else .fenced
    | _ => .bad)
  if ks.contains .bad then .bad else if ks.contains .fenced then .fenced else .good

/-- Ranges a message reads and writes: AAD, input, output and tag. -/
def msgRanges (m : CipMsg) : List (Nat × Nat) := [(m.aad, m.aadlen), (m.src, m.len), (m.dst, m.len), (m.tag, 16)]

def ownerBit : Owner → Nat
  | .host => 0 | .mp => 1 | .movers => 2 | .far => 3

/-- The check at GO (R324). -/
def msgCheck (s : State) (m : CipMsg) : Status :=
  let allowed := match Tbl.get? s.cip.slots m.slot with
    | some k => k.use.testBit (b2n m.decrypt) && k.owners.testBit (ownerBit m.owner) && m.owner != .far
    | none => false
  let kinds := (msgRanges m).map (fun r => cipRange s r.1 r.2)
  if !allowed then .notPresent
  else if 65535 < m.aadlen ∨ kinds.contains .bad ∨ (m.src ≠ m.dst ∧ m.src < m.dst + m.len ∧ m.dst < m.src + m.len) then .lengthRange
  else .ok

/-! ### Running a message (R323, R324) -/

/-- Slow-tier pieces of a range, as device address and length. -/
def slowPieces (s : State) (a n : Nat) : List (Nat × Nat) :=
  (chunksIn a n).flatMap (fun c => match accOf s c.1 with
    | .slow off => (slowLinesIn off c.2).map (fun l => (0x800000000000 + l.1, l.2))
    | _ => [])

/-- Ranges the message reads: AAD and input, and on decrypt the tag. -/
def msgReads (m : CipMsg) : List (Nat × Nat) :=
  [(m.aad, m.aadlen), (m.src, m.len)] ++ (if m.decrypt then [(m.tag, 16)] else [])

/-- The message runs: its slow-tier input is asked for. -/
def msgStart (s : State) (m : CipMsg) : State :=
  let todo := (msgReads m).flatMap (fun r => (slowPieces s r.1 r.2).map (fun l => (l.1, l.2, ([] : List Byte))))
  cipPump (updCip s (fun c => { c with running := some { m with todo := todo } }))

/-- A completion for the engine: the running message's, or a suspended one's. -/
def msgTake (r : D2h) (ok : Bool) (data : List Byte) (m : CipMsg) : CipMsg :=
  if m.slow.contains r.id then
    { m with slow := m.slow.filter (· != r.id), failed := m.failed || !ok,
             got := if r.write then m.got else Tbl.set m.got r.addr (data.take r.len) }
  else m

def cipSlowDone (s : State) (r : D2h) (ok : Bool) (data : List Byte) : State :=
  let s := if ok then s else cipSlowFail s r.addr
  cipPump (updCip s (fun c => { c with running := c.running.map (msgTake r ok data),
                                       save0 := c.save0.map (msgTake r ok data), save1 := c.save1.map (msgTake r ok data) }))

/-- Input bytes of a range: from HBM, or as the slow tier returned them. -/
def cipBytes (s : State) (m : CipMsg) (a n : Nat) : List Byte :=
  (chunksIn a n).flatMap (fun c => match accOf s c.1 with
    | .hbm h => hbmRead s h c.2
    | .slow off => (slowLinesIn off c.2).flatMap (fun l =>
        let bs := Tbl.get [] m.got (0x800000000000 + l.1)
        (bs ++ List.replicate (l.2 - bs.length) 0#8).take l.2)
    | _ => List.replicate c.2 0#8)

/-- HBM tiles of a range, those of a fenced partition among them. -/
def tilesThere (s : State) (a n : Nat) : List Nat :=
  (chunksIn a n).filterMap (fun c => match accOf s c.1 with
    | .hbm h => some (h / 4096 * 4096)
    | .fenced => some ((if c.1 < 0x10000000000 then c.1 else gilMap s (c.1 - 0x10000000000)) / 4096 * 4096)
    | _ => none)

/-- The class of the engine's accesses (R323). -/
def msgClass : Owner → Nat
  | .host => 6
  | _ => 0

/-- Entries of every tile of DST hold the complement of the CRC of the bytes there (R324). -/
def spoilTiles (s : State) (m : CipMsg) : State :=
  (tilesThere s m.dst m.len).foldl (fun s t =>
    meterHbm (sheetSet s t (tileCrc s t ^^^ 0xFFFFFFFF)) none (msgClass m.owner) true (entryAddr t) 4) s

/-- Entries of whole tiles of DST (R324). -/
def cipSeal (s : State) (cls a n : Nat) : State :=
  (chunksIn a n).foldl (fun s c => match accOf s c.1 with
    | .hbm h => if c.2 = 4096 then tileSeal s cls h else s
    | _ => s) s

/-- Output to HBM at once, and the lines that go to the slow tier. -/
def msgPut (s : State) (cls a : Nat) (bs : List Byte) : State × List (Nat × Nat × List Byte) :=
  let hb := (chunksIn a bs.length).foldl (fun (acc : State × List Byte) c =>
    (match accOf acc.1 c.1 with
     | .hbm h => hbmWrite acc.1 cls h (acc.2.take c.2)
     | _ => acc.1, acc.2.drop c.2)) (s, bs)
  (hb.1, (slowPieces s a bs.length).map (fun l => (l.1, l.2, bytesAt bs (l.1 - a) l.2)))

/-- The movers' bank runs or has suspended a message. -/
def moversActive (s : State) : Bool :=
  let mine (m : Option CipMsg) : Bool := (m.map (·.owner)) == some .movers
  mine s.cip.running || mine s.cip.save0 || mine s.cip.save1

/-- Movers ask for the lock again while a job of theirs waits (R322). -/
def moversNext (s : State) : State := if s.jante.pend.any (pendOp 0x0708) then lockRequest s .movers else s

/-- The message ends with a status: in its owner's bank, and for a mover's job to its command, whose lock goes back. -/
def msgEnd (s : State) (m : CipMsg) (st : Status) : State :=
  let s := bankDone (updCip s (fun c => { c with running := none })) m.owner (statusCode st)
  match m.owner with
  | .movers =>
    let resp := if st = .lengthRange ∨ st = .notPresent then faultPayload (atPayload 0) else []
    moversNext (lockRelease (finishPend s (pendOp 0x0708) st resp) .movers)
  | _ => s

/-- A message that fails leaves no tile of DST that verifies (R324, R326). -/
def msgFail (s : State) (m : CipMsg) (st : Status) : State := msgEnd (spoilTiles s m) m st

/-- The first poisoned word of the message's input in HBM. -/
def msgPoison (s : State) (m : CipMsg) : Option Nat := (msgReads m).findSome? (fun r => devPoisoned s r.1 r.2)

/-- The engine runs the message over its input, and writes output and tag. -/
def msgRun (s : State) (m : CipMsg) : State :=
  let key := ((Tbl.get? s.cip.slots m.slot).map (·.key)).getD []
  let aad := cipBytes s m m.aad m.aadlen
  let text := cipBytes s m m.src m.len
  let ks := aesKeys key
  let out := gcmText ks m.iv text
  let tag := gcmTag ks m.iv aad (if m.decrypt then text else out)
  let good := !m.decrypt || cipBytes s m m.tag 16 == tag
  let (s, w1) := msgPut s (msgClass m.owner) m.dst out
  let (s, w2) := if m.decrypt then (s, []) else msgPut s (msgClass m.owner) m.tag tag
  let s := if good then cipSeal s (msgClass m.owner) m.dst m.len else spoilTiles s m
  let st : Status := if good then .ok else .authFail
  if (w1 ++ w2).isEmpty then msgEnd s m st
  else cipPump (updCip s (fun c => { c with running := some { m with todo := w1 ++ w2, done := some (statusCode st) } }))

/-- The running message ends: at once, or once the slow tier has answered; it waits for lines a host holds (R376). -/
def messageDone (s : State) : State :=
  match s.cip.running with
  | none => s
  | some m =>
    if !m.todo.isEmpty ∨ !m.slow.isEmpty then s
    else if m.failed then msgFail s m .internal
    else if m.fenced ∨ (msgRanges m).any (fun r => cipRange s r.1 r.2 == .fenced) then msgFail s m .fenced
    else
      match m.done with
      | some code => msgEnd s m (if code = statusCode .ok then .ok else .authFail)
      | none =>
        let rd := (msgReads m).flatMap (fun r => trackedDev s r.1 r.2 false)
        let wr := trackedDev s m.dst m.len true ++ (if m.decrypt then [] else trackedDev s m.tag 16 true)
        if !rd.isEmpty || !wr.isEmpty then sendSnoops (sendSnoops s rd false) wr true
        else
          let cls := msgClass m.owner
          let s := apart s cls (fun s => (msgReads m).foldl (fun s r => meterRead s none cls r.1 r.2) s)
          match msgPoison s m with
          | some a => msgFail (memError s (hbmPart a) errUe a false) m .internal
          | none => apart s cls (fun s => msgRun s m)

def execCipMessageDone (s : State) : Host.Outcome State Fault Refusal :=
  .next (if clocksRun s.dev then loosely (s.cip.running.any (·.loose)) s messageDone else s)

/-- A write of CTL: DONE and the status are read-only (R9, R323). -/
def ctlWrite (s : State) (o : Owner) (v : W32) : State :=
  setBankDw s o 0 ((v &&& 0x303F0000#32) ||| (bankDw s o 0 &&& 0x400000FF#32))

/-- GO of an owner's bank: without the lock nothing runs; else DONE and the status clear (notes/assumptions/32.md), and
the message is checked and started (R323). -/
def cipGo (s : State) (o : Owner) (v : W32) : State :=
  let s := ctlWrite s o v
  if !bitAt v 31 then s
  else if s.cip.owner ≠ some o then setCipErr s 0
  else if s.cip.running.isSome then s
  else
    let s := setBankDw s o 0 (v &&& 0x303F0000#32)
    let m := bankMsg s o
    let st := if 1 < bits v 29 28 then .notPresent else msgCheck s m
    if st = .ok then msgStart s m else msgEnd s m st

def execCipGo (o : Owner) (v : W32) (s : State) : Host.Outcome State Fault Refusal :=
  .next (if regsUp s && (o != .host || !s.perst) then cipGo s o v else s)

/-! ### Keys (R318-R321, R329) -/

/-- HKDF's salt of 32 zero bytes. -/
def zeroSalt : List Byte := List.replicate 32 0#8

def asciiBytes (cs : List Nat) : List Byte := cs.map (BitVec.ofNat 8)

/-- Private keys derived from the PUF response (R433): HKDF's output as a number in the group's range. -/
def pufScalar (info : List Byte) : Nat := natOfBe (hkdf32 zeroSalt Config.pufResponse info) % (pN - 1) + 1
def idScalar : Nat := pufScalar (asciiBytes [0x47, 0x39, 0x2D, 0x49, 0x44])
def kaScalar : Nat := pufScalar (asciiBytes [0x47, 0x39, 0x2D, 0x4B, 0x41])

/-- The key-encryption key of binding `b` (R318). -/
def kekOf (b : Nat) (pub : List Byte) : List Byte :=
  hkdf32 zeroSalt (ecdh kaScalar pub) (asciiBytes [0x47, 0x39, 0x2D, 0x4B, 0x45, 0x4B, b])

/-- A key blob's plaintext as slot contents; nothing where a check of its fields fails (R319, R320). -/
def unwrapBlob (kek : List Byte) (bind : Nat) (blob : List Byte) : Option KeySlot :=
  match kwUnwrap kek (bytesAt blob 8 56) with
  | none => none
  | some p =>
    if natAt p 32 1 < 8 ∧ natAt p 33 1 < 8 ∧ natAt p 34 2 = 0 ∧ natAt p 40 8 = 0 then
      some ⟨p.take 32, natAt p 32 1, natAt p 33 1, natAt p 36 4, bind⟩
    else none

/-- A slot named by a message that runs, is suspended or waits, or by an install under way (R320). -/
def slotInUse (s : State) (k : Nat) : Bool :=
  let uses (m : Option CipMsg) : Bool := match m with
    | some m => m.slot == k
    | none => false
  uses s.cip.running || uses s.cip.save0 || uses s.cip.save1 ||
    s.jante.pend.any (fun p => (p.req.opcode == 0x0705 && p.note == k) ||
      (p.req.opcode == 0x0708 && natAt p.req.payload 2 1 % 64 == k))

/-- Keys a warm reset, STANDBY or a loss of core power erases; bindings stay (R318, R321). -/
def cipErase (s : State) : State := { s with cip := { cipReset with binds := s.cip.binds } }

/-- KEKs of every binding, at a start (R318). -/
def deriveKeks (s : State) : State :=
  updCip s (fun c => { c with keks := c.binds.map (fun b => (b.1, kekOf b.1 b.2)) })

/-! ### Revocation (R326, R417, R418) -/

/-- An owner loses the lock: its messages, running or saved, end with INTERNAL. -/
def revokeOwner (s : State) (o : Owner) : State :=
  let hit (m : Option CipMsg) : Option CipMsg := m.filter (fun m => m.owner == o)
  let s := match hit s.cip.save0 with
    | some m => bankDone (spoilTiles (updCip s (fun c => { c with save0 := none })) m) o (statusCode .internal)
    | none => s
  let s := match hit s.cip.save1 with
    | some m => bankDone (spoilTiles (updCip s (fun c => { c with save1 := none })) m) o (statusCode .internal)
    | none => s
  if s.cip.owner = some o then
    let s := match s.cip.running with
      | some m => bankDone (spoilTiles (updCip s (fun c => { c with running := none })) m) o (statusCode .internal)
      | none => s
    let s := if o = .movers then finishPend s (pendOp 0x0708) .internal [] else s
    let s := raiseVector (resumeSaved s) 20
    if o = .movers then moversNext s else s
  else updCip s (fun c => { c with wait := c.wait.filter (· != o) })

/-- A lock held idle too long is revoked (R326). -/
def idleRevoke (s : State) : State :=
  if s.cip.owner.isSome ∧ s.cip.running.isNone ∧ s.cip.save0.isNone ∧ s.cip.save1.isNone then
    setCipErr (updCip s (fun c => { c with owner := none })) 1
  else s

def execCipLockIdleRevoke (s : State) : Host.Outcome State Fault Refusal :=
  .next (if clocksRun s.dev then idleRevoke s else s)

/-! ### The host's requests and the lock limit (R322, R333) -/

def execReqHost (s : State) : Host.Outcome State Fault Refusal :=
  .next (if softUp s then lockRequest s .host else s)

def execRelHost (s : State) : Host.Outcome State Fault Refusal :=
  .next (if softUp s then lockRelease s .host else s)

/-- A limit outside 1 to 10,000 is ignored, with CFGERR (R333). -/
def locktoWrite (s : State) (v : W32) : State :=
  let t := bits v 13 0
  if t = 0 ∨ 10000 < t then setCipErr s 3 else updCip s (fun c => { c with lockto := t })

def execCipLocktoWrite (v : W32) (s : State) : Host.Outcome State Fault Refusal :=
  .next (if softUp s then locktoWrite s v else s)

/-- A running or suspended message that touches partition `p` meets its fence (R324). -/
def fenceCipher (s : State) (p : Nat) : State :=
  let mark (m : CipMsg) : CipMsg :=
    if (msgRanges m).any (fun r => (chunksIn r.1 r.2).any (fun c => match accOf s c.1 with
      | .hbm h => hbmPart h == p
      | .fenced => true
      | _ => false)) then { m with fenced := true } else m
  updCip s (fun c => { c with running := c.running.map mark, save0 := c.save0.map mark, save1 := c.save1.map mark })

end Sys2Proof.Machine
end

