-- ==== Sys2Proof/Machine/Attest.lean ====
section
/-!
DEFINITION. Attestation: the DOE instance, the SPDM subset and the test access port
(spec/17_cxl_host_interface.md R382, spec/21_boot_security.md R441, R442, spec/22_package_signals_clocks.md R449).
The layouts of SPDM 1.2 messages and of DOE objects are those of their standards (PRESUMED, notes/assumptions/40.md).
-/

namespace Sys2Proof.Machine

def updSec (s : State) (f : Sec → Sec) : State := { s with sec := f s.sec }

/-- A fresh signing scalar: a free value, never 0 (notes/assumptions/5.md). -/
def freshScalar (s : State) : Nat := Config.random s.freeCtr % (pN - 1) + 1

/-- A verified Jante runs (R439, R417). -/
def janteRuns (s : State) : Bool :=
  s.sec.shown && !s.rst.mpDown && (clocksRun s.dev || s.dev == .halted)

/-! ### The DOE instance (R382) -/

/-- A data object of a type: its header and whole double words. -/
def doeObject (type : Nat) (bs : List Byte) : List Byte :=
  let n := (bs.length + 3) / 4
  natBytes 2 1 ++ natBytes 1 type ++ natBytes 1 0 ++ natBytes 4 (2 + n) ++ bs ++ List.replicate (4 * n - bs.length) 0#8

/-- A response object is sent; an abort that waited for it takes effect. -/
def doeAnswer (s : State) (type : Nat) (bs : List Byte) : State :=
  updSec { s with out := .doe (doeObject type bs) :: s.out } (fun x => { x with
    doe := none, doeAbort := false, doeError := x.doeError && !x.doeAbort })

/-- DOE Discovery: the protocol of an index and the next index. -/
def discovery (bs : List Byte) : List Byte :=
  match natAt bs 0 1 with
  | 0 => natBytes 2 1 ++ natBytes 1 0 ++ natBytes 1 1
  | 1 => natBytes 2 1 ++ natBytes 1 1 ++ natBytes 1 0
  | _ => natBytes 2 0xFFFF ++ natBytes 1 0xFF ++ natBytes 1 0

/-! ### SPDM messages (R442) -/

def spdmHeader (version code p1 p2 : Nat) : List Byte := natBytes 1 version ++ natBytes 1 code ++ natBytes 1 p1 ++ natBytes 1 p2
def spdmError (code detail : Nat) : List Byte := spdmHeader 0x12 0x7F code detail

abbrev invalidRequest : Nat := 0x01
abbrev unexpectedRequest : Nat := 0x04
abbrev unsupportedRequest : Nat := 0x07
abbrev versionMismatch : Nat := 0x41

def spdmCode (bs : List Byte) : Nat := natAt bs 1 1

/-- The seven requests of the subset. -/
def spdmSupported (bs : List Byte) : Bool := [0x84, 0xE1, 0xE3, 0x81, 0x82, 0x83, 0xE0].contains (spdmCode bs)

/-- A held request outside the subset is answered with an error as soon as Jante runs. -/
def answerHeld (s : State) : State :=
  match s.sec.doe with
  | none => s
  | some bs =>
    if !janteRuns s ∨ (4 ≤ bs.length ∧ spdmSupported bs) then s
    else doeAnswer s 1 (if bs.length < 4 then spdmError invalidRequest 0 else spdmError unsupportedRequest (spdmCode bs))

/-- A data object arrives: one too large, an unknown type, Discovery, or SPDM, which waits for Jante. -/
def doeRequest (s : State) (type : Nat) (data : List Byte) : State :=
  if !s.cxl.up ∨ s.sec.doe.isSome then s
  else if 16384 < (doeObject type data).length then
    updSec { s with out := .doeError :: s.out } (fun x => { x with doeError := true })
  else if type = 0 then doeAnswer s 0 (discovery data)
  else if type ≠ 1 then s
  else answerHeld (updSec s (fun x => { x with doe := some data }))

def execDoeRequest (type : Nat) (data : List Byte) (s : State) : Host.Outcome State Fault Refusal :=
  .next (doeRequest s type data)

/-- An abort: at once where no response is due. -/
def doeAbort (s : State) : State :=
  if s.sec.doe.isSome then updSec s (fun x => { x with doeAbort := true })
  else updSec s (fun x => { x with doeError := false })

def execDoeAbort (s : State) : Host.Outcome State Fault Refusal := .next (doeAbort s)

/-- The held request where it is the one of `code` and Jante runs. -/
def heldSpdm (s : State) (code : Nat) : Option (List Byte) :=
  if janteRuns s then s.sec.doe.filter (fun bs => decide (4 ≤ bs.length) && spdmCode bs == code) else none

def spdmRank : SpdmSt → Nat
  | .start => 0 | .versioned => 1 | .capable => 2 | .negotiated => 3

/-- The error a request meets before its own checks: version, place in the connection and length. -/
def spdmRefusal (s : State) (bs : List Byte) (at_ : SpdmSt) (least : Nat) : Option (List Byte) :=
  if natAt bs 0 1 ≠ 0x12 then some (spdmError versionMismatch 0)
  else if s.sec.spdm ≠ at_ then some (spdmError unexpectedRequest 0)
  else if bs.length < least then some (spdmError invalidRequest 0)
  else none

/-- A new connection begins. -/
def getVersion (s : State) : State :=
  match heldSpdm s 0x84 with
  | none => s
  | some bs =>
    if natAt bs 0 1 ≠ 0x10 then doeAnswer s 1 (spdmError versionMismatch 0)
    else
      let r := spdmHeader 0x10 0x04 0 0 ++ natBytes 1 0 ++ natBytes 1 1 ++ natBytes 2 0x1200
      doeAnswer (updSec s (fun x => { x with spdm := .versioned, vca := bs.take 4 ++ r, certLog := [], measLog := [] })) 1 r

def execGetVersion (s : State) : Host.Outcome State Fault Refusal := .next (getVersion s)

/-- The largest message that fits a data object. -/
def spdmMax : Nat := 16376

/-- CERT_CAP, CHAL_CAP and MEAS_CAP with signature. -/
def getCapabilities (s : State) : State :=
  match heldSpdm s 0xE1 with
  | none => s
  | some bs =>
    match spdmRefusal s bs .versioned 20 with
    | some e => doeAnswer s 1 e
    | none =>
      if natAt bs 12 4 < 42 then doeAnswer s 1 (spdmError invalidRequest 0)
      else
        let r := spdmHeader 0x12 0x61 0 0 ++ natBytes 1 0 ++ natBytes 1 Config.ctExponent ++ natBytes 2 0 ++
          natBytes 4 0x16 ++ natBytes 4 spdmMax ++ natBytes 4 spdmMax
        doeAnswer (updSec s (fun x => { x with spdm := .capable, vca := x.vca ++ bs.take 20 ++ r })) 1 r

def execGetCapabilities (s : State) : Host.Outcome State Fault Refusal := .next (getCapabilities s)

/-- P-256, SHA-256 and the DMTF measurement specification. -/
def negotiateAlgorithms (s : State) : State :=
  match heldSpdm s 0xE3 with
  | none => s
  | some bs =>
    match spdmRefusal s bs .capable 32 with
    | some e => doeAnswer s 1 e
    | none =>
      let len := natAt bs 4 2
      if len < 32 ∨ bs.length < len ∨ natAt bs 8 4 / 16 % 2 = 0 ∨ natAt bs 12 4 % 2 = 0 then doeAnswer s 1 (spdmError invalidRequest 0)
      else
        let dmtf := natAt bs 6 1 % 2
        let r := spdmHeader 0x12 0x63 0 0 ++ natBytes 2 36 ++ natBytes 1 dmtf ++ natBytes 1 0 ++ natBytes 4 (2 * dmtf) ++
          natBytes 4 0x10 ++ natBytes 4 0x01 ++ List.replicate 12 0#8 ++ natBytes 4 0
        doeAnswer (updSec s (fun x => { x with spdm := .negotiated, vca := x.vca ++ bs.take len ++ r })) 1 r

def execNegotiateAlgorithms (s : State) : Host.Outcome State Fault Refusal := .next (negotiateAlgorithms s)

/-- The answer to a request that names another certificate slot than 0: slots 1 to 7 are not supported (R442). -/
def slotError (bs : List Byte) (slot : Nat) : List Byte :=
  if slot < 8 then spdmError unsupportedRequest (spdmCode bs) else spdmError invalidRequest 0

def chainDigest : List Byte := sha256 certChain

/-- Messages of certificate retrieval are kept for the signature of CHALLENGE_AUTH. -/
def certAnswer (s : State) (req r : List Byte) : State :=
  doeAnswer (updSec s (fun x => { x with certLog := x.certLog ++ req ++ r, measLog := [] })) 1 r

def getDigests (s : State) : State :=
  match heldSpdm s 0x81 with
  | none => s
  | some bs =>
    match spdmRefusal s bs .negotiated 4 with
    | some e => doeAnswer s 1 e
    | none => certAnswer s (bs.take 4) (spdmHeader 0x12 0x01 0 1 ++ chainDigest)

def execGetDigests (s : State) : Host.Outcome State Fault Refusal := .next (getDigests s)

/-- A portion of the chain of slot 0, as much as the requester takes in one message. -/
def getCertificate (s : State) : State :=
  match heldSpdm s 0x82 with
  | none => s
  | some bs =>
    match spdmRefusal s bs .negotiated 8 with
    | some e => doeAnswer s 1 e
    | none =>
      let off := natAt bs 4 2
      let left := certChain.length - off
      let n := min (min (natAt bs 6 2) left) (min spdmMax (natAt s.sec.vca 24 4) - 8)
      if natAt bs 2 1 % 16 ≠ 0 then doeAnswer s 1 (slotError bs (natAt bs 2 1 % 16))
      else if left = 0 then doeAnswer s 1 (spdmError invalidRequest 0)
      else certAnswer s (bs.take 8) (spdmHeader 0x12 0x02 0 0 ++ natBytes 2 n ++ natBytes 2 (left - n) ++ bytesAt certChain off n)

def execGetCertificate (s : State) : Host.Outcome State Fault Refusal := .next (getCertificate s)

/-! ### Measurements and signatures (R441) -/

/-- DMTF type and form of each measurement; bit 7 marks a raw one. -/
def measType (i : Nat) : Nat := [0x00, 0x01, 0x83, 0x02, 0x02, 0x83].getD (i - 1) 0

/-- The block of measurement `i`. -/
def measBlock (s : State) (i : Nat) : List Byte :=
  let v := s.sec.meas.getD (i - 1) []
  natBytes 1 i ++ natBytes 1 1 ++ natBytes 2 (3 + v.length) ++ natBytes 1 (measType i) ++ natBytes 2 v.length ++ v

def measAll (s : State) : List Byte := [1, 2, 3, 4, 5, 6].flatMap (measBlock s)

/-- "dmtf-spdm-v1.2.*" four times and the context, 100 bytes. -/
def signPrefix (context : List Nat) : List Byte :=
  let p := asciiBytes [0x64, 0x6D, 0x74, 0x66, 0x2D, 0x73, 0x70, 0x64, 0x6D, 0x2D, 0x76, 0x31, 0x2E, 0x32, 0x2E, 0x2A]
  p ++ p ++ p ++ p ++ List.replicate (36 - context.length) 0#8 ++ asciiBytes context

/-- "responder-challenge_auth signing". -/
def challengeContext : List Nat :=
  [0x72, 0x65, 0x73, 0x70, 0x6F, 0x6E, 0x64, 0x65, 0x72, 0x2D, 0x63, 0x68, 0x61, 0x6C, 0x6C, 0x65, 0x6E, 0x67, 0x65, 0x5F,
   0x61, 0x75, 0x74, 0x68, 0x20, 0x73, 0x69, 0x67, 0x6E, 0x69, 0x6E, 0x67]

/-- "responder-measurements signing". -/
def measContext : List Nat :=
  [0x72, 0x65, 0x73, 0x70, 0x6F, 0x6E, 0x64, 0x65, 0x72, 0x2D, 0x6D, 0x65, 0x61, 0x73, 0x75, 0x72, 0x65, 0x6D, 0x65, 0x6E,
   0x74, 0x73, 0x20, 0x73, 0x69, 0x67, 0x6E, 0x69, 0x6E, 0x67]

/-- A signature with the identity key over a transcript. -/
def spdmSign (s : State) (context : List Nat) (log : List Byte) : List Byte :=
  ecdsaSign idScalar (freshScalar s) (signPrefix context ++ sha256 log)

/-- A 32-byte nonce: a free value. -/
def spdmNonce (n : Nat) : List Byte := natBytes 32 (Config.random n)

def challenge (s : State) : State :=
  match heldSpdm s 0x83 with
  | none => s
  | some bs =>
    match spdmRefusal s bs .negotiated 36 with
    | some e => doeAnswer s 1 e
    | none =>
      let kind := natAt bs 3 1
      if natAt bs 2 1 ≠ 0 then doeAnswer s 1 (slotError bs (natAt bs 2 1))
      else if kind ≠ 0 ∧ kind ≠ 1 ∧ kind ≠ 0xFF then doeAnswer s 1 (spdmError invalidRequest 0)
      else
        let r := spdmHeader 0x12 0x03 0 1 ++ chainDigest ++ spdmNonce (s.freeCtr + 1) ++
          (if kind = 0 then [] else sha256 (measAll s)) ++ natBytes 2 0
        let sig := spdmSign s challengeContext (s.sec.vca ++ s.sec.certLog ++ bs.take 36 ++ r)
        doeAnswer (updSec { s with freeCtr := s.freeCtr + 2 } (fun x => { x with certLog := [], measLog := [] })) 1 (r ++ sig)

def execChallenge (s : State) : Host.Outcome State Fault Refusal := .next (challenge s)

/-- The measurements an operation asks for: none for a count, all, or one; nothing for an index that names none. -/
def measRecord (s : State) (op : Nat) : Option (Nat × List Byte) :=
  if op = 0 then some (0, [])
  else if op = 0xFF then some (6, measAll s)
  else if op ≤ 6 then some (1, measBlock s op)
  else none

/-- Signed where the requester asks for it. -/
def getMeasurements (s : State) : State :=
  match heldSpdm s 0xE0 with
  | none => s
  | some bs =>
    let signed := natAt bs 2 1 % 2 == 1
    let n := if signed then 37 else 4
    match spdmRefusal s bs .negotiated n, measRecord s (natAt bs 3 1) with
    | some e, _ => doeAnswer s 1 e
    | none, none => doeAnswer s 1 (spdmError invalidRequest 0)
    | none, some (count, rc) =>
      if signed && natAt bs 36 1 % 16 != 0 then doeAnswer s 1 (slotError bs (natAt bs 36 1 % 16))
      else
        let r := spdmHeader 0x12 0x60 (if natAt bs 3 1 = 0 then 6 else 0) 0 ++ natBytes 1 count ++ natBytes 3 rc.length ++ rc ++
          spdmNonce (s.freeCtr + 1) ++ natBytes 2 0
        let log := s.sec.measLog ++ bs.take n ++ r
        if signed then
          doeAnswer (updSec { s with freeCtr := s.freeCtr + 2 } (fun x => { x with measLog := [] })) 1
            (r ++ spdmSign s measContext (s.sec.vca ++ log))
        else doeAnswer (updSec { s with freeCtr := s.freeCtr + 2 } (fun x => { x with measLog := log })) 1 r

def execGetMeasurements (s : State) : Host.Outcome State Fault Refusal := .next (getMeasurements s)

/-- The connection starts again with GET_VERSION (R442). -/
def spdmReset (s : State) : State :=
  updSec s (fun x => { x with spdm := .start, vca := [], certLog := [], measLog := [] })

/-! ### The test access port (R449) -/

/-- 1 SAMPLE/PRELOAD, 2 EXTEST, 3 CLAMP, 4 HIGHZ; anything else is BYPASS, 0 (notes/assumptions/1.md). `TRST_N` low holds
the port in Test-Logic-Reset, where BYPASS is in force and nothing is loaded. -/
def tapInstruction (s : State) (t : TapOp) : State :=
  match t with
  | .trst low => updSec s (fun x => { x with trstLow := low, tapIr := if low then 0 else x.tapIr })
  | .load ir =>
    if s.dev = .off ∨ s.sec.trstLow then s
    else updSec s (fun x => { x with tapIr := if ir = 1 ∨ (2 ≤ ir ∧ ir ≤ 4 ∧ s.devReset) then ir else 0 })

def execTapInstruction (ir : TapOp) (s : State) : Host.Outcome State Fault Refusal := .next (tapInstruction s ir)

/-- Whether the instruction in force puts the boundary register between `TDI` and `TDO`; the others put the bypass bit there. -/
def tapBoundary (s : State) : Bool := s.sec.tapIr == 1 || s.sec.tapIr == 2

/-- The first bit a scan of the data register shifts out on `TDO`: the bypass bit captures 0, a boundary cell what its part
gives; `none` while `TRST_N` holds the port, whose output then floats. -/
def tdo (s : State) : Option Bool :=
  if s.dev = .off ∨ s.sec.trstLow then none else some (if tapBoundary s then Config.boundaryCell 0 else false)

/-- An output under the instruction in force: EXTEST and CLAMP drive it from its boundary cell, HIGHZ floats it, and else it
is what the device drives (R448, R449). -/
def pinOut (s : State) (cell : Nat) (v : Option Bool) : Option Bool :=
  if s.sec.tapIr = 2 ∨ s.sec.tapIr = 3 then some (Config.boundaryCell cell) else if s.sec.tapIr = 4 then none else v

/-- At the release of `DEV_RESET_N` the port falls back to BYPASS. -/
def tapRelease (s : State) : State := updSec s (fun x => { x with tapIr := if x.tapIr = 1 then 1 else 0 })

end Sys2Proof.Machine
end

