-- ==== Sys2Proof/Machine/Elements.lean ====
section
/-!
DEFINITION. The element engine's commands: RUN, DRAIN and SYNC at issue, taking descriptors, row reads, output writes
and completion (spec/06_element_engine.md).
-/

namespace Sys2Proof.Machine

/-! ### Streams of an action (R104, R105, R117) -/

/-- Rows of bytes at a pitch. -/
structure Span where
  base : Int
  pitch : Nat
  size : Nat
  rows : Nat
  deriving DecidableEq, Repr

/-- A stream's bytes: its elements, and in the split layout its scales (R104). -/
abbrev Stream := List Span

/-- Blocks of a row, the last one completed (R33): scale bytes of a row in the split layout and their pitch
(notes/assumptions/62.md). -/
def rowBlocks (cols : Nat) : Nat := (cols + 31) / 32

/-- Bytes one row of an input takes (R118). -/
def inRowBytes (d : InDesc) (cols : Nat) : Nat :=
  if d.cstep then rowBytesOf d.fmt d.split cols
  else if fmtIsBlock d.fmt then (if d.split then fmtElemBytes d.fmt else fmtBlockBytes d.fmt)
  else (fmtBits d.fmt + 7) / 8

/-- Scale bytes one row of an input takes in the split layout. -/
def inScaleBytes (d : InDesc) (cols : Nat) : Nat := if d.split then (if d.cstep then rowBlocks cols else 1) else 0

def splitOut (i : FInstr) : Bool := match i.conv with
  | some c => c.split && !fopReduces i.op
  | none => false

/-- Scale bytes one row of an output takes in the split layout. -/
def outScaleBytes (i : FInstr) (cols : Nat) : Nat := if splitOut i then rowBlocks cols else 0

def inStream (d : InDesc) (base : Int) (rows cols : Nat) : Stream :=
  let n := if d.pitch = 0 then 1 else rows
  ⟨base, d.pitch, inRowBytes d cols, n⟩ ::
    (if d.split then [⟨base + (rows * d.pitch : Nat), rowBlocks cols, inScaleBytes d cols, n⟩] else [])

def outStream (d : OutDesc) (base : Int) (i : FInstr) (rows cols : Nat) : Stream :=
  ⟨base, d.pitch, outRowBytes i cols, rows⟩ ::
    (if splitOut i then [⟨base + (rows * d.pitch : Nat), rowBlocks cols, outScaleBytes i cols, rows⟩] else [])

/-- The bytes of a stream lie in the context's share. -/
def streamOk (s : State) (fill : Bool) (t : Stream) : Bool :=
  t.all (fun p => shareOk s fill p.base (p.base + ((p.rows - 1) * p.pitch + p.size : Nat)))

/-- Two intervals share a byte. -/
def meet (a : Int) (n : Nat) (b : Int) (m : Nat) : Bool := decide (a < b + m) && decide (b < a + n) && n != 0 && m != 0

/-- An interval meets some row of a span. -/
def meetsSpan (a : Int) (n : Nat) (t : Span) : Bool :=
  if t.pitch = 0 then meet a n t.base t.size
  else
    let j0 : Int := (a - t.base - t.size) / (t.pitch : Int)
    (List.range ((n + t.size) / t.pitch + 3)).any (fun k =>
      let j := j0 + k
      decide (0 ≤ j) && decide (j < t.rows) && meet a n (t.base + j * t.pitch) t.size)

/-- Two streams share a byte. -/
def streamsMeet (a b : Stream) : Bool :=
  a.any (fun x => b.any (fun y => (List.range x.rows).any (fun r => meetsSpan (x.base + (r * x.pitch : Nat)) x.size y)))

/-- Exactly the same bytes, with the same base, pitch and row size, scales included: the in-place write that R105
allows. -/
def streamsSame (a b : Stream) : Bool := a == b

/-- Base in bytes after the delta, for stream `k` in the order I0, I1, I2, O0, O1 (R116, R117). -/
def eleBase (e : EleEntry) (delta : Int) (k : Nat) : Int :=
  let units := if k < 3 then (inDesc e k).base else (outDesc e (k - 3)).base
  baseAfter units (e.dmask.testBit (4 - k)) delta

/-- Input streams of the scratchpad that the figure reads. -/
def inputsRead (e : EleEntry) (is : List FInstr) : List Nat :=
  [0, 1, 2].filter (fun n => figureReads is (8 + n) && !(n == 0 && e.op == .drain))

def inStreams (e : EleEntry) (is : List FInstr) (delta : Int) (rows cols : Nat) : List Stream :=
  (inputsRead e is).map (fun n => inStream (inDesc e n) (eleBase e delta n) rows cols)

def outStreams (e : EleEntry) (is : List FInstr) (delta : Int) (rows cols : Nat) : List Stream :=
  [0, 1].flatMap (fun o => (outWriters is o).map (fun i => outStream (outDesc e o) (eleBase e delta (3 + o)) i rows cols))

/-- The bits of `ELE_ERR` for RANGE and OVERLAP (R105, R117). -/
def eleErrBits (s : State) (e : EleEntry) (is : List FInstr) (fill : Bool) (delta : Int) (rows : Nat) : Nat :=
  let cols := eleCols e
  let ins := inStreams e is delta rows cols
  let outs := outStreams e is delta rows cols
  let range := !(ins ++ outs).all (streamOk s fill)
  let overlap := outs.any (fun o => ins.any (fun i => streamsMeet o i && !streamsSame o i)) ||
    (match outs with
     | [a, b] => streamsMeet a b
     | _ => false)
  b2n range + 4 * b2n overlap

/-- The row cycles of the region, of its first row, which reads every input (R118). -/
def rowCycles (e : EleEntry) (is : List FInstr) : Nat :=
  let cols := eleCols e
  let bi := ((inputsRead e is).map (fun n => inRowBytes (inDesc e n) cols + inScaleBytes (inDesc e n) cols)).sum
  let bo := ((is.filter (fun i => fopWrites i.op)).map (fun i => outRowBytes i cols + outScaleBytes i cols)).sum
  max ((cols * max is.length 8 + 2047) / 2048) (max ((bi + 2047) / 2048) ((bo + 1023) / 1024))

/-! ### Issue (R107, R117, R119, R121) -/

/-- An action that still has rows to read or descriptors to take. -/
def eleReading (a : EleAct) : Bool := !a.dead && (!a.taken || decide (a.row < a.rows))

/-- An action with writes that have not landed. -/
def eleWriting (a : EleAct) : Bool := a.writes != 0

/-- A RUN or DRAIN may enter: no earlier action still reads, and a fill action is behind no primary one. -/
def eleFree (x : Engine) (fill : Bool) : Bool :=
  x.eles.all (fun a => !eleReading a) && (!fill || x.eles.all (fun a => a.fill))

/-- A SYNC is accepted: every earlier action has completed its last write. -/
def eleQuiet (x : Engine) : Bool := x.eles.all (fun a => !eleReading a && !eleWriting a)

/-- A census record in progress for each marked instruction (R114). -/
def eleRecs (eng : Nat) (is : List FInstr) (fill : Bool) (index step : Nat) : Tbl CRec :=
  is.zipIdx.filterMap (fun p => match p.1.conv with
    | some c => if c.census then
        some (p.2, { unit := 1, tag := p.2 * 1024 + index % 1024, fmt := fmtCode c.dst, src := eng, fill := fill,
                     step := step, elems := 0, sat := 0, flush := 0, nan := 0, hist := histZero })
      else none
    | none => none)

/-- The entry and figure an action on the bus carries. -/
def busElement (b : BusAct) : Option (Option (EleEntry × List FInstr × List Val)) :=
  eleEntryOf b.entry (fun k => b.fig.getD (k - bits b.entry 251 240) 0)

def setEleErr (s : State) (eng bitsSet : Nat) : State :=
  let x := engineOf s eng
  setEngine s eng { x with eleErr := x.eleErr ||| BitVec.ofNat 32 bitsSet }

/-- An accepted action enters the engine; one of the fill stream whose core does not serve it waits outside (R121, R201). -/
def eleBegin (s : State) (eng : Nat) (b : BusAct) (e : EleEntry) (is : List FInstr) (ks : List Val) (rows : Nat) : State :=
  let x := engineOf s eng
  let act : EleAct :=
    { ent := e, instrs := is, consts := ks, fill := b.fill, tag := b.index, step := x.step.toNat,
      seed := x.seedHi ++ x.seedLo, rows := rows, row := 0,
      delta := b.delta, bases := (List.range 5).map (fun k => scratchBase eng + (eleBase e b.delta k).toNat), tiles := [],
      taken := e.op == .run, writes := 0, recs := eleRecs eng is b.fill b.index x.step.toNat, dead := false }
  if mustWait s (eng / 10) b.fill then setEngine s eng { x with eleSuspended := x.eleSuspended ++ [act] }
  else setEngine s eng { x with eles := x.eles ++ [act] }

/-- An element action of operation `op` at the head of the bus is accepted where R119 lets it in; a RUN is checked
for RANGE and OVERLAP, and a fill action for FILLROW (R117, R121). A drain keeps its delta in its bases. -/
def elementIssue (s : State) (eng : Nat) (op : EleOp) : State :=
  match busFirst s (.element eng) with
  | none => s
  | some b =>
    match busElement b with
    | some (some (e, is, ks)) =>
      if e.op ≠ op then s
      else
        let x := engineOf s eng
        if op = .sync then (if eleQuiet x then busTake s (.element eng) else s)
        else if !eleFree x b.fill then s
        else
          let s := busTake s (.element eng)
          let rows := if e.rowsrc then b.span else e.rows
          let fillrow := b.fill && decide (32 < rowCycles e is)
          let eb := (if op = .run then eleErrBits s e is b.fill b.delta rows else 0) + 8 * b2n fillrow
          if eb = 0 then eleBegin s eng b e is ks (if op = .run then rows else 0)
          else faultAtIssue (fillRange (setEleErr s eng eb) (b.fill && eb.testBit 0)) b.fill
    | _ => s

def execElementRun (e : Fin 80) (s : State) : Host.Outcome State Fault Refusal := .next (running s (elementIssue s e .run))
def execElementDrain (e : Fin 80) (s : State) : Host.Outcome State Fault Refusal := .next (running s (elementIssue s e .drain))
def execElementSync (e : Fin 80) (s : State) : Host.Outcome State Fault Refusal := .next (running s (elementIssue s e .sync))

/-! ### Taking descriptors (R106, R107) -/

/-- Rows of the region of a drain (R106). -/
def drainRows (d : Desc) : Nat := if d.quart then 2 * (d.rowsM1 + 1) else d.rowsM1 + 1

def descsDiffer (ds : List Desc) : Bool :=
  match ds with
  | [] => false
  | d :: rest => rest.any (fun c => c.rowsM1 != d.rowsM1 || c.quart != d.quart || c.half != d.half || c.res != d.res)

/-- A fill action comes only after the engine's primary actions (R121). -/
def behindPrimary (x : Engine) (a : EleAct) : Bool := a.fill && x.eles.any (fun t => !t.fill)

/-- The oldest untaken drain takes its descriptors: MATCH, RANGE and OVERLAP are checked together; a drain that fails
does nothing and its descriptors stay (R106, R117). One of the fill stream takes none before the primary actions have completed
(R121). -/
def takeDescriptors (s : State) (eng : Nat) : State :=
  let x := engineOf s eng
  match x.eles.zipIdx.find? (fun p => !p.1.taken && !p.1.dead) with
  | none => s
  | some (a, i) =>
    let ds := (x.queue.filter (fun d => d.fill == a.fill)).take a.ent.tiles
    if ds.length < a.ent.tiles || behindPrimary x a then s
    else
      let rows := match ds with | d :: _ => drainRows d | [] => 0
      let eb := eleErrBits s a.ent a.instrs a.fill a.delta rows + 2 * b2n (descsDiffer ds)
      if eb ≠ 0 then
        let s := setEngine s eng { x with eles := x.eles.eraseIdx i }
        faultInRun (fillRange (setEleErr s eng eb) (a.fill && eb.testBit 0)) a.fill
      else
        let x := ds.foldl (fun x d => setArr x d.array (setBank (arrOf x d.array) d.bank .draining)) x
        setEngine s eng { x with eles := x.eles.set i { a with tiles := ds, taken := true, rows := rows },
                                 queue := x.queue.filter (fun d => !ds.contains d),
                                 lastSeq := match ds.getLast? with | some d => d.seq | none => x.lastSeq }

def execDrainDescriptorsTaken (e : Fin 80) (s : State) : Host.Outcome State Fault Refusal :=
  .next (running s (takeDescriptors s e))

/-! ### Reading a row (R104, R110-R113) -/

/-- Bank row of a drain's region row (R106). -/
def drainBankRow (d : Desc) (r : Nat) : Nat :=
  if d.quart ∧ d.rowsM1 + 1 ≤ r then 256 + (r - (d.rowsM1 + 1)) else r

/-- The bytes a row of input `n` reads: its elements' start, length, and its scales' start and length. -/
def inRowSpan (a : EleAct) (n r : Nat) : Nat × Nat × Nat × Nat :=
  let d := inDesc a.ent n
  let cols := eleCols a.ent
  let r := if d.pitch = 0 then 0 else r
  let base := a.bases.getD n 0
  (base + r * d.pitch, inRowBytes d cols, base + a.rows * d.pitch + r * rowBlocks cols, inScaleBytes d cols)

/-- Element `c` of an input row from the row's bytes and scales (R104). -/
def inElem (d : InDesc) (row scales : List Byte) (c : Nat) : Val :=
  let c := if d.cstep then c else 0
  if fmtIsBlock d.fmt then
    let b := c / fmtBlock d.fmt
    let n := fmtElemBytes d.fmt
    if d.split then blockValue d.fmt ((row.drop (b * n)).take n) (byteOf scales b) 0 (c % fmtBlock d.fmt)
    else
      let blk := (row.drop (b * fmtBlockBytes d.fmt)).take (fmtBlockBytes d.fmt)
      blockValue d.fmt (blk.take n) (byteOf blk n) (byteOf blk 17) (c % fmtBlock d.fmt)
  else elemValue d.fmt (elemBits (fmtBits d.fmt) c row)

/-- Reserved T2 codes in a row an action reads, the padding of its last block included (R33, R36, R474). -/
def reservedT2 (d : InDesc) (row : List Byte) (cols : Nat) : Nat :=
  if d.fmt = .t2 then
    ((List.range (if d.cstep then (cols + 63) / 64 * 64 else 1)).filter (fun c =>
      elemBits 2 (c % 64) (row.drop (c / 64 * 17)) == 2)).length
  else 0

/-- What one store or reduction writes in a row: bytes by address, and the counts and bins of its elements. -/
structure RowOut where
  bytes : List (Nat × Byte)
  counts : List (Count × Nat)
  deriving DecidableEq, Repr

def addrBytes (a : Nat) : List Byte → List (Nat × Byte)
  | [] => []
  | b :: bs => (a, b) :: addrBytes (a + 1) bs

/-- The bins of a converted block (R88). -/
def blockBins (c : Conv) (wref : Nat) (o : BlockOut) (vs : List Val) : List Nat :=
  if o.scale = 255 then vs.map (fun _ => 31)
  else vs.map (fun v => histBin (histTop c.dst wref) (valScale v (127 - (o.scale : Int))))

/-- One block of a store at byte `at_` of its row (R43, R112). -/
def storeBlock (c : Conv) (seed : W64) (step : W32) (wref at_ scaleAt : Nat) (vs : List Val) : RowOut :=
  let w := fmtBits c.dst
  let o := blockEncode c (fun i => srBits seed step (8 * at_ + w * i)) vs
  let elems := packCodes w (o.codes.map (·.1))
  let tail : List Byte := if c.dst = .g4 then [BitVec.ofNat 8 o.scale, BitVec.ofNat 8 o.lift]
    else [BitVec.ofNat 8 o.scale]
  { bytes := if c.split then addrBytes at_ elems ++ [(scaleAt, BitVec.ofNat 8 o.scale)]
      else addrBytes at_ (elems ++ tail),
    counts := (o.codes.map (·.2)).zip (blockBins c wref o vs) }

/-- A row stored by one STORE instruction (R112). -/
def storeRow (c : Conv) (seed : W64) (step : W32) (wref at_ scaleAt : Nat) (vs : List Val) : RowOut :=
  if fmtIsBlock c.dst then
    let n := fmtBlock c.dst
    let size := if c.split then fmtElemBytes c.dst else fmtBlockBytes c.dst
    let outs := (chunksOf n valZero (vs.length / n + 1) vs).zipIdx.map (fun p =>
      storeBlock c seed step wref (at_ + p.2 * size) (scaleAt + p.2) p.1)
    ⟨outs.flatMap (·.bytes), outs.flatMap (·.counts)⟩
  else
    let w := fmtBits c.dst
    let es := vs.zipIdx.map (fun p => elemEncode c.dst c.rnd c.ieee (srBits seed step (8 * at_ + w * p.2)) p.1)
    ⟨addrBytes at_ (packCodes w (es.map (·.1))),
     (es.map (·.2)).zip (vs.map (fun v => histBin (histTop c.dst wref) v))⟩

/-- A record with the elements of a row added (R88). -/
def recAdd (r : CRec) (cs : List (Count × Nat)) (t2 : Nat) : CRec :=
  cs.foldl (fun r c =>
    { r with elems := r.elems + 1, sat := r.sat + (if c.1 = .saturated then 1 else 0),
             flush := r.flush + (if c.1 = .flushed then 1 else 0), nan := r.nan + (if c.1 = .nan then 1 else 0),
             hist := histAdd r.hist c.2 }) { r with nan := r.nan + t2 }

/-- Banks of a drain's tiles return to FREE (R78, R107). -/
def releaseTiles (x : Engine) (ds : List Desc) : Engine :=
  ds.foldl (fun x d =>
    let r := setBank (arrOf x d.array) d.bank .free
    setArr x d.array (if d.fill then { r with fillHeld := r.fillHeld &&& (3 ^^^ (1 <<< b2n d.bank)) } else r)) x

/-- Tiles a whole action produces on one array (R82). -/
def actTiles (a : ArrAct) : Nat := (a.rows * stepRows a.ent + tileHeight a.ent - 1) / tileHeight a.ent

/-- All tiles of a fill pass are drained (R85). -/
def allDrained (a : ArrAct) : Bool := (maskBits a.ent.amask).all (fun k => decide (actTiles a ≤ Tbl.get 0 a.drained k))

/-- The oldest fill pass with a tile of an array not yet drained counts one more. -/
def countDrained (k : Nat) : List ArrAct → List ArrAct × Bool
  | [] => ([], false)
  | a :: rest =>
    if a.fill && a.rows != 0 && a.ent.amask.testBit k && decide (Tbl.get 0 a.drained k < actTiles a) then
      ({ a with drained := Tbl.set a.drained k (Tbl.get 0 a.drained k + 1) } :: rest, true)
    else
      let r := countDrained k rest
      (a :: r.1, r.2)

/-- The fill stream's tiles are drained; an ended pass all of whose tiles are is done with (R85). -/
def fillDrained (x : Engine) (ds : List Desc) : Engine :=
  ds.foldl (fun x d =>
    let u := countDrained d.array x.undrained
    if u.2 then { x with undrained := u.1.filter (fun a => !allDrained a) }
    else { x with acts := (countDrained d.array x.acts).1 }) x

/-- The values operand A takes in one row, by store or reduction and column. -/
def rowValues (s : State) (x : Engine) (a : EleAct) : List (List Val) :=
  let cols := eleCols a.ent
  let streams : List (Nat × InDesc × List Byte × List Byte) := (inputsRead a.ent a.instrs).map (fun n =>
    let sp := inRowSpan a n a.row
    (8 + n, inDesc a.ent n, sramRead s sp.1 sp.2.1, sramRead s sp.2.2.1 sp.2.2.2))
  (List.range cols).map (fun c =>
    let ins := streams.map (fun t => (t.1, inElem t.2.1 t.2.2.1 t.2.2.2 c))
    let bank : List (Nat × Val) := match a.tiles[c / 32]? with
      | some d => [(8, f48Val (bankWord x (bankKey d.array d.bank (drainBankRow d a.row) (c % 32))))]
      | none => []
    let env : FEnv := ⟨bank ++ ins ++ [(0x0B, valOfInt a.row), (0x0C, valOfInt c)], a.consts⟩
    (evalFigure env a.instrs tempsZero []).2)

/-- The writing instructions of a figure with their numbers. -/
def writers (is : List FInstr) : List (FInstr × Nat) := is.zipIdx.filter (fun p => fopWrites p.1.op)

/-- What writer `k` of the figure, instruction `i`, writes in the row. -/
def writerRow (s : State) (eng : Nat) (a : EleAct) (vals : List (List Val)) (i : FInstr) (k : Nat) : RowOut :=
  let o := i.dst % 2
  let base := a.bases.getD (3 + o) 0
  let cols := eleCols a.ent
  let at_ := base + a.row * (outDesc a.ent o).pitch
  let scaleAt := base + a.rows * (outDesc a.ent o).pitch + a.row * rowBlocks cols
  let vs := vals.map (fun l => l.getD k valZero)
  match i.conv with
  | none => ⟨[], []⟩
  | some c =>
    storeRow c a.seed (BitVec.ofNat 32 a.step) (wrefOf s (eng / 10)) at_ scaleAt
      (if fopReduces i.op then [reduceRow i.op vs] else vs)

/-- The first poisoned word that a row's inputs hold. -/
def rowPoisoned (s : State) (a : EleAct) : Option Nat :=
  (inputsRead a.ent a.instrs).findSome? (fun n =>
    let sp := inRowSpan a n a.row
    (sramPoisoned s sp.1 sp.2.1).orElse (fun _ => sramPoisoned s sp.2.2.1 sp.2.2.2))

/-- A bank row of the drain is still on its way from the arrays (R81). -/
def rowUnwritten (x : Engine) (a : EleAct) : Bool :=
  a.tiles.any (fun d =>
    let k := bankKey d.array d.bank (drainBankRow d a.row) 0
    x.inflight.any (fun ws => ws.any (fun w => w.1 / 32 == k / 32)))

/-- One row is read, evaluated and its outputs sent; the banks of a drain are released with its last row. -/
def readRow (s : State) (eng i : Nat) (a : EleAct) : State :=
  let x := engineOf s eng
  let vals := rowValues s x a
  let outs := (writers a.instrs).zipIdx.map (fun p => (p.1.2, writerRow s eng a vals p.1.1 p.2))
  let t2 := ((inputsRead a.ent a.instrs).map (fun n =>
    let d := inDesc a.ent n
    let sp := inRowSpan a n a.row
    if d.pitch = 0 ∧ sp.2.1 ≤ 8192 ∧ a.row ≠ 0 then 0
    else reservedT2 d (sramRead s sp.1 sp.2.1) (eleCols a.ent))).sum
  let recs := a.recs.map (fun e =>
    (e.1, recAdd e.2 (match outs.find? (fun o => o.1 == e.1) with | some o => o.2.counts | none => []) t2))
  let bytes := outs.flatMap (fun o => o.2.bytes)
  let a' := { a with row := a.row + 1, recs := recs, writes := a.writes + (if bytes.isEmpty then 0 else 1) }
  let x := { x with eles := x.eles.set i a', outs := if bytes.isEmpty then x.outs else x.outs ++ [⟨bytes⟩] }
  let x := if a.row + 1 = a.rows then
      (let x := releaseTiles x a.tiles
       if a.fill then fillDrained x a.tiles else x)
    else x
  (inputsRead a.ent a.instrs).foldl (fun s n =>
    let sp := inRowSpan a n a.row
    sramCorrected (sramCorrected s sp.1 sp.2.1) sp.2.2.1 sp.2.2.2) (setEngine s eng x)

/-- The next row is read, of the oldest action with rows left: once it has its tiles and the arrays have written the row (R81),
and behind primary work for a fill action (R121). -/
def eleRowRead (s : State) (eng : Nat) : State :=
  let x := engineOf s eng
  match x.eles.zipIdx.find? (fun p => eleReading p.1) with
  | none => s
  | some (a, i) =>
    if !a.taken || rowUnwritten x a || behindPrimary x a then s
    else
      match rowPoisoned s a with
      | some p =>
        let x := releaseTiles { x with eles := x.eles.set i { a with dead := true } } a.tiles
        consumedSram (setEngine s eng x) (eng / 10) p a.fill
      | none => readRow s eng i a

def execElementRowRead (e : Fin 80) (s : State) : Host.Outcome State Fault Refusal := .next (running s (eleRowRead s e))

/-! ### Writes and completion (R120) -/

def sramPut (s : State) (ws : List (Nat × Byte)) : State :=
  ws.foldl (fun s w => sramWrite s w.1 [w.2]) s

/-- Poison of words that a set of written bytes covers whole is cleared (R128). -/
def clearCovered (s : State) (ws : List (Nat × Byte)) : State :=
  if s.sramPoison.isEmpty then s
  else { s with sramPoison := s.sramPoison.filter (fun w =>
    !((List.range 8).all (fun k => ws.any (fun e => e.1 == 8 * w + k)))) }

/-- One action fewer write outstanding: of the oldest action that has some. -/
def writeLanded : List EleAct → List EleAct
  | [] => []
  | a :: as_ => if a.writes = 0 then a :: writeLanded as_ else { a with writes := a.writes - 1 } :: as_

def eleOutputWrite (s : State) (eng : Nat) : State :=
  let x := engineOf s eng
  match x.outs with
  | [] => s
  | o :: rest =>
    clearCovered (sramPut (setEngine s eng { x with outs := rest, eles := writeLanded x.eles }) o.bytes) o.bytes

def execElementOutputWrite (e : Fin 80) (s : State) : Host.Outcome State Fault Refusal := .next (running s (eleOutputWrite s e))

/-- The oldest action whose reads and writes are over completes, its records written in instruction order (R91). -/
def eleComplete (s : State) (eng : Nat) : State :=
  let x := engineOf s eng
  match x.eles with
  | a :: rest =>
    if eleReading a || eleWriting a then s
    else
      let s := setEngine s eng { x with eles := rest }
      if a.dead then s else a.recs.foldl (fun s r => pushCensus s (eng / 10) r.2) s
  | [] => s

def execElementActionComplete (e : Fin 80) (s : State) : Host.Outcome State Fault Refusal := .next (running s (eleComplete s e))

end Sys2Proof.Machine
end

