-- ==== Sys2Proof/Machine/Movers.lean ====
section
/-!
DEFINITION. The movers: COPY, ZERO and SEAL at issue, the start of an action and its completion
(spec/07_memory_system.md R148-R153, R473).
-/

namespace Sys2Proof.Machine

/-! ### The mover action entry (R151) -/

/-- An entry word as its action, `some none` for a NOP; nothing where the load refuses it. -/
def movEntryOf (w : BitVec 256) : Option (Option MovEntry) :=
  let mk (op : MovOp) : MovEntry :=
    { op := op, token := bits w 251 246, post := bitAt w 245, dmask := bits w 244 243, verify := bitAt w 242,
      produce := bitAt w 241, srcSram := bitAt w 240, src := bits w 239 192, dstSram := bitAt w 191,
      dst := bits w 190 143, len := bits w 142 127 + 1, rows := bits w 126 111 + 1, planes := bits w 110 108 + 1,
      spitch := bits w 107 84, dpitch := bits w 83 60, splane := bits w 59 36, dplane := bits w 35 12 }
  let noSrc := bits w 240 192 = 0 ∧ !bitAt w 242
  if bits w 255 252 = 0 then (if w = 0#256 then some none else none)
  else if bits w 11 0 ≠ 0 then none
  else match bits w 255 252 with
    | 1 => some (some (mk .copy))
    | 2 => if noSrc then some (some (mk .zero)) else none
    | 3 => if noSrc then some (some (mk .seal)) else none
    | _ => none

/-! ### Rows of an action -/

/-- Source and destination of every row, ascending plane then row (R151). -/
def movRows (e : MovEntry) : List (Nat × Nat) :=
  (List.range e.planes).flatMap (fun q => (List.range e.rows).map (fun r =>
    (e.src + q * e.splane * 64 + r * e.spitch, e.dst + q * e.dplane * 64 + r * e.dpitch)))

/-- One past the highest byte of any row. -/
def extentEnd (base len rows planes pitch plane : Nat) : Nat :=
  base + (planes - 1) * plane * 64 + (rows - 1) * pitch + len

def srcEnd (e : MovEntry) : Nat := extentEnd e.src e.len e.rows e.planes e.spitch e.splane
def dstEnd (e : MovEntry) : Nat := extentEnd e.dst e.len e.rows e.planes e.dpitch e.dplane

/-- A device range meets an unmapped address (R129, R370). -/
def devUnmapped (s : State) (lo hi : Nat) : Bool :=
  decide (0x1000000000000 < hi) || (decide (0x20000000000 < hi) && decide (lo < 0x800000000000)) ||
    (List.range 8).any (fun p => pstateOf s p == .absent && decide (lo < (p + 1) * hbmWindow) && decide (p * hbmWindow < hi))

/-- Bytes of a row lie on the checksum sheet (R130, R152). -/
def onSheet (a n : Nat) : Bool := decide (a < 0x10000000000) && decide (sheetOffset < a % hbmWindow + n)

/-- An address of HBM, its carve-out included. -/
def inHbmMap (a n : Nat) : Bool := decide (a + n ≤ 0x20000000000)

def insertIv (x : Nat × Nat) : List (Nat × Nat) → List (Nat × Nat)
  | [] => [x]
  | y :: ys => if x.1 ≤ y.1 then x :: y :: ys else y :: insertIv x ys

/-- Rising intervals with those that touch joined; `a`, `b` is the interval being built. -/
def joinIv (a b : Nat) : List (Nat × Nat) → List (Nat × Nat)
  | [] => [(a, b)]
  | y :: ys => if y.1 ≤ b then joinIv a (max b y.2) ys else (a, b) :: joinIv y.1 y.2 ys

/-- A set of intervals is a union of whole aligned 4 KiB tiles (R152). -/
def wholeTiles (ivs : List (Nat × Nat)) : Bool :=
  match ivs.foldr insertIv [] with
  | [] => true
  | (a, b) :: rest => (joinIv a b rest).all (fun i => i.1 % 4096 == 0 && i.2 % 4096 == 0)

/-- The fill context's limits on a mover range (R198): its share of a lent engine's scratchpad, or its window. -/
def fillRangeOk (s : State) (sram : Bool) (lo hi : Nat) : Bool :=
  if sram then
    let e := lo / 0x1000000
    decide (lo < 0x50000000) && s.fill.lent.testBit (e / 10) && decide (0xA00000 ≤ lo % 0x1000000) &&
      decide (hi ≤ e * 0x1000000 + 0xC00000)
  else decide (s.fill.base ≤ lo) && decide (hi ≤ s.fill.base + s.fill.size * 0x100000)

/-- A primary SRAM range keeps off the fill shares while they are the fill stream's (R197). -/
def primaryRangeOk (s : State) (lo hi : Nat) : Bool :=
  !s.fill.en || !(decide (lo < 0x50000000) && decide (0xA00000 < (hi - 1) % 0x1000000 + 1))

/-- An SRAM range leaves its slot, or the share of its context (R152, R197, R198). -/
def sramBad (s : State) (fill : Bool) (lo hi : Nat) : Bool :=
  !sramRangeOk s lo (hi - lo) || (if fill then !fillRangeOk s true lo hi else !primaryRangeOk s lo hi)

/-- The bits of `MEM_ERR` that the checks of the source set, RANGE, TILE and UNMAPPED (R152); `low` is how far below zero the
delta took it, which is outside every slot and every mapped address (notes/assumptions/69.md). -/
def movSrcBits (s : State) (e : MovEntry) (fill : Bool) (low : Nat) : Nat :=
  if e.op ≠ .copy then 0
  else
    let hi := srcEnd e
    b2n (e.srcSram && (low != 0 || sramBad s fill e.src hi)) +
      4 * b2n (e.verify && (e.srcSram || low != 0 || !inHbmMap e.src (hi - e.src))) +
      16 * b2n (!e.srcSram && (low != 0 || devUnmapped s e.src hi))

/-- The bits of `MEM_ERR` that the checks of the destination set, RANGE, TILE, SHEET and UNMAPPED (R152). -/
def movDstBits (s : State) (e : MovEntry) (fill : Bool) (low : Nat) : Nat :=
  let hi := dstEnd e
  let rows := movRows e
  b2n (e.dstSram && (low != 0 || sramBad s fill e.dst hi)) +
    4 * b2n ((e.op == .seal || e.produce) && (e.dstSram || low != 0 || !inHbmMap e.dst (hi - e.dst) ||
      !wholeTiles (rows.map (fun r => (r.2, r.2 + e.len))))) +
    8 * b2n (!e.dstSram && rows.any (fun r => decide (low ≤ r.2) && onSheet (r.2 - low) e.len)) +
    16 * b2n (!e.dstSram && (low != 0 || devUnmapped s e.dst hi))

/-- The bits of `MEM_ERR` that the issue checks set (R152), and whether a fill range left its limits (R198); `low` says how
far below zero the delta took SRC and DST. -/
def movErrBits (s : State) (e : MovEntry) (fill : Bool) (low : Nat × Nat) : Nat × Bool :=
  (movSrcBits s e fill low.1 ||| movDstBits s e fill low.2,
   fill && ((e.op == .copy && (low.1 != 0 || !fillRangeOk s e.srcSram e.src (srcEnd e))) ||
     low.2 != 0 || !fillRangeOk s e.dstSram e.dst (dstEnd e)))

/-- The slot's delta added to the addresses DMASK names, and how far below zero it takes SRC and DST: an address below zero
lies outside every slot and every map (R152; notes/assumptions/69.md). -/
def movDelta (e : MovEntry) (delta : Int) : MovEntry × Nat × Nat :=
  let s : Int := (e.src : Int) + (if e.dmask.testBit 1 then delta * 64 else 0)
  let d : Int := (e.dst : Int) + (if e.dmask.testBit 0 then delta * 64 else 0)
  ({ e with src := s.toNat, dst := d.toNat }, (-s).toNat, (-d).toNat)

/-- Entries of a mover's queue in use for a context: actions not suspended, and posts held (R150, R189, R201, R202). -/
def moverLoad (s : State) (c m : Nat) (fill : Bool) : Nat :=
  ((moverOf s c m).queue.filter (fun a => !a.suspended)).length + heldFor s (.mover c m) fill

def setErrBits (s : State) (p bitsSet addr : Nat) (inSram : Bool) : State :=
  (List.range 9).foldl (fun s b => if bitsSet.testBit b then memError s p b addr inSram else s) s

/-- A mover action of operation `op` at the head of the bus issues: its checks, then it enters the queue (R150, R152);
one of the fill stream whose core does not serve it waits suspended (R201). A post held since the action was accepted keeps
its entry beside it and holds its start back (R189). Of a failure `MEM_ERRADDR` takes the base of the range after the delta,
the source's where that fails (notes/assumptions/69.md). -/
def moverIssue (s : State) (c m : Nat) (op : MovOp) : State :=
  match busFirst s (.mover c m) with
  | none => s
  | some b =>
    match movEntryOf b.entry with
    | some (some e) =>
      if e.op ≠ op then s
      else if 4 ≤ ((moverOf s c m).queue.filter (fun a => !a.suspended)).length then s
      else
        let s := busTake s (.mover c m)
        let (e, neg) := movDelta e b.delta
        let (bad, out) := movErrBits s e b.fill neg
        if bad = 0 ∧ !out then
          let act : MovAct := ⟨e, b.fill, false, [], [], [], false, none, mustWait s c b.fill,
            (movRows e).map (fun r => (r.1, r.2, e.len)), false⟩
          setMover s c m { queue := (moverOf s c m).queue ++ [act] }
        else
          let srcBad := movSrcBits s e b.fill neg.1 ≠ 0
          let s := setErrBits s c bad (if srcBad then e.src else e.dst) (if srcBad then e.srcSram else e.dstSram)
          faultAtIssue (fillRange s (b.fill && out)) b.fill
    | _ => s

def execCopy (c : Fin 8) (m : Fin 11) (s : State) : Host.Outcome State Fault Refusal := .next (running s (moverIssue s c m .copy))
def execZero (c : Fin 8) (m : Fin 11) (s : State) : Host.Outcome State Fault Refusal := .next (running s (moverIssue s c m .zero))
def execSeal (c : Fin 8) (m : Fin 11) (s : State) : Host.Outcome State Fault Refusal := .next (running s (moverIssue s c m .seal))

/-! ### Starting an action -/

/-- The nearer of two faults in a row: offset, address recorded, bit. -/
def nearer (a b : Option (Nat × Nat × Nat)) : Option (Nat × Nat × Nat) :=
  match a, b with
  | some x, some y => if y.1 < x.1 then some y else some x
  | some x, none => some x
  | none, y => y

/-- The first fault that `n` bytes of a source row meet: offset in them, address recorded, bit (R128, R131, R148, R149). A
tile of the sheet is verified against its entry, which reads zero (R146). -/
def srcRowFault (s : State) (e : MovEntry) (a n : Nat) : Option (Nat × Nat × Nat) :=
  if e.srcSram then (sramPoisoned s a n).map (fun p => (p - a, p, errUe))
  else
    let cs := chunksIn a n
    let f1 := (devFault s a n).map (fun p => (p.1 - a, p.1, p.2))
    let f2 := cs.findSome? (fun c => match accOf s c.1 with
      | .hbm h => (hbmPoisoned s h c.2).map (fun p => (c.1 - a + (p - h), p, errUe))
      | .sheet h => (hbmPoisoned s h c.2).map (fun p => (c.1 - a + (p - h), p, errUe))
      | _ => none)
    let f3 := if e.verify then
        cs.findSome? (fun c => match accOf s c.1 with
          | .hbm h =>
            (match tilePoisoned s h with
             | some p => some (c.1 - a, p, errUe)
             | none => if tileOk s h then none else some (c.1 - a, c.1 / 4096 * 4096, errCheck))
          | .sheet h =>
            match tilePoisoned s h with
            | some p => some (c.1 - a, p, errUe)
            | none => if crc32c (sheetRead s (h / 4096 * 4096) 4096) = sheetGet s h then none
            else some (c.1 - a, c.1 / 4096 * 4096, errCheck)
          | _ => none)
      else none
    let f4 := cs.findSome? (fun c => match accOf s c.1 with
      | .slow off => if slowServed s off then none else some (c.1 - a, c.1, errSlow)
      | _ => none)
    nearer (nearer f1 f4) (nearer f3 f2)

/-- What a COPY reads: rows up to the first fault, the slow-tier lines to request, and the fault. -/
structure ReadOut where
  data : List (Nat × List Byte)
  slow : List (Nat × Nat × List Byte)
  fault : Option (Nat × Nat)
  deriving DecidableEq, Repr

def isSlow (a : Nat) : Bool := decide (0x800000000000 ≤ a)

def readRows (s : State) (e : MovEntry) : List (Nat × Nat × Nat) → ReadOut
  | [] => ⟨[], [], none⟩
  | (src, dst, len) :: rest =>
    let f := srcRowFault s e src len
    let n := match f with | some x => x.1 | none => len
    let here : List (Nat × List Byte) :=
      if !e.srcSram && isSlow src then [] else [(dst, if e.srcSram then sramRead s src n else devRead s src n)]
    let slow : List (Nat × Nat × List Byte) :=
      if !e.srcSram && isSlow src then
        (slowLinesIn (src - 0x800000000000) n).map (fun l => (l.1, dst + (l.1 + 0x800000000000 - src), List.replicate l.2 0#8))
      else []
    match f with
    | some x => ⟨here, slow, some (x.2.1, x.2.2)⟩
    | none =>
      let t := readRows s e rest
      ⟨here ++ t.data, slow ++ t.slow, t.fault⟩

/-- Regulator class of a mover's HBM traffic (R143). -/
def movClass (fill : Bool) : Nat := if fill then 7 else 0

/-- What a COPY reads of its rows, address and length: up to the first fault, the poisoned atom or the tile that fails
included (R128, R148, R152). -/
def rowsRead (s : State) (e : MovEntry) : List (Nat × Nat × Nat) → List (Nat × Nat)
  | [] => []
  | (src, _, len) :: rest =>
    match srcRowFault s e src len with
    | none => (src, len) :: rowsRead s e rest
    | some f => [(src, if !e.srcSram ∧ (f.2.2 = errUe ∨ f.2.2 = errCheck) then f.1 + 1 else f.1)]

/-- The reads of an action are metered, verification with them, and single-bit errors of SRAM counted (R128, R143, R148). -/
def movReadTraffic (s : State) (c m : Nat) (a : MovAct) : State :=
  let who := some (Poster.mover c m)
  let cls := movClass a.fill
  match a.ent.op with
  | .zero => s
  | .seal => a.left.foldl (fun s r => meterRead s who cls r.2.1 r.2.2) s
  | .copy =>
    let rows := rowsRead s a.ent a.left
    if a.ent.srcSram then rows.foldl (fun s r => sramCorrected s r.1 r.2) s
    else rows.foldl (fun s r => (if a.ent.verify then meterVerify else meterRead) s who cls r.1 r.2) s

/-- The place of a destination byte in the order rows are moved (R151). -/
def rowPlace (a : MovAct) (dst : Nat) : Nat :=
  (a.left.zipIdx.find? (fun p => decide (p.1.2.1 ≤ dst) && decide (dst < p.1.2.1 + p.1.2.2))).elim 0
    (fun p => p.2 * 65536 + (dst - p.1.2.1))

/-- A slow-tier access of a mover failed: nothing behind its line is moved (R149, R152, R379). -/
def movSlowFail (a : MovAct) (write : Bool) (addr dst : Nat) : MovAct :=
  { a with slowTodo := [], faultAt := some (a.faultAt.getD (addr, errSlow)),
           data := if write then a.data else a.data.filter (fun d => decide (rowPlace a d.1 < rowPlace a dst)) }

/-- D2H requests sent for a mover as long as there is room; a line that nothing serves now fails (R149, R379). -/
def pumpMover : Nat → State → Nat → Nat → Nat → State
  | 0, s, _, _, _ => s
  | fuel + 1, s, c, m, i =>
    match (moverOf s c m).queue[i]? with
    | none => s
    | some a =>
      match a.slowTodo with
      | [] => s
      | t :: rest =>
        if !d2hRoom s then s
        else if !slowServed s t.1 then
          setMover s c m ⟨(moverOf s c m).queue.set i (movSlowFail a a.wrote (0x800000000000 + t.1) t.2.1)⟩
        else
          let id := s.cxl.nextId
          let s := sendD2h s (.mover c m) t.1 t.2.1 t.2.2.length (if a.wrote then t.2.2 else [])
          let q := (moverOf s c m).queue.set i { a with slowTodo := rest, slow := a.slow ++ [id] }
          pumpMover fuel (setMover s c m ⟨q⟩) c m i

/-- The next action to start, where nothing runs: the oldest primary one, else the oldest of the fill stream (R150, R199,
R202). -/
def nextMov (q : List MovAct) : Option (MovAct × Nat) :=
  let ready := q.zipIdx.filter (fun p => !p.1.suspended)
  if ready.any (fun p => p.1.running) then none
  else (ready.find? (fun p => !p.1.fill)).orElse (fun _ => ready.head?)

/-- A mover begins an action: a COPY reads its source and verifies it where asked (R148, R150). -/
def movBegin (s : State) (c m i : Nat) (a : MovAct) : State :=
  let blocked := if a.ent.op = .copy ∧ !a.ent.srcSram then
      a.left.flatMap (fun r => trackedDev s r.1 r.2.2 false) else []
  if !blocked.isEmpty then sendSnoops s blocked false
  else
    let r : ReadOut := match a.ent.op with
      | .copy => readRows s a.ent a.left
      | .zero => ⟨a.left.map (fun r => (r.2.1, List.replicate r.2.2 0#8)), [], none⟩
      | .seal => ⟨[], [], none⟩
    let s := movReadTraffic s c m a
    let a := { a with running := true, data := r.data, slowTodo := r.slow, faultAt := r.fault }
    pumpMover (r.slow.length + 1) (setMover s c m ⟨(moverOf s c m).queue.set i a⟩) c m i

def moverStart (s : State) (c m : Nat) : State :=
  match nextMov (moverOf s c m).queue with
  | none => s
  | some (a, i) =>
    if heldFor s (.mover c m) a.fill ≠ 0 then s else loosely a.loose s (fun s => movBegin s c m i a)

def execMoverActionStart (c : Fin 8) (m : Fin 11) (s : State) : Host.Outcome State Fault Refusal := .next (clocked s (moverStart s c m))

/-! ### Completing an action -/

/-- Rows written up to the first fault of the destination. -/
def writeRows (s : State) (e : MovEntry) (cls : Nat) : List (Nat × List Byte) → State × Option (Nat × Nat)
  | [] => (s, none)
  | r :: rest =>
    if e.dstSram then writeRows (sramWrite s r.1 r.2) e cls rest
    else if isSlow r.1 then writeRows s e cls rest
    else
      match devFault s r.1 r.2.length with
      | some f => (devWrite s cls r.1 (r.2.take (f.1 - r.1)), some f)
      | none => writeRows (devWrite s cls r.1 r.2) e cls rest

/-- The HBM tiles at the destination of an action, each once. -/
def dstTiles (s : State) (e : MovEntry) : List Nat :=
  ((movRows e).flatMap (fun r => tilesOf s r.2 e.len)).eraseDups

/-- The 4 KiB tiles of device space at the destination of an action, in row order, each once. -/
def devTiles (e : MovEntry) : List Nat :=
  ((movRows e).flatMap (fun r => (chunksIn r.2 e.len).map (fun c => c.1 / 4096 * 4096))).eraseDups

/-- Entries of whole tiles written to match their data under class `cls`, up to the first fault (R147, R151, R152). -/
def sealTiles (s : State) (cls : Nat) : List Nat → State × Option (Nat × Nat)
  | [] => (s, none)
  | t :: rest =>
    match devFault s t 4096, accOf s t with
    | some f, _ => (s, some f)
    | none, .hbm h =>
      (match hbmPoisoned s h 4096 with
       | some p => (s, some (p, errUe))
       | none => sealTiles (tileSeal s cls h) cls rest)
    | none, _ => sealTiles s cls rest

/-- Slow-tier lines an action writes. -/
def slowWrites (a : MovAct) : List (Nat × Nat × List Byte) :=
  if a.ent.dstSram then []
  else a.data.flatMap (fun r =>
    if isSlow r.1 then
      (slowLinesIn (r.1 - 0x800000000000) r.2.length).map (fun l =>
        (l.1, 0, (r.2.drop (l.1 + 0x800000000000 - r.1)).take l.2))
    else [])

/-- The action leaves the queue after a fault: no token, the stream stops (R152). -/
def movFault (s : State) (c m i : Nat) (a : MovAct) (f : Nat × Nat) : State :=
  let s := dropTraffic (setMover s c m ⟨(moverOf s c m).queue.eraseIdx i⟩) (.mover c m)
  let s := if f.2 = errCheck then
      (let x := memOf s c
       setMem s c { x with chk := satInc 0xFFFF x.chk }) else s
  faultInRun (memError s c f.2 f.1 (f.2 == errUe && a.ent.srcSram)) a.fill

/-- The running action writes its destination and its entries, posts its token and frees its entry (R147, R150). -/
def movFinish (s : State) (c m i : Nat) (a : MovAct) : State :=
  let w := writeRows s a.ent (movClass a.fill) a.data
  match w.2.orElse (fun _ => a.faultAt) with
  | some f => movFault w.1 c m i a f
  | none =>
    let t := if a.ent.op = .seal ∨ a.ent.produce then sealTiles w.1 (movClass a.fill) (devTiles a.ent) else (w.1, none)
    match t.2 with
    | some f => movFault t.1 c m i a f
    | none =>
      let s := setMover t.1 c m ⟨(moverOf t.1 c m).queue.eraseIdx i⟩
      if a.ent.post then sendPost s (.mover c m) a.fill a.ent.token else s

/-- Writes to the slow tier are requested up to the first line that nothing serves, where the action stops (R149, R152). -/
def movSlowWrite (s : State) (c m i : Nat) (a : MovAct) (sw : List (Nat × Nat × List Byte)) : State :=
  let ok := sw.takeWhile (fun l => slowServed s l.1)
  let bad := (sw.find? (fun l => !slowServed s l.1)).map (fun l => (0x800000000000 + l.1, errSlow))
  match ok, bad with
  | [], some f => movFault s c m i a f
  | _, _ =>
    let a := { a with wrote := true, slowTodo := ok, faultAt := bad.orElse (fun _ => a.faultAt) }
    pumpMover (ok.length + 1) (setMover s c m ⟨(moverOf s c m).queue.set i a⟩) c m i

/-- A running action with all its data, and its reads granted, completes; writes to the slow tier are requested first and
waited for, and writes of a class that is never granted wait (R144, R145). -/
def movEnd (s : State) (c m i : Nat) (a : MovAct) : State :=
  let sw := slowWrites a
  if !a.wrote && !sw.isEmpty then movSlowWrite s c m i a sw
  else if !a.ent.dstSram && a.data.any (fun r => shutAt s (movClass a.fill) r.1 r.2.length) then s
  else
    let blocked := if a.ent.dstSram then []
      else a.data.flatMap (fun r => trackedDev s r.1 r.2.length true) ++
        (if a.ent.op = .seal then (movRows a.ent).flatMap (fun r => trackedDev s r.2 a.ent.len false) else [])
    if !blocked.isEmpty then sendSnoops s blocked true else apart s (movClass a.fill) (fun s => movFinish s c m i a)

def moverComplete (s : State) (c m : Nat) : State :=
  match (moverOf s c m).queue.zipIdx.find? (fun p => p.1.running && !p.1.suspended) with
  | none => s
  | some (a, i) =>
    if !a.slowTodo.isEmpty || !a.slow.isEmpty || trafficWaits s (.mover c m) then s
    else loosely a.loose s (fun s => movEnd s c m i a)

def execMoverActionComplete (c : Fin 8) (m : Fin 11) (s : State) : Host.Outcome State Fault Refusal :=
  .next (clocked s (moverComplete s c m))

/-- What a D2H completion does to the mover that waits for it; after one that failed nothing behind it is moved (R149, R152,
R379). -/
def moverSlowDone (s : State) (c m : Nat) (r : D2h) (ok : Bool) (data : List Byte) : State :=
  match (moverOf s c m).queue.zipIdx.find? (fun p => p.1.slow.contains r.id) with
  | none => s
  | some (a, i) =>
    let a := { a with slow := a.slow.filter (· != r.id) }
    let a := if ok then (if r.write then a else { a with data := a.data ++ [(r.dst, data.take r.len)] })
      else movSlowFail a r.write r.addr r.dst
    pumpMover (a.slowTodo.length + 1) (setMover s c m ⟨(moverOf s c m).queue.set i a⟩) c m i

end Sys2Proof.Machine
end

