-- ==== Sys2Proof/Machine/Measure.lean ====
section
/-!
DEFINITION. The measure, its checks and the actions it names, the busy-unit rule and the lends, as both streams use
them (spec/08_stream_measures.md, spec/09_caller_scoreboard_fill.md).
-/

namespace Sys2Proof.Machine

/-! ### The header (R156) and the sections (R162) -/

abbrev MeasW := BitVec 4096

def mCtrl (w : MeasW) : Bool := bitAt w 63
def mRep (w : MeasW) : Nat := bits w 62 61
def mElastic (w : MeasW) : Bool := bitAt w 60
def mBank (w : MeasW) : Bool := bitAt w 59
def mLend (w : MeasW) : Nat := bits w 58 51
def mPostEn (w : MeasW) : Bool := bitAt w 50
def mPostTok (w : MeasW) : Nat := bits w 49 44
def mThr1 (w : MeasW) : Nat := bits w 43 36
def mTok1 (w : MeasW) : Nat := bits w 35 30
def mThr0 (w : MeasW) : Nat := bits w 29 22
def mTok0 (w : MeasW) : Nat := bits w 21 16
def mSpan (w : MeasW) : Nat := bits w 15 0

/-- Core section `c`, 63 bytes, and the slots in it. -/
def mSection (w : MeasW) (c : Nat) : BitVec 504 := BitVec.ofNat 504 (w.toNat >>> (64 + 504 * c))
def mSlot (w : MeasW) (e : Nat) : W48 := BitVec.ofNat 48 (w.toNat >>> (64 + 504 * (e / 10) + 48 * (e % 10)))
def mCoreSlot (w : MeasW) (c : Nat) : BitVec 24 := BitVec.ofNat 24 (w.toNat >>> (64 + 504 * c + 480))
def slotArr (v : W48) : Nat := bits v 47 36
def slotEle (v : W48) : Nat := bits v 35 26
def slotMov (v : W48) : Nat := bits v 25 16
def slotDelta (v : W48) : Int := signedOf 16 (bits v 15 0)
def slotCmov (v : BitVec 24) : Nat := bits v 23 14
def slotCact (v : BitVec 24) : Nat := bits v 13 4

/-- The control body (R168). -/
def mOp (w : MeasW) : Nat := bits w 71 64
def mArg8 (w : MeasW) : Nat := bits w 79 72
def mArg32 (w : MeasW) : Nat := bits w 127 96

def maskCores (m : Nat) : List Nat := (List.range 8).filter (fun c => m.testBit c)

/-- Cores whose section is not zero. -/
def namedCores (w : MeasW) : List Nat := (List.range 8).filter (fun c => mSection w c != 0)

/-- A control body the table of R168 allows. -/
def controlOk (w : MeasW) : Bool :=
  bits w 95 80 == 0 && bits w 4095 128 == 0 &&
    match mOp w with
    | 0x00 | 0x01 | 0x08 => mArg8 w == 0 && mArg32 w == 0
    | 0x02 => mArg8 w == 0
    | 0x03 | 0x04 => decide (mArg8 w ≤ 3)
    | 0x05 | 0x06 => decide (mArg8 w ≤ 15) && mArg32 w == 0
    | 0x07 => decide (mArg8 w ≤ 1)
    | _ => false

/-- The conditions of R157, reserved bits of core slots among them (R164). -/
def measureOk (w : MeasW) : Bool :=
  !(mElastic w && decide (8 ≤ mSpan w)) && !(mThr0 w == 0 && mTok0 w != 0) && !(mThr1 w == 0 && mTok1 w != 0) &&
  !(!mPostEn w && mPostTok w != 0) && !(mCtrl w && (mRep w != 0 || mElastic w || mLend w != 0)) &&
  (if mCtrl w then controlOk w else (List.range 8).all (fun c => bits (mCoreSlot w c) 3 0 == 0))

/-- A slot of an absent engine, or of a core whose partition is ABSENT, is not zero (R164). -/
def measureAbsent (s : State) (w : MeasW) : Bool :=
  !mCtrl w && (namedCores w).any (fun c =>
    (pstateOf s c == .absent && mCoreSlot w c != 0) ||
      (List.range 10).any (fun m => mSlot w (10 * c + m) != 0 && !enginePresent s (10 * c + m)))

/-- The section of a lent core is not zero (R164). -/
def measureLend (w : MeasW) : Bool := !mCtrl w && (maskCores (mLend w)).any (fun c => mSection w c != 0)

/-! ### Tables (R170, R171) -/

def tablesOf (s : State) (bank : Bool) : Tables := if bank then s.tabB else s.tabA

def arrayWord (t : Tables) (e i : Nat) : BitVec 128 := Tbl.get 0 (Tbl.get [] t.array e) i
def elementWord (t : Tables) (e i : Nat) : BitVec 256 := Tbl.get 0 (Tbl.get [] t.element e) i
def figureWord (t : Tables) (e i : Nat) : W64 := Tbl.get 0 (Tbl.get [] t.figure e) i
def moverWord (t : Tables) (e i : Nat) : BitVec 256 := Tbl.get 0 (Tbl.get [] t.mover e) i
def coreMoverWord (t : Tables) (c i : Nat) : BitVec 256 := Tbl.get 0 (Tbl.get [] t.coreMover c) i
def coreWord (t : Tables) (c i : Nat) : BitVec 256 := Tbl.get 0 (Tbl.get [] t.core c) i

/-- First word of a figure and the word after its last, for an entry that has one (R108). -/
def figureSpan (w : BitVec 256) : Option (Nat × Nat) :=
  match eleEntryFields w with
  | some e => if e.op = .sync then none else some (e.figBase, e.figBase + e.figLen + 4)
  | none => none

/-- An element entry lies in the top part: by its number and its figure; one whose figure crosses the boundary counts
as lower (R171; notes/assumptions/13.md). -/
def elementParts (w : BitVec 256) (i : Nat) : Bool × Bool :=
  match figureSpan w with
  | some (lo, hi) =>
    if lo < 3584 ∧ 3584 < hi then (true, false)
    else (decide (i < 896) || decide (lo < 3584), decide (896 ≤ i) || decide (3584 ≤ lo))
  | none => (decide (i < 896), decide (896 ≤ i))

/-- A measure names an entry outside its stream's part of a table while the fill context is enabled (R171). -/
def measureFillIdx (s : State) (w : MeasW) (bank fill : Bool) : Bool :=
  let t := tablesOf s bank
  let bad (top i : Nat) : Bool := i != 0 && (if fill then decide (i < top) else decide (top ≤ i))
  s.fill.en && !mCtrl w && (namedCores w).any (fun c =>
    let v := mCoreSlot w c
    bad 896 (slotCmov v) || bad 896 (slotCact v) ||
      (List.range 10).any (fun m =>
        let v := mSlot w (10 * c + m)
        let p := elementParts (elementWord t (10 * c + m) (slotEle v)) (slotEle v)
        bad 3584 (slotArr v) || bad 896 (slotMov v) || (slotEle v != 0 && (if fill then p.1 else p.2))))

/-! ### The actions of a measure (R165) -/

/-- The actions of one engine's slot: array, element engine, paired mover. -/
def slotActs (t : Tables) (e : Nat) (v : W48) (bank fill : Bool) (span : Nat) : List BusAct :=
  let ew := elementWord t e (slotEle v)
  [⟨.array e, fill, (arrayWord t e (slotArr v)).setWidth 256, [], slotDelta v, span, bank, slotArr v⟩,
   ⟨.element e, fill, ew, figureWords ew (figureWord t e), slotDelta v, span, bank, slotEle v⟩,
   ⟨.mover (e / 10) (e % 10), fill, moverWord t e (slotMov v), [], slotDelta v, span, bank, slotMov v⟩]

/-- The actions of a core slot: the core mover and the core action. -/
def coreSlotActs (t : Tables) (c : Nat) (v : BitVec 24) (bank fill : Bool) (span : Nat) : List BusAct :=
  [⟨.mover c 10, fill, coreMoverWord t c (slotCmov v), [], 0, span, bank, slotCmov v⟩,
   ⟨.core c, fill, coreWord t c (slotCact v), [], 0, span, bank, slotCact v⟩]

/-- Partition of the unit of an action. -/
def actPart : BusUnit → Nat
  | .array e => e / 10
  | .element e => e / 10
  | .mover c _ => c
  | .core c => c

/-- The stored words that an action's entry is read from: kind as R173 has it, unit and index (R170). -/
def entryWords (a : BusAct) : List (Nat × Nat × Nat) :=
  match a.unit with
  | .array e => [(1, e, a.index)]
  | .element e => (2, e, a.index) :: (match figureSpan a.entry with
      | some (lo, hi) => (List.range (hi - lo)).map (fun k => (3, e, lo + k))
      | none => [])
  | .mover c m => if m < 10 then [(4, 10 * c + m, a.index)] else [(5, c, a.index)]
  | .core c => [(6, c, a.index)]

/-- The stored words of an action's entry are poisoned (R170). -/
def actPoisoned (s : State) (a : BusAct) : Bool := (entryWords a).any (fun w => (tablesOf s a.bank).poison.contains w)

/-- Single-bit errors in the entries that actions copy are corrected, and counted in their units' partitions (R128, R170). -/
def entriesCorrected (s : State) (as_ : List BusAct) : State :=
  as_.foldl (fun s a =>
    let k := ((entryWords a).filter (fun w => (tablesOf s a.bank).flips.contains w)).length
    let m := memOf s (actPart a.unit)
    if k = 0 then s else setMem s (actPart a.unit) { m with sramCe := min 0xFFFF (m.sramCe + k) }) s

/-- The actions a measure names, with their entries copied; an entry that is NOP names none, unless it reads poisoned
(R163, R170). -/
def measureActs (s : State) (w : MeasW) (bank fill : Bool) (span : Nat) : List BusAct :=
  let t := tablesOf s bank
  if mCtrl w then []
  else
    let all : List BusAct := (namedCores w).flatMap (fun c =>
      (List.range 10).flatMap (fun m => slotActs t (10 * c + m) (mSlot w (10 * c + m)) bank fill span) ++
        coreSlotActs t c (mCoreSlot w c) bank fill span)
    all.filter (fun a => a.index != 0 && (a.entry != 0 || actPoisoned s a))

/-! ### The busy-unit rule (R183, R191) -/

def setOf (s : State) (n : Nat) : SetSt := Tbl.get setReset s.sets n
def setSet (s : State) (n : Nat) (x : SetSt) : State := { s with sets := Tbl.set s.sets n x }
def cmpOf (s : State) (p : Nat) : Cmp := Tbl.get cmpReset s.cmp p
def setCmp (s : State) (p : Nat) (x : Cmp) : State := { s with cmp := Tbl.set s.cmp p x }
def expQueue (x : Cmp) (k : Nat) : List ExpAct := Tbl.get [] x.exp k

def arrayEntryOn (b : BusAct) : Option ArrEntry := (arrEntryOf (b.entry.setWidth 128)).join

/-- Array entries on the bus for an engine. -/
def busArrays (s : State) (e : Nat) : List (ArrEntry × Bool) :=
  s.bus.filterMap (fun b => if b.unit = .array e then (arrayEntryOn b).map (fun x => (x, b.fill)) else none)

/-- Row steps that the pacing of R56 gives a pass in `n` cycles. -/
def stepsIn (need budget : Nat) : Nat → Nat → Nat
  | 0, _ => 0
  | n + 1, credit =>
    if need ≤ credit + budget then 1 + stepsIn need budget n (min (credit + budget - need) need)
    else stepsIn need budget n (credit + budget)

/-- A running pass is certain to have issued its last row step when the actions arrive, 24 cycles on: what is left fits,
and none of it can wait for a bank or a swap (R66, R183). -/
def passEnds (x : Engine) (act : ArrAct) : Bool :=
  let left := act.rows - act.done
  let fits := if act.ent.op = .elem then 1 else stepsIn (stepBytes act.ent) (4096 - 320 * arraysLoading x) 24 act.credit
  !act.swap && decide (left ≤ fits) &&
    (List.range left).all (fun k => !opensTile { act with done := act.done + k } ||
      (maskBits act.ent.amask).all (fun a => bankReady (arrOf x a) act.fill))

/-- An array action is accepted: for a pass no named array runs one that is not certain to end, for a LOAD no back set is
loading and no running pass would swap; a fill action comes only behind primary work and never holds primary work back
(R183, R191, R199, R202). -/
def arrayAccepts (s : State) (e : Nat) (x : ArrEntry) (fill : Bool) : Bool :=
  let g := engineOf s e
  let named := maskBits x.amask
  let onBus := (busArrays s e).filter (fun b => fill || !b.2)
  let acts := g.acts.filter (fun t => fill || !t.fill)
  (if passes x then
     named.all (fun a => (acts.filter (fun t => t.ent.amask.testBit a && decide (t.done < t.rows))).all (passEnds g)) &&
       onBus.all (fun b => !passes b.1 || b.1.amask &&& x.amask == 0)
   else
     named.all (fun a => !(arrOf g a).back.loading) &&
     acts.all (fun t => !(t.swap && t.ent.amask &&& x.amask != 0)) &&
     onBus.all (fun b => b.1.amask &&& x.amask == 0 || (!loads b.1 && !b.1.swap))) &&
  (!fill || (g.acts.all (fun t => t.fill) && onBus.all (fun b => b.2)))

/-- An element action is certain to have made its last read when the actions arrive: what is left fits, and no bank row it
reads is still on its way (R81, R183). -/
def readsEnd (x : Engine) (a : EleAct) : Bool :=
  a.taken && decide ((a.rows - a.row) * rowCycles a.ent a.instrs ≤ 24) &&
    a.tiles.all (fun d => x.inflight.all (fun ws => ws.all (fun w =>
      w.1 / (32 * 512) != d.array * 2 + b2n d.bank)))

/-- A RUN or DRAIN is accepted once the action before it is certain to have made its last read, a SYNC once every write has
landed (R119, R183); a fill action only behind completed primary ones, which it never holds back (R121, R202). -/
def elementAccepts (s : State) (e : Nat) (w : BitVec 256) (fill : Bool) : Bool :=
  let g := engineOf s e
  s.bus.all (fun b => b.unit != .element e || (b.fill && !fill)) &&
    (if bits w 255 252 = 3 then eleQuiet g
     else g.eles.all (fun a => !eleReading a || (a.fill && !fill) || readsEnd g a) && (!fill || g.eles.all (fun a => a.fill)))

def busMovers (s : State) (c m : Nat) (fill : Bool) : Nat :=
  (s.bus.filter (fun b => b.unit == .mover c m && (fill || !b.fill))).length

def moverAccepts (s : State) (c m : Nat) (fill : Bool) : Bool :=
  decide (moverLoad s c m fill + busMovers s c m fill < 4) &&
    (!fill || ((moverOf s c m).queue.all (fun a => a.fill) && s.bus.all (fun b => b.unit != .mover c m || b.fill)))

/-- SET and EXPAND bodies on the bus. -/
def busSets (s : State) (n : Nat) : Nat :=
  (s.bus.filter (fun b => match b.unit with
    | .core c => (match coreEntryOf c b.entry with | some (some (.set d)) => d.set == n | _ => false)
    | _ => false)).length

def busExpands (s : State) (c k : Nat) : Nat :=
  (s.bus.filter (fun b => b.unit == .core c && (match coreEntryOf c b.entry with
    | some (some (.expand d)) => d.exp == k
    | _ => false))).length

/-- Table slots an EXPAND names (R287). -/
def expSlots (b : ExpBody) : List Nat := (List.range 2).filter (fun k => b.slots.testBit k)

/-- A core action is accepted where its queue has room, a held post keeping its entry, and no slot an EXPAND names is
loading (R189, R191, R287); a SPANLD while no post of one before it is held (R189). -/
def coreAccepts (s : State) (c : Nat) (w : BitVec 256) (fill : Bool) : Bool :=
  match coreEntryOf c w with
  | some (some (.set d)) => decide ((setOf s d.set).queue.length + heldFor s (.setQueue d.set) fill + busSets s d.set < 256)
  | some (some (.expand d)) =>
    decide ((expQueue (cmpOf s c) d.exp).length + heldFor s (.expander c d.exp) fill + busExpands s c d.exp < 4) &&
      (expSlots d).all (fun k => !s.cmpLoading.contains k)
  | some (some (.spanld _)) => heldFor s (.spanld c) fill == 0
  | _ => true

def actAccepted (s : State) (a : BusAct) : Bool :=
  if a.entry = 0 then true else match a.unit with
  | .array e => match arrayEntryOn a with
    | some x => arrayAccepts s e x a.fill
    | none => true
  | .element e => elementAccepts s e a.entry a.fill
  | .mover c m => moverAccepts s c m a.fill
  | .core c => coreAccepts s c a.entry a.fill

/-- Code of a unit in `CAL_STOP.UNIT` (R203). -/
def unitCode : BusUnit → Nat
  | .array e => e
  | .element e => e
  | .mover c m => if m < 10 then 10 * c + m else 0x80 + c
  | .core c => 0x80 + c

/-- The actions that would not be accepted: each is judged with the core actions of its measure before it, which take queue
places as well (R165, R183). -/
def refusedActs (s : State) : List BusAct → List BusAct
  | [] => []
  | a :: rest =>
    let rest_ := refusedActs (match a.unit with | .core _ => { s with bus := s.bus ++ [a] } | _ => s) rest
    if actAccepted s a then rest_ else a :: rest_

/-- The lowest code among actions that are not accepted. -/
def busyUnit (s : State) (as_ : List BusAct) : Option Nat :=
  (refusedActs s as_).foldl (fun u a => match u with
    | some n => some (min n (unitCode a.unit))
    | none => some (unitCode a.unit)) none

/-! ### Census-marked work of a round (R98) -/

/-- A marked action on the bus, of an engine whose `ELE_STEP` is `step`. -/
def markedOnBus (s : State) (step : Nat) (b : BusAct) : Bool :=
  !b.fill && (match b.unit with
    | .array e => (engineOf s e).step.toNat == step && (arrayEntryOn b).any (fun x => x.census)
    | .element e => (engineOf s e).step.toNat == step && (match busElement b with
      | some (some (_, is, _)) => is.any (fun i => i.conv.any (fun c => c.census))
      | _ => false)
    | _ => false)

/-- A marked operation of the primary stream or the Bindery of step `step` has not written or merged its record (R98). -/
def censusOpen (s : State) (step : Nat) : Bool :=
  s.engines.any (fun p =>
    p.2.acts.any (fun a => a.ent.census && !a.fill && a.step == step) ||
      p.2.eles.any (fun a => !a.fill && !a.dead && a.recs.any (fun r => r.2.step == step))) ||
  s.bus.any (markedOnBus s step) ||
  s.mem.any (fun m => m.2.census.waiting.any (fun r => !r.fill && r.step == step)) ||
  ((s.bnd.run.map (·.job)).toList ++ s.bnd.queue).any (fun j => j.ccw.testBit 4 && j.step.toNat == step)

/-! ### Waits (R158) -/

def tokCount (s : State) (fill : Bool) (t : Nat) : Nat := Tbl.get 0 (if fill then s.tok.fcounts else s.tok.counts) t

def setTok (s : State) (fill : Bool) (t n : Nat) : State :=
  { s with tok := if fill then { s.tok with fcounts := Tbl.set s.tok.fcounts t n }
                  else { s.tok with counts := Tbl.set s.tok.counts t n } }

/-- The waits that are unmet, as bits 0 and 1; two waits on one token wait for the sum. -/
def waitsUnmet (s : State) (fill : Bool) (w : MeasW) : Nat :=
  let t0 := mThr0 w
  let t1 := mThr1 w
  if t0 ≠ 0 ∧ t1 ≠ 0 ∧ mTok0 w = mTok1 w then (if tokCount s fill (mTok0 w) < t0 + t1 then 3 else 0)
  else b2n (decide (tokCount s fill (mTok0 w) < t0)) + 2 * b2n (decide (tokCount s fill (mTok1 w) < t1))

def takeTok (s : State) (fill : Bool) (t n : Nat) : State := setTok s fill t (tokCount s fill t - n)

/-- The waits of an issuing measure consumed. -/
def consumeWaits (s : State) (fill : Bool) (w : MeasW) : State :=
  takeTok (takeTok s fill (mTok0 w) (mThr0 w)) fill (mTok1 w) (mThr1 w)

/-- One post counted, or nothing where the count stands at 65,535. -/
def countTok (s : State) (fill : Bool) (t : Nat) : Option State :=
  if tokCount s fill t < 65535 then some (setTok s fill t (tokCount s fill t + 1)) else none

/-- A measure's own post, held by the caller where the count is full (R159). -/
def ownPost (s : State) (fill : Bool) (t : Nat) : State :=
  match countTok s fill t with
  | some s => s
  | none =>
    { s with tok := if fill then { s.tok with fown := Tbl.set s.tok.fown t (Tbl.get 0 s.tok.fown t + 1) }
                    else { s.tok with own := Tbl.set s.tok.own t (Tbl.get 0 s.tok.own t + 1) } }

/-! ### Lends (R85, R199-R201) -/

def bankMask (r : Arr) : Nat := b2n (r.bank0 == .free) + 2 * b2n (r.bank1 == .free)

/-- The fill actions that wait at an engine go on, and the banks FREE at this moment are those it may use. -/
def engineLent (x : Engine) : Engine :=
  let x := (List.range 8).foldl (fun x a => setArr x a { arrOf x a with lendFree := bankMask (arrOf x a) }) x
  { x with acts := x.acts ++ x.suspended, suspended := [], eles := x.eles ++ x.eleSuspended, eleSuspended := [] }

def engineList (c : Nat) : List Nat := (List.range 10).map (· + 10 * c)

/-- Core `c` is lent from this issue: a lend that goes on is untouched (R199, R200). -/
def lendCore (s : State) (c : Nat) : State :=
  if s.fill.lent.testBit c ∧ !s.fill.reclaiming.testBit c then s
  else
    let s := { s with fill := { s.fill with lent := s.fill.lent ||| (1 <<< c),
                                            reclaiming := s.fill.reclaiming &&& (255 ^^^ (1 <<< c)) } }
    let s := (engineList c).foldl (fun s e => advanceAll (setEngine s e (engineLent (engineOf s e))) e) s
    (List.range 11).foldl (fun s m =>
      setMover s c m ⟨(moverOf s c m).queue.map (fun a => { a with suspended := false })⟩) s

/-- A pass to be run again from its first row: its measurements begin afresh, its load's events stay, and tiles drained
already are not posted again (R85, R201, R474; notes/assumptions/14.md). It multiplies with the front set that stands when it
runs, whatever swaps came between (DESIGN CHOICE, notes/assumptions/69.md). -/
def passAgain (a : ArrAct) : ArrAct :=
  { a with done := 0, credit := 0, events := countsZero, elems := 0, hist := histZero }

/-- An ended pass to be run again has written its record (R474). -/
def recordedAgain (a : ArrAct) : ArrAct := passAgain { a with ent := { a.ent with census := false } }

/-- A drain to be run again with its passes, or a RUN that keeps its row (R121). -/
def eleAgain (a : EleAct) : EleAct :=
  if a.ent.op = .drain then
    { a with row := 0, rows := 0, tiles := [], taken := false,
             recs := a.recs.map (fun r => (r.1, { r.2 with elems := 0, sat := 0, flush := 0, nan := 0, hist := histZero })) }
  else a

/-- The fill stream's actions on an engine are suspended and the banks it holds are FREE (R85, R121, R201). -/
def engineReclaim (x : Engine) : Engine :=
  let fp := x.acts.filter (fun a => a.fill && a.rows != 0)
  let x := (List.range 8).foldl (fun x a =>
    let r := arrOf x a
    let r := if r.fillHeld.testBit 0 then setBank r false .free else r
    let r := if r.fillHeld.testBit 1 then setBank r true .free else r
    setArr x a { r with ftile := none, fillHeld := 0, lendFree := 0 }) x
  { x with acts := x.acts.filter (fun a => !(a.fill && a.rows != 0)), undrained := [],
           suspended := x.suspended ++ x.undrained.map recordedAgain ++ fp.map passAgain,
           queue := x.queue.filter (fun d => !d.fill),
           eles := x.eles.filter (fun a => !a.fill || !eleReading a),
           eleSuspended := x.eleSuspended ++ (x.eles.filter (fun a => a.fill && eleReading a)).map eleAgain }

/-- Rows cut at the 4 KiB boundaries of their destination. -/
def destPieces (rows : List (Nat × Nat × Nat)) : List (Nat × Nat × Nat) :=
  rows.flatMap (fun r => (chunksIn r.2.1 r.2.2).map (fun k => (r.1 + (k.1 - r.2.1), k.1, k.2)))

def dataPieces (data : List (Nat × List Byte)) : List (Nat × List Byte) :=
  data.flatMap (fun r => (chunksIn r.1 r.2.length).map (fun k => (k.1, (r.2.drop (k.1 - r.1)).take k.2)))

/-- The running fill action of a mover stops at a 4 KiB boundary of its destination: pieces written stay written, and the
rest is left for its resumption (R201). How many were written, of those it holds and may write, is a free value
(notes/assumptions/22.md). -/
def movStop (s : State) (c m i : Nat) (a : MovAct) : State :=
  let left := destPieces a.left
  let held := dataPieces a.data
  let n := ((left.zip held).takeWhile (fun p => p.1.2.2 == p.2.2.length)).length
  let waits := trafficWaits s (.mover c m) ||
    (!a.ent.dstSram && a.data.any (fun r => !(trackedDev s r.1 r.2.length true).isEmpty || shutAt s (movClass true) r.1 r.2.length))
  let k := if waits then 0 else Config.moverReached s.freeCtr % (n + 1)
  let w := writeRows (dropTraffic { s with freeCtr := s.freeCtr + 1 } (.mover c m)) a.ent (movClass true) (held.take k)
  match w.2 with
  | some f => movFault w.1 c m i a f
  | none => setMover w.1 c m ⟨(moverOf w.1 c m).queue.set i { a with
      running := false, data := [], slowTodo := [], slow := [], faultAt := none, left := left.drop k }⟩

/-- The fill actions at a mover wait outside its queue (R201). -/
def moverSuspend (s : State) (c m : Nat) : State :=
  let s := match (moverOf s c m).queue.zipIdx.find? (fun p => p.1.running && p.1.fill && !p.1.suspended) with
    | some (a, i) => loosely a.loose s (fun s => movStop s c m i a)
    | none => s
  setMover s c m ⟨(moverOf s c m).queue.map (fun a => if a.fill then { a with suspended := true } else a)⟩

/-- Element writes in flight land (R121). -/
def landAll (s : State) (e : Nat) : Nat → State
  | 0 => s
  | n + 1 => landAll (eleOutputWrite s e) e n

/-- The fill actions running on core `c` are suspended (R201). -/
def suspendCore (s : State) (c : Nat) : State :=
  let s := (engineList c).foldl (fun s e =>
    let s := landAll s e (engineOf s e).outs.length
    setEngine s e (engineReclaim (engineOf s e))) s
  (List.range 11).foldl (fun s m => moverSuspend s c m) s

end Sys2Proof.Machine
end

