-- ==== Sys2Proof/Machine/Caller.lean ====
section
/-!
DEFINITION. The caller: fetch, the issue test and issue of a measure, control measures, spans, posts and the stream
watchdog (spec/08_stream_measures.md, spec/09_caller_scoreboard_fill.md).
-/

namespace Sys2Proof.Machine

/-! ### Fetch (R179, R182) -/

/-- HBM address of measure `k` of an image (R179). -/
def measureAddr (img k : Nat) : Nat := img + 512 * (k + 1)

/-- The address recorded for a poisoned image tile: its first poisoned atom, else the tile (R131, R179). -/
def poisonAddr (s : State) (a : Nat) : Nat := (tilePoisoned s a).getD (a / 4096 * 4096)

/-- What the tile of a measure turns out to be on fetch (R148, R179). -/
def fetchTile (s : State) (a : Nat) : FetchState :=
  match accOf s a with
  | .hbm h =>
    if (tilePoisoned s h).isSome then .poisoned
    else if tileOk s h then .good else .check
  | _ => .fenced

def measureAt (s : State) (img k : Nat) : MeasW := BitVec.ofNat 4096 (bytesNat (devRead s (measureAddr img k) 512))

/-- The effective bank of a measure under the `BANKXOR` that stands (R175, R177). -/
def effBank (s : State) (w : MeasW) : Bool := mBank w != s.cal.bankxor

/-- Measure `k` of an image as its fetch delivers it. Of a tile that cannot be used no byte is decoded, so its measure stands
as one of zeros (R179). -/
def measureFrom (s : State) (img k : Nat) : Meas :=
  match fetchTile s (measureAddr img k) with
  | .good => let w := measureAt s img k; ⟨k, w, effBank s w, .good, false⟩
  | f => ⟨k, 0, false, f, false⟩

def execMeasureFetchRequest (s : State) : Host.Outcome State Fault Refusal :=
  .next (clocked s (if s.cal.run ∧ s.cal.inflight.length + s.cal.queue.length < 112 ∧ s.cal.reqNext < s.cal.imgCount then
    { s with cal := { s.cal with inflight := s.cal.inflight ++ [s.cal.reqNext], reqNext := s.cal.reqNext + 1 } }
  else s))

/-- What a fetched tile that cannot be used sets as it arrives: CHECK, and the poison consumed (R179). -/
def fetchMarks (s : State) (m : Meas) : State :=
  let bad (s : State) : State := { s with cal := { s.cal with err := setBit s.cal.err 7 } }
  match m.fetched with
  | .check => bad s
  | .poisoned => bad (memError s (hbmPart s.cal.img) errUe (poisonAddr s (measureAddr s.cal.img m.idx)) false)
  | _ => s

/-- The oldest requested measure arrives, once no host-held line stands in the way (R182, R376); its tile is read whole under
class 0 (R148, R179). -/
def fetchArrive (s : State) : State :=
  match s.cal.inflight with
  | [] => s
  | k :: rest =>
    let a := measureAddr s.cal.img k / 4096 * 4096
    let blocked := trackedDev s a 4096 false
    if !blocked.isEmpty then sendSnoops s blocked false
    else
      let m := measureFrom s s.cal.img k
      fetchMarks (apart { s with cal := { s.cal with inflight := rest, queue := s.cal.queue ++ [m] } } 0
        (fun s => meterVerify s none 0 a 4096)) m

def execMeasureFetchArrive (s : State) : Host.Outcome State Fault Refusal := .next (clocked s (fetchArrive s))

/-- Requesting begins afresh at measure `k` (R182, R184). -/
def redirect (s : State) (k : Nat) : State :=
  { s with cal := { s.cal with queue := [], inflight := [], reqNext := k } }

/-! ### The due measure -/

def replaying (s : State) : Bool := !s.cal.replay.isEmpty || !s.cal.delivered.isEmpty

/-- The due measure where it is ready (R182, R196). -/
def dueMeas (s : State) : Option Meas := if replaying s then s.cal.delivered.head? else s.cal.queue.head?

/-- Index of the due measure, ready or not. -/
def dueIdx (s : State) : Nat :=
  match dueMeas s with
  | some m => m.idx
  | none => match s.cal.replay, s.cal.inflight with
    | m :: _, _ => m.idx
    | [], k :: _ => k
    | [], [] => s.cal.reqNext

/-- The due measure lies past the last one of the image (R168, R180). -/
def pastEnd (s : State) : Bool :=
  !replaying s && s.cal.queue.isEmpty && s.cal.inflight.isEmpty && decide (s.cal.imgCount ≤ s.cal.reqNext)

def dropDue (s : State) : State :=
  { s with cal := if replaying s then { s.cal with delivered := s.cal.delivered.tail }
                  else { s.cal with queue := s.cal.queue.tail } }

/-- Partitions whose core or window the image uses (R422). -/
def imageParts' (s : State) : List Nat :=
  (List.range 8).filter (fun p => hbmPart s.cal.img == p || (engineList p).any (fun e => s.cal.engmap.testBit e))

def imageFenced (s : State) : Bool := (imageParts' s).any (fun p => !partActive s p)

/-- The span of a measure, read in its issue cycle (R160). -/
def spanOf (s : State) (w : MeasW) : Nat :=
  if mElastic w then (Tbl.get 0#32 s.cal.span (mSpan w % 8)).toNat
  else if mSpan w = 0 then 65536 else mSpan w

def spanBad (n : Nat) : Bool := n == 0 || decide (65536 < n)

def bankLoading (s : State) (b : Bool) : Bool := if b then s.cal.loadB else s.cal.loadA
def bankVersion (s : State) (b : Bool) : W32 := if b then s.cal.verB else s.cal.verA

/-- A core the measure names is lent or being reclaimed (R199, R200). -/
def reclaimHolds (s : State) (w : MeasW) : Bool :=
  !mCtrl w && (namedCores w).any (fun c => s.fill.lent.testBit c || s.fill.reclaiming.testBit c)

/-- An array holds a stream up within a span: a swap waits for its load, or a row step for its NEXT bank (R53, R83, R185). -/
def spanStop (s : State) (fill : Bool) : Bool :=
  s.engines.any (fun p => p.2.acts.any (fun a => a.fill == fill && decide (a.done < a.rows) && stepWaits p.2 a))

def inSpanStop (s : State) : Bool := spanStop s false

/-! ### Reprise (R169, R195) -/

def segOf (s : State) (k : Nat) : List Meas := Tbl.get [] s.rpr.segs k
def rprUsed (s : State) : Nat := (s.rpr.segs.map (fun p => p.2.length)).sum
def rprFree (s : State) : Nat := 8192 - rprUsed s

/-- The reprise mark of a measure; a replayed one has none (R169). -/
def repOf (m : Meas) : Nat := if m.replayed then 0 else mRep m.w

def marksStart (r : Nat) : Bool := r == 1 || r == 3

/-- The due measure's mark or operation is refused, or no space is left to record it (R169, R195). -/
def repriseBad (s : State) (m : Meas) : Bool :=
  let r := repOf m
  let open_ := s.rpr.recording.isSome
  let ctrl := mCtrl m.w
  (marksStart r && open_) || (r == 2 && !open_) || (open_ && ctrl && mOp m.w != 0x00 && mOp m.w != 0x08) ||
  (ctrl && mOp m.w == 0x06 && (segOf s (mArg8 m.w)).isEmpty) ||
  (marksStart r && decide (rprFree s + (segOf s s.rpr.seg).length = 0)) ||
  (!m.replayed && open_ && !marksStart r && decide (rprFree s = 0))

/-- The measure recorded as it issues, where a recording is open or begins (R169). -/
def record (s : State) (m : Meas) : State :=
  if m.replayed then s
  else
    let r := repOf m
    if marksStart r then
      { s with rpr := { s.rpr with segs := Tbl.set s.rpr.segs s.rpr.seg [m],
                                   recording := if r = 3 then none else some s.rpr.seg } }
    else
      match s.rpr.recording with
      | none => s
      | some k => { s with rpr := { s.rpr with segs := Tbl.set s.rpr.segs k (segOf s k ++ [m]),
                                               recording := if r = 2 then none else some k } }

/-! ### Control measures (R168, R184) -/

def loopOf (s : State) (fill : Bool) (n : Nat) : W32 := Tbl.get 0 (if fill then s.fill.loop else s.cal.loop) n

def setLoopReg (s : State) (fill : Bool) (n : Nat) (v : W32) : State :=
  if fill then { s with fill := { s.fill with loop := Tbl.set s.fill.loop n v } }
  else { s with cal := { s.cal with loop := Tbl.set s.cal.loop n v } }

/-- The flow continues at measure `k` after measure `i`; the fetched measures go where it leaves the sequence. -/
def flowTo (s : State) (i k : Nat) : State := if k = i + 1 then s else redirect s k

/-- `ELE_STEP` of every enabled engine advances (R168). -/
def stepEngines (s : State) : State :=
  (List.range 80).foldl (fun s e =>
    if enginePresent s e then setEngine s e { engineOf s e with step := (engineOf s e).step + 1 } else s) s

/-- The action of a control measure at issue (R168). -/
def controlAct (s : State) (m : Meas) : State :=
  match mOp m.w with
  | 0x01 => { s with cal := { s.cal with halting := true } }
  | 0x02 => flowTo s m.idx (mArg32 m.w)
  | 0x03 =>
    let c := loopOf s false (mArg8 m.w)
    if c = 0 then s else flowTo (setLoopReg s false (mArg8 m.w) (c - 1)) m.idx (mArg32 m.w)
  | 0x04 => setLoopReg s false (mArg8 m.w) (BitVec.ofNat 32 (mArg32 m.w))
  | 0x05 => { s with rpr := { s.rpr with seg := mArg8 m.w } }
  | 0x06 => { s with cal := { s.cal with replay := segOf s (mArg8 m.w), delivered := [] } }
  | 0x08 => stepEngines s
  | _ => s

/-! ### The issue test and issue (R157, R165, R183) -/

/-- The stream stops at the due measure, which does not issue, with bit `b` of `CAL_ERR` (R192). -/
def dueStop (s : State) (b : Nat) : State :=
  let s := streamStop { s with cal := { s.cal with err := setBit s.cal.err b, faultPend := false } } (dueIdx s) false
  { s with cal := { s.cal with cause := setBit 0#32 b } }

/-- The first failure of R157 that needs no wait: bits 0, 2, 3 and 4 of `CAL_ERR`. Entries of a loading bank are not looked
at: the measure is tested against the completed bank (R176). -/
def decodeFault (s : State) (m : Meas) : Option Nat :=
  if !measureOk m.w then some 0
  else if measureAbsent s m.w then some 2
  else if measureLend m.w then some 3
  else if !bankLoading s m.bank && measureFillIdx s m.w m.bank false then some 4
  else none

/-- The due measure is held back: by a wait, a loading bank, a reclaim or a busy unit (R185). -/
def dueHeld (s : State) (m : Meas) : Bool :=
  waitsUnmet s false m.w != 0 || bankLoading s m.bank || reclaimHolds s m.w ||
    (busyUnit s (measureActs s m.w m.bank false 0)).isSome

/-- The failures tested in the issue cycle: SPAN, REPRISE and VER (R160, R168, R169). R157's order does not name REPRISE, which
comes here after SPAN (notes/assumptions/69.md). -/
def issueFault (s : State) (m : Meas) : Option Nat :=
  if spanBad (spanOf s m.w) then some 5
  else if repriseBad s m then some 9
  else if mCtrl m.w ∧ mOp m.w = 0x07 ∧
      bankVersion s ((mArg8 m.w == 1) != s.cal.bankxor) ≠ BitVec.ofNat 32 (mArg32 m.w) then some 8
  else none

/-- Actions whose table words are poisoned do not issue; the stream stops at the measure, which has (R167, R170). -/
def poisonedActs (s : State) : List BusAct → State
  | [] => s
  | a :: rest => poisonedActs (faultAtIssue (memError s (actPart a.unit) errUe 0 true) a.fill) rest

/-- The measure issues (R158, R165, R169, R199). -/
def issueMeas (s : State) (m : Meas) : State :=
  let span := spanOf s m.w
  let acts := measureActs s m.w m.bank false span
  let s := entriesCorrected (consumeWaits s false m.w) acts
  let s := (maskCores (mLend m.w)).foldl lendCore s
  let s := record (dropDue s) m
  let s := { s with cal := { s.cal with current := some (m, span), ran := 0, pc := m.idx, issued := false } }
  let s := if mCtrl m.w then controlAct s m else s
  let s := { s with bus := s.bus ++ acts.filter (fun a => !actPoisoned s a) }
  poisonedActs s (acts.filter (actPoisoned s))

/-- One issue test of the due measure, and its issue where every condition is met; a gate or a stop within a span holds it
(R185). -/
def issueDue (s : State) : State :=
  if !s.cal.run || s.cal.current.isSome || s.cal.draining || gated s || inSpanStop s then s
  else if s.cal.faultPend || imageFenced s then dueStop s 1
  else
    match dueMeas s with
    | none => if pastEnd s then dueStop s 6 else s
    | some m =>
      match m.fetched with
      | .check => dueStop s 7
      | .poisoned => dueStop s 7
      | .fenced => dueStop s 1
      | .good =>
        match decodeFault s m with
        | some b => dueStop s b
        | none =>
          if dueHeld s m then s
          else
            match issueFault s m with
            | some b => dueStop s b
            | none => issueMeas s m

/-- Sixteenths that run: DUTY, and at most 8 from a peak gate to the next control step (R402, R405; notes/assumptions/31.md). -/
def gateDuty (s : State) : Nat := if s.pwr.peak then min 8 s.pwr.cfg.duty else s.pwr.cfg.duty

/-- Clock cycles that were not gated add to the debt (R405). -/
def addDebt (s : State) (cycles : Nat) : State :=
  { s with pwr := { s.pwr with debt := s.pwr.debt + ((16 - gateDuty s) * cycles : Nat) } }

/-- An issue test: the stopped cycles since the last test add to the gating debt, and an ordinary gate may begin (R405,
R406). The cycles of a span have been added as it ended. -/
def gateTest (s : State) (cycles : Nat) : State :=
  if s.pwr.gate ≠ .none ∨ !s.cal.run ∨ s.cal.current.isSome then s
  else
    let s := addDebt s cycles
    { s with pwr := { s.pwr with gate := if 4096 ≤ s.pwr.debt then .duty else .none } }

def execMeasureIssue (cycles : Nat) (s : State) : Host.Outcome State Fault Refusal := .next (clocked s (issueDue (gateTest s cycles)))

/-- The issue test where the due measure is a control measure of operation `op`. -/
def issueControl (s : State) (op : Nat) : State :=
  match dueMeas s with
  | some m => if mCtrl m.w ∧ mOp m.w = op then issueDue (gateTest s 0) else s
  | none => s

def execControlNop (s : State) : Host.Outcome State Fault Refusal := .next (clocked s (issueControl s 0x00))
def execHalt (s : State) : Host.Outcome State Fault Refusal := .next (clocked s (issueControl s 0x01))
def execJump (s : State) : Host.Outcome State Fault Refusal := .next (clocked s (issueControl s 0x02))
def execLoop (s : State) : Host.Outcome State Fault Refusal := .next (clocked s (issueControl s 0x03))
def execSetloop (s : State) : Host.Outcome State Fault Refusal := .next (clocked s (issueControl s 0x04))
def execRseg (s : State) : Host.Outcome State Fault Refusal := .next (clocked s (issueControl s 0x05))
def execReplay (s : State) : Host.Outcome State Fault Refusal := .next (clocked s (issueControl s 0x06))
def execVerchk (s : State) : Host.Outcome State Fault Refusal := .next (clocked s (issueControl s 0x07))
def execStep (s : State) : Host.Outcome State Fault Refusal := .next (clocked s (issueControl s 0x08))

/-- The issue test where the due measure carries a reprise mark `marks` accepts. -/
def issueMarked (s : State) (marks : Nat → Bool) : State :=
  match dueMeas s with
  | some m => if marks (repOf m) then issueDue (gateTest s 0) else s
  | none => s

def execRepriseStart (s : State) : Host.Outcome State Fault Refusal := .next (clocked s (issueMarked s marksStart))
def execRepriseEnd (s : State) : Host.Outcome State Fault Refusal := .next (clocked s (issueMarked s (fun r => r == 2 || r == 3)))

/-! ### Spans (R159, R185, R196) -/

/-- The current measure's primary actions have all been taken by their units (R167). -/
def busQuiet (s : State) : Bool := s.bus.all (fun b => b.fill)

/-- `CAL_SCYC`: what ended spans have run, and what the current one has (R185; notes/assumptions/20.md). -/
def scycNow (s : State) : W64 := s.cal.scyc + BitVec.ofNat 64 (if s.cal.current.isSome then s.cal.ran / 100 else 0)

/-- In a period of 10 ns the stream cycle counter runs through the current span, unless the stream is stopped (R185, R400). -/
def spanPeriod (s : State) : State :=
  match s.cal.current with
  | some (_, span) =>
    if !clocksRun s.dev || !s.cal.run || gated s || inSpanStop s then s
    else { s with cal := { s.cal with ran := min (100 * span) (s.cal.ran + pointMhz s.pwr.now) } }
  | none => s

/-- The span of the current measure ends: the counter has run it, and its cycles add to the gating debt (R405); its post is
made and the next measure is due. -/
def spanEnd (s : State) : State :=
  match s.cal.current with
  | none => s
  | some (m, span) =>
    if !s.cal.run || !busQuiet s || inSpanStop s || gated s then s
    else
      let s := { s with cal := { s.cal with scyc := s.cal.scyc + BitVec.ofNat 64 span, current := none, ran := 0 } }
      let s := addDebt s span
      let s := if mPostEn m.w then ownPost s false (mPostTok m.w) else s
      if s.cal.halting then { s with cal := { s.cal with halting := false, draining := true, run := false } } else s

def execSpanEnd (s : State) : Host.Outcome State Fault Refusal := .next (clocked s (spanEnd s))

/-- A measure of a replayed segment is ready, its bank under the `BANKXOR` of this moment: the first once REPLAY's span has
ended, a later one once its predecessor has issued (R177, R196). -/
def replayDeliver (s : State) : State :=
  match s.cal.replay with
  | [] => s
  | m :: rest =>
    if !s.cal.delivered.isEmpty || s.cal.current.any (fun c => !c.1.replayed) then s
    else { s with cal := { s.cal with replay := rest,
                                      delivered := [{ m with bank := effBank s m.w, replayed := true, fetched := .good }] } }

def execReplayMeasureDeliver (s : State) : Host.Outcome State Fault Refusal := .next (clocked s (replayDeliver s))

/-- Every action accepted for the primary stream has completed (R392, R395). -/
def primaryIdle (s : State) : Bool :=
  busQuiet s && s.spanlds.isEmpty &&
  s.engines.all (fun p => p.2.acts.all (fun a => a.fill) && p.2.inflight.isEmpty && p.2.outs.isEmpty &&
    p.2.eles.all (fun a => a.fill)) &&
  s.movers.all (fun p => p.2.queue.all (fun a => a.fill)) &&
  s.cmp.all (fun p => p.2.exp.all (fun q => q.2.isEmpty)) &&
  s.tok.held.all (fun h => h.fill)

/-- After a HALT's span the last accepted action completes (R392). -/
def haltComplete (s : State) : State :=
  if s.cal.draining ∧ primaryIdle s ∧ s.dev = .running ∧ s.jante.pend.all (fun p => p.req.opcode != 0x0204) then
    { s with cal := { s.cal with draining := false }, dev := .ready }
  else s

def execStreamHaltComplete (s : State) : Host.Outcome State Fault Refusal := .next (clocked s (haltComplete s))

/-! ### Posts (R188-R190) -/

/-- The oldest post reaches the caller: counted, held by its unit, or not made (R188-R190). -/
def postArrive (s : State) : State :=
  match s.tok.flight with
  | [] => s
  | p :: rest =>
    let s := { s with tok := { s.tok with flight := rest } }
    if p.fill && !s.fill.en then s
    else
      match countTok s p.fill p.token with
      | some s => s
      | none => if p.by_ = .software then s else { s with tok := { s.tok with held := s.tok.held ++ [p] } }

def execTokenPostArrive (s : State) : Host.Outcome State Fault Refusal := .next (clocked s (postArrive s))

def ownHeld (s : State) (fill : Bool) (t : Nat) : Nat := Tbl.get 0 (if fill then s.tok.fown else s.tok.own) t

/-- A held post is counted once there is room: one of the caller's own first, else the oldest of a unit. -/
def heldCounted (s : State) (fill : Bool) (t : Nat) : State :=
  match countTok s fill t with
  | none => s
  | some s' =>
    if ownHeld s fill t ≠ 0 then
      { s' with tok := if fill then { s'.tok with fown := Tbl.set s'.tok.fown t (ownHeld s fill t - 1) }
                       else { s'.tok with own := Tbl.set s'.tok.own t (ownHeld s fill t - 1) } }
    else if s.tok.held.any (fun h => h.fill == fill && h.token == t) then
      { s' with tok := { s'.tok with held := s'.tok.held.eraseP (fun h => h.fill == fill && h.token == t) } }
    else s

def execHeldPostCounted (fill : Bool) (t : Fin 64) (s : State) : Host.Outcome State Fault Refusal := .next (clocked s (heldCounted s fill t))

/-! ### Stops and the stream watchdog (R185, R193, R203) -/

/-- Bits [8:1] of `CAL_STOP` and its UNIT while the stream runs. -/
def stopReasons (s : State) : Nat × Nat :=
  if !s.cal.run then (0, 0xFF)
  else
    let gate := 256 * b2n (s.pwr.gate != .none)
    match s.cal.current with
    | some _ => (gate + 16 * b2n (inSpanStop s), 0xFF)
    | none =>
      match dueMeas s with
      | none => (gate + 64, 0xFF)
      | some m => if m.fetched != .good then (gate, 0xFF) else
        let busy := busyUnit s (measureActs s m.w m.bank false 0)
        (gate + 128 * b2n (reclaimHolds s m.w) + 32 * b2n (bankLoading s m.bank) + 16 * b2n (inSpanStop s) +
          8 * b2n busy.isSome + 2 * waitsUnmet s false m.w, busy.getD 0xFF)

/-- `CAL_STOP` [8:0]. -/
def stopBits (s : State) : Nat := let r := (stopReasons s).1; r + b2n (r != 0)

/-- A watchdog bite is recorded and told (R416, R418, R431). -/
def recordBite (s : State) (kind detail : Nat) : State :=
  raiseVector { s with rst := { s.rst with kind := kind, detail := detail, bites := s.rst.bites + 1,
                                           bTick := s.pwr.tick } } 23

/-- Partition of a unit code of `CAL_STOP` (R419). -/
def unitCodePart (u : Nat) : Option Nat := if u < 80 then some (u / 10) else if 0x80 ≤ u ∧ u < 0x88 then some (u - 0x80) else none

/-- A stop of the primary stream outlasts TIMEOUT, gating apart (R193); after a stop of R422 only the record is made. -/
def streamBite (s : State) : State :=
  let cause := stopBits s
  let bite (s : State) : State := { s with cal := { s.cal with
    wdgStat := BitVec.ofNat 32 (cause + 2 ^ 31) ||| (s.cal.wdgStat &&& 0x60000000#32) } }
  if s.cal.run then
    if cause = 0 ∨ s.pwr.gate ≠ .none then s
    else
      let unit := (stopReasons s).2
      let s := recordBite (bite s) 1 cause
      let s := if s.cal.current.isSome then streamStop s s.cal.pc true else streamStop s (dueIdx s) false
      match unitCodePart unit with
      | some p => if bitAt s.rst.policy 1 then requestFence s p 2 else s
      | none => s
  else if s.dev = .running ∧ !s.cal.draining ∧ bitAt s.cal.err 1 ∧ imageFenced s then recordBite (bite s) 1 cause
  else s

def execStreamWatchdogBite (s : State) : Host.Outcome State Fault Refusal := .next (clocked s (streamBite s))

/-! ### Span registers (R161, R172) -/

/-- Writes a span register; only bits [16:0] are kept. -/
def setSpanReg (s : State) (n : Nat) (v : Nat) : State :=
  { s with cal := { s.cal with span := Tbl.set s.cal.span n (BitVec.ofNat 32 (v % 2 ^ 17)), spanBy := Tbl.del s.cal.spanBy n } }

/-- A load of core `c` begins: its word is read, whose poison is consumed (R128, R473). -/
def spanldBegin (s : State) (c : Nat) (x : SpanLoad) (addr : Nat) (fill : Bool) : State :=
  match sramPoisoned s addr 4 with
  | some p => consumedSram s c p fill
  | none =>
    let s := sramCorrected s addr 4
    { s with spanlds := s.spanlds ++ [{ x with val := bytesNat (sramRead s addr 4), wait := none }] }

/-- Core `c` begins a SPANLD: one that waited for a held post, else the one at the head of the core's actions on the bus,
which waits in its turn while the post of an earlier one is held (R172, R189). -/
def spanldIssue (s : State) (c : Nat) : State :=
  match s.spanlds.find? (fun x => x.core == c && x.wait.isSome) with
  | some x => if heldFor s (.spanld c) false ≠ 0 then s
      else spanldBegin { s with spanlds := s.spanlds.erase x } c x (x.wait.getD 0) false
  | none =>
    match busFirst s (.core c) with
    | none => s
    | some b =>
      match coreEntryOf c b.entry with
      | some (some (.spanld d)) =>
        let s := busTake s (.core c)
        let x : SpanLoad := ⟨c, d.reg, 0, if d.post then some d.token else none, s.cal.scyc, some d.addr⟩
        if heldFor s (.spanld c) b.fill ≠ 0 then { s with spanlds := s.spanlds ++ [x] } else spanldBegin s c x d.addr b.fill
      | _ => s

def execSpanld (c : Fin 8) (s : State) : Host.Outcome State Fault Refusal := .next (running s (spanldIssue s c))

/-- Forty cycles after its arrival a SPANLD writes its register and posts (R172). Of two of one measure on one register the
higher core's stands, whichever is written first (R161). -/
def spanldWrite (s : State) (c : Nat) : State :=
  match s.spanlds.find? (fun x => x.core == c && x.wait.isNone) with
  | none => s
  | some l =>
    let stands := (Tbl.get? s.cal.spanBy l.reg).any (fun w => w.1 == l.at_ && decide (c < w.2))
    let s := { s with spanlds := s.spanlds.erase l }
    let s := if stands then s
      else (let s := setSpanReg s l.reg l.val
            { s with cal := { s.cal with spanBy := Tbl.set s.cal.spanBy l.reg (l.at_, c) } })
    match l.post with
    | some t => sendPost s (.spanld c) false t
    | none => s

def execSpanldWrite (c : Fin 8) (s : State) : Host.Outcome State Fault Refusal := .next (clocked s (spanldWrite s c))

end Sys2Proof.Machine
end

