-- ==== Sys2Proof/Machine/Board.lean ====
section
/-!
DEFINITION. The board part of the Folio and the wiring it records (spec/16_folio.md R361, R366; spec/11 R240-R242).
-/

namespace Sys2Proof.Machine

/-- A record: TYPE, VER, its place in the part, and its body (R361). -/
structure FolRec where
  type : Nat
  ver : Nat
  off : Nat
  body : List Byte
  deriving DecidableEq, Repr

/-- The records of a part up to its closing record, of type `last`; `none` where a record passes the part (R361). -/
def recordsFrom (last : Nat) : Nat → Nat → List Byte → Option (List FolRec)
  | 0, _, _ => none
  | fuel + 1, off, bs =>
    let len := natAt bs 2 2
    if bs.length < 8 ∨ len < 8 ∨ len % 8 ≠ 0 ∨ bs.length < len then none
    else
      let r : FolRec := ⟨natAt bs 0 2, natAt bs 4 1, off, bytesAt bs 8 (len - 8)⟩
      if r.type = last then some [r]
      else (recordsFrom last fuel (off + len) (bs.drop len)).map (r :: ·)

def recordsOf (last : Nat) (bs : List Byte) : Option (List FolRec) := recordsFrom last (bs.length / 8 + 1) 0 bs

/-- The first break of a part's layout and the offset of the field: true where a record passes the part or the closing record
is missing, false where a LEN is no length (R361, R367). -/
def recordsFaultFrom (last : Nat) : Nat → Nat → List Byte → Option (Bool × Nat)
  | 0, off, _ => some (true, off)
  | fuel + 1, off, bs =>
    let len := natAt bs 2 2
    if bs.length < 8 then some (true, off)
    else if len < 8 ∨ len % 8 ≠ 0 then some (false, off + 2)
    else if bs.length < len then some (true, off + 2)
    else if natAt bs 0 2 = last then none
    else recordsFaultFrom last fuel (off + len) (bs.drop len)

def recordsFault (last : Nat) (bs : List Byte) : Option (Bool × Nat) := recordsFaultFrom last (bs.length / 8 + 1) 0 bs

/-- A body has the fields known: exactly they in VER 1, and more after them in a later one (R361). -/
def bodyHas (r : FolRec) (n : Nat) : Bool := if r.ver ≤ 1 then r.body.length == n else decide (n ≤ r.body.length)

/-- No type stands twice in a part. -/
def typesOnce (rs : List FolRec) : Bool := decide ((rs.map (·.type)).eraseDups.length = rs.length)

def recOf (rs : List FolRec) (type : Nat) : Option FolRec := rs.find? (fun r => r.type == type)

/-- GATHERING and LINKPLAN (R366). -/
structure Gath where
  devno : Nat
  wiring : Nat
  shape : List Nat
  coord : List Nat
  gsize : Nat
  /-- by link: PEERDEV, PEERLINK, PEERSER -/
  peers : List (Nat × Nat × W64)
  deriving DecidableEq, Repr

def gathOf (g plan : List Byte) : Gath :=
  { devno := natAt g 0 1, wiring := natAt g 1 1, shape := (List.range 3).map (fun k => natAt g (2 + k) 1),
    coord := (List.range 3).map (fun k => natAt g (5 + k) 1), gsize := natAt g 8 1,
    peers := (List.range 12).map (fun n =>
      (natAt plan (16 * n) 1, natAt plan (16 * n + 1) 1, BitVec.ofNat 64 (natAt plan (16 * n + 8) 8))) }

def recorded (g : Gath) (n : Nat) : Bool := (g.peers.getD n (0xFF, 0, 0)).1 != 0xFF

/-- Entry `n` agrees with the torus and with the entries before it: a neighbour is another device, the links of one direction
join one device, the two directions of an axis join the same device exactly where the axis has length 2, neighbours on different
axes are different devices, and no link of a device is recorded twice (R240). -/
def torusPeerOk (g : Gath) (n : Nat) : Bool :=
  let peer (n : Nat) : Nat × Nat × W64 := g.peers.getD n (0xFF, 0, 0)
  (peer n).1 != g.devno && ((List.range n).filter (recorded g)).all (fun m =>
    !((peer n).1 == (peer m).1 && (peer n).2.1 == (peer m).2.1) &&
    (if n % 6 / 2 = m % 6 / 2 then ((peer n).1 == (peer m).1) == (n % 6 == m % 6 || g.shape.getD (n % 6 / 2) 1 == 2)
     else (peer n).1 != (peer m).1))

/-- A recorded link of entry `n` joins the opposite direction of an axis in use (R240). -/
def torusLinkOk (g : Gath) (n : Nat) : Bool :=
  g.shape.getD (n % 6 / 2) 1 != 1 &&
    (g.peers.getD n (0xFF, 0, 0)).2.1 % 6 == (if n % 2 = 0 then n % 6 + 1 else n % 6 - 1)

/-- What entry `n` of LINKPLAN breaks: its PEERDEV at its first byte, or its PEERLINK at its second (R366). -/
def planFault (g : Gath) (n : Nat) : Option Nat :=
  let p := g.peers.getD n (0xFF, 0, 0)
  if !recorded g n then none
  else if 63 < p.1 ∨ (g.wiring = 2 ∧ (p.1 / g.gsize ≠ g.devno / g.gsize ∨ p.1 = g.devno)) then some 0
  else if 12 ≤ p.2.1 then some 1
  else if g.wiring ≠ 1 then none
  else if !torusLinkOk g n then some 1
  else if !torusPeerOk g n then some 0
  else none

/-- The first field of GATHERING that breaks R366, by its offset in the body. -/
def gathFieldFault (g : Gath) : Option Nat :=
  let torus := g.wiring == 1
  let s (k : Nat) : Nat := g.shape.getD k 0
  let c (k : Nat) : Nat := g.coord.getD k 0
  ((if 63 < g.devno then [0] else []) ++ (if 2 < g.wiring then [1] else []) ++
    (List.range 3).filterMap (fun k => if s k < 1 ∨ 4 < s k ∨ (!torus && s k != 1) then some (2 + k) else none) ++
    (if 64 < s 0 * s 1 * s 2 then [2] else []) ++
    (List.range 3).filterMap (fun k => if s k ≤ c k ∨ (!torus && c k != 0) then some (5 + k) else none) ++
    (if g.wiring = 2 then (if g.gsize < 2 ∨ 8 < g.gsize then [8] else []) else (if g.gsize ≠ 0 then [8] else []))).head?

/-- The checks of R366 on GATHERING and LINKPLAN. -/
def gathOk (g : Gath) : Bool := (gathFieldFault g).isNone && (List.range 12).all (fun n => (planFault g n).isNone)

/-- Reserved bytes of the board part are zero, each record there once (R361, R366). -/
def boardZeros (bs : List Byte) (rs : List FolRec) : Bool :=
  rs.all (fun r => natAt bs (r.off + 5) 3 == 0) &&
  (match recOf rs 0x0101, recOf rs 0x0102, recOf rs 0x01FF with
   | some g, some p, some e => bodyHas g 16 && bodyHas p 192 && bodyHas e 8 &&
      natAt g.body 9 7 == 0 && (List.range 12).all (fun n => natAt p.body (16 * n + 2) 6 == 0) && natAt e.body 0 4 == 0
   | _, _, _ => false) &&
  typesOnce rs

/-- BEND holds the CRC-32C of the part up to it (R361). -/
def bendOk (bs : List Byte) (rs : List FolRec) : Bool :=
  match rs.getLast? with
  | some e => e.type == 0x01FF && natAt e.body 4 4 == crc32c (bs.take e.off)
  | none => false

/-- A board part read: its wiring where every check holds (R363, R366). -/
def boardOf (bs : List Byte) : Option Gath :=
  match recordsOf 0x01FF bs with
  | none => none
  | some rs =>
    match recOf rs 0x0101, recOf rs 0x0102 with
    | some g, some p =>
      let x := gathOf g.body p.body
      if bendOk bs rs && boardZeros bs rs && gathOk x then some x else none
    | _, _ => none

/-- Offsets in the part of the bytes that are zero in every part, in their order (R361, R366). -/
def zeroPlaces (rs : List FolRec) : List Nat :=
  rs.flatMap (fun r => (List.range 3).map (fun i => r.off + 5 + i) ++
    (if r.type = 0x0101 then (List.range 7).map (fun i => r.off + 17 + i)
     else if r.type = 0x0102 then (List.range 12).flatMap (fun n => (List.range 6).map (fun i => r.off + 10 + 16 * n + i))
     else if r.type = 0x01FF then (List.range 4).map (fun i => r.off + 8 + i)
     else []))

/-- The offset of the field at which a whole part breaks R361 or R366: BEND's CRC, a byte that is not zero, a record of a wrong
length or standing twice, or a field of GATHERING or LINKPLAN. A part that lacks one is refused at BEND. -/
def partFault (bs : List Byte) : Nat :=
  match recordsOf 0x01FF bs with
  | none => 0
  | some rs =>
    let bend := (rs.getLast?.map (·.off)).getD 0
    if !bendOk bs rs then bend + 12
    else
      match (zeroPlaces rs).find? (fun o => natAt bs o 1 != 0), recOf rs 0x0101, recOf rs 0x0102 with
      | some o, _, _ => o
      | none, some g, some p =>
        if !bodyHas g 16 then g.off + 2
        else if !bodyHas p 192 then p.off + 2
        else match rs.find? (fun r => rs.any (fun q => q.type == r.type && decide (q.off < r.off))) with
          | some r => r.off
          | none =>
            let x := gathOf g.body p.body
            match gathFieldFault x, (List.range 12).findSome? (fun n => (planFault x n).map (fun k => 16 * n + k)) with
            | some k, _ => g.off + 8 + k
            | none, some k => p.off + 8 + k
            | none, none => bend
      | none, _, _ => bend

/-- The board part used at this start (R363, R367). -/
def boardInUse (s : State) : List Byte :=
  if s.folio.boardOk then (if s.folio.copy then s.folio.board1 else s.folio.board0) else []

def gathAlone : Gath := ⟨0, 0, [1, 1, 1], [0, 0, 0], 0, List.replicate 12 (0xFF, 0, 0)⟩

/-- The wiring in use; a device without a board part records no link (R363). -/
def gath (s : State) : Gath := (boardOf (boardInUse s)).getD gathAlone

/-- The planned peer of a link. -/
def planned (s : State) (n : Nat) : Nat × Nat × W64 := (gath s).peers.getD n (0xFF, 0, 0)

end Sys2Proof.Machine
end

