-- ==== Sys2Proof/Machine/Links.lean ====
section
/-!
DEFINITION. The Viljo links: flits, replay, credits, virtual channels and training (spec/11_links_and_collectives.md
R235-R239, spec/16 R369).
-/

namespace Sys2Proof.Machine

def linkOf (s : State) (n : Nat) : Link := Tbl.get linkReset s.links n
def setLink (s : State) (n : Nat) (x : Link) : State := { s with links := Tbl.set s.links n x }

/-! ### Frames (R235) -/

def crc64Bit (c : W64) : W64 := if c.msb then (c <<< 1) ^^^ 0x42F0E1EBA9EA3693#64 else c <<< 1

def crc64Byte (c : W64) (b : Byte) : W64 :=
  let c := c ^^^ (b.setWidth 64 <<< 56)
  crc64Bit (crc64Bit (crc64Bit (crc64Bit (crc64Bit (crc64Bit (crc64Bit (crc64Bit c)))))))

def crc64 (bs : List Byte) : W64 := bs.foldl crc64Byte (BitVec.allOnes 64) ^^^ BitVec.allOnes 64

/-- The CRC of a flit: over its payload, then the upper half of its frame word, low byte first
(notes/assumptions/21.md). -/
def flitCrc (hi : Nat) (payload : List Byte) : W64 := crc64 (payload ++ natBytes 8 hi)

/-- A frame word with its CRC. -/
def frameOf (vc type : Nat) (som eom : Bool) (seq ack cvc cred : Nat) (payload : List Byte) : BitVec 128 :=
  let hi := vc * 2 ^ 61 + type * 2 ^ 59 + b2n som * 2 ^ 58 + b2n eom * 2 ^ 57 + seq % 4096 * 2 ^ 45 +
    ack % 4096 * 2 ^ 33 + cvc * 2 ^ 30 + cred % 256 * 2 ^ 22
  BitVec.ofNat 128 (hi * 2 ^ 64 + (flitCrc hi payload).toNat)

def frameGood (f : BitVec 128) (payload : List Byte) : Bool :=
  payload.length == 256 && (flitCrc (bits f 127 64) payload).toNat == bits f 63 0

def fVc (f : BitVec 128) : Nat := bits f 127 125
def fType (f : BitVec 128) : Nat := bits f 124 123
def fSom (f : BitVec 128) : Bool := bitAt f 122
def fEom (f : BitVec 128) : Bool := bitAt f 121
def fSeq (f : BitVec 128) : Nat := bits f 120 109
def fAck (f : BitVec 128) : Nat := bits f 108 97
def fCvc (f : BitVec 128) : Nat := bits f 96 94
def fCred (f : BitVec 128) : Nat := bits f 93 86

/-- The last sequence number received in order. -/
def lastGood (x : Link) : Nat := (x.rxNext + 4095) % 4096

def zeros256 : List Byte := List.replicate 256 0#8

/-- An idle flit that returns credits, or a NAK (R235, R236). -/
def sendIdle (s : State) (n type cvc cred : Nat) : State :=
  { s with out := .flit n (frameOf 0 type false false 0 (lastGood (linkOf s n)) cvc cred zeros256) zeros256 :: s.out }

/-- A data flit on the lanes. -/
def sendFlit (s : State) (n : Nat) (f : Flit) : State :=
  { s with out := .flit n (frameOf f.vc 0 f.som f.eom f.seq (lastGood (linkOf s n)) 0 0 f.payload) f.payload :: s.out }

/-! ### Sending (R236, R238) -/

def txOf (x : Link) (v : Nat) : List Flit := Tbl.get [] x.tx v
def creditsOf (x : Link) (v : Nat) : Nat := Tbl.get 0 x.credits v
def occOf (x : Link) (v : Nat) : Nat := Tbl.get 0 x.occ v

/-- A channel holds a flit and a credit, and is not VC6 while the power manager pauses it. -/
def canSend (x : Link) (vc6p : Bool) (v : Nat) : Bool :=
  !(txOf x v).isEmpty && creditsOf x v != 0 && !(v == 6 && vc6p)

/-- The channel deficit round robin takes next with what is left of its quantum: the one it stands at, else the next
weighted one, else any without a weight (R238). -/
def nextChannel (x : Link) (vc6p : Bool) : Option (Nat × Nat) :=
  if x.rrLeft ≠ 0 ∧ canSend x vc6p x.rrVc then some (x.rrVc, x.rrLeft)
  else
    let order := (List.range 8).map (fun k => (x.rrVc + 1 + k) % 8)
    match order.find? (fun v => canSend x vc6p v && x.weights.getD v 0 != 0) with
    | some v => some (v, x.weights.getD v 0)
    | none => (order.find? (canSend x vc6p)).map (fun v => (v, 1))

/-- Data flits sent while the link is UP, the replay buffer has room and a channel can send (R236, R239). -/
def pumpLink : Nat → State → Nat → State
  | 0, s, _ => s
  | fuel + 1, s, n =>
    let x := linkOf s n
    if x.state ≠ .up ∨ 512 ≤ x.replay.length then s
    else
      match nextChannel x s.pwr.cfg.vc6p with
      | none => s
      | some (v, left) =>
        match txOf x v with
        | [] => s
        | f :: rest =>
          let f := { f with seq := x.nextSeq }
          let x := { x with tx := Tbl.set x.tx v rest, replay := x.replay ++ [f], replays := x.replays ++ [0],
                            nextSeq := (x.nextSeq + 1) % 4096,
                            credits := Tbl.set x.credits v (creditsOf x v - 1), rrVc := v, rrLeft := left - 1 }
          pumpLink fuel (sendFlit (setLink s n x) n f) n

def txTotal (x : Link) : Nat := (x.tx.map (fun p => p.2.length)).sum

def pump (s : State) (n : Nat) : State := pumpLink (txTotal (linkOf s n)) s n

/-- A message cut into flits, the last padded with zeros (R247). -/
def flitsOf (v : Nat) (msg : List Byte) : List Flit :=
  let ps := chunksOf 256 0#8 (msg.length / 256 + 1) msg
  ps.zipIdx.map (fun p => ⟨v, p.2 == 0, p.2 + 1 == ps.length, 0, p.1⟩)

/-- A message handed to a link's channel. -/
def sendMsg (s : State) (n v : Nat) (msg : List Byte) : State :=
  let x := linkOf s n
  pump (setLink s n { x with tx := Tbl.set x.tx v (txOf x v ++ flitsOf v msg) }) n

/-! ### Receiving (R236, R239) -/

/-- Flits up to the acknowledged one leave the replay buffer. -/
def ackReplay (x : Link) (ack : Nat) : Link :=
  match x.replay.findIdx? (fun f => f.seq == ack) with
  | some i => { x with replay := x.replay.drop (i + 1), replays := x.replays.drop (i + 1) }
  | none => x

/-- ACK and returned credits of a good flit. -/
def takeAckCred (x : Link) (f : BitVec 128) : Link :=
  let x := ackReplay x (fAck f)
  { x with credits := Tbl.set x.credits (fCvc f) (creditsOf x (fCvc f) + fCred f) }

/-- A flit whose CRC fails is discarded and answered with a NAK, a replayed flit too (R236; notes/assumptions/21.md). -/
def rejectFlit (s : State) (n : Nat) : State := sendIdle (setLink s n { linkOf s n with nakWait := true }) n 2 0 0

/-- A flit out of order is answered with one NAK, and further ones are discarded until the sender replays (R236). -/
def rejectOrder (s : State) (n : Nat) : State := if (linkOf s n).nakWait then s else rejectFlit s n

/-- An accepted flit is acknowledged: by the data flits that go out, else by an idle flit (R235). -/
def pumpAck (s : State) (n : Nat) : State :=
  let s' := pump s n
  if s'.out.length = s.out.length then sendIdle s' n 1 0 0 else s'

/-- The payload joined to its message; a message that ends waits in its channel's receive buffers. -/
def assemble (x : Link) (v : Nat) (som eom : Bool) (payload : List Byte) : Link :=
  let p := Tbl.get ⟨[], 0⟩ x.part v
  let p : RxMsg := if som then ⟨payload, p.flits + 1⟩ else ⟨p.bytes ++ payload, p.flits + 1⟩
  if eom then { x with part := Tbl.set x.part v ⟨[], 0⟩, rx := Tbl.set x.rx v (Tbl.get [] x.rx v ++ [p]) }
  else { x with part := Tbl.set x.part v p }

def dataFlit (s : State) (n : Nat) (f : BitVec 128) (payload : List Byte) : State :=
  let x := linkOf s n
  if x.state ≠ .up then s
  else if !frameGood f payload then rejectFlit s n
  else if fType f ≠ 0 then s
  else if fSeq f ≠ x.rxNext then rejectOrder s n
  else
    let x := { x with rxNext := (x.rxNext + 1) % 4096, nakWait := false,
                      occ := Tbl.set x.occ (fVc f) (occOf x (fVc f) + 1) }
    pumpAck (setLink s n (assemble (takeAckCred x f) (fVc f) (fSom f) (fEom f) payload)) n

def execDataFlitReceive (n : Fin 12) (f : BitVec 128) (payload : List Byte) (s : State) :
    Host.Outcome State Fault Refusal := .next (clocked s (dataFlit s n f payload))

def idleFlit (s : State) (n : Nat) (f : BitVec 128) (payload : List Byte) : State :=
  let x := linkOf s n
  if x.state ≠ .up then s
  else if !frameGood f payload then rejectFlit s n
  else if fType f ≠ 1 then s
  else pump (setLink s n (takeAckCred x f)) n

def execIdleFlitReceive (n : Fin 12) (f : BitVec 128) (payload : List Byte) (s : State) :
    Host.Outcome State Fault Refusal := .next (clocked s (idleFlit s n f payload))

/-- Every unacknowledged flit sent again, in order. -/
def replayAll (s : State) (n : Nat) : State :=
  let x := linkOf s n
  x.replay.foldl (fun s f => sendFlit s n f)
    (setLink s n { x with cntReplay := if x.replay.isEmpty then x.cntReplay else satInc 0xFFFF x.cntReplay })

/-- A NAK: what it acknowledges leaves the buffer and the rest is replayed; the eighth replay of one flit retrains the
link (R236). -/
def nakFlit (s : State) (n : Nat) (f : BitVec 128) (payload : List Byte) : State :=
  let x := linkOf s n
  if x.state ≠ .up then s
  else if !frameGood f payload then rejectFlit s n
  else if fType f ≠ 2 then s
  else
    let x := takeAckCred x f
    if x.replay.isEmpty then pump (setLink s n x) n
    else if x.replays.any (fun t => decide (8 ≤ t)) then
      setLink s n { x with state := .retrain, cntRetrain := satInc 0xFF x.cntRetrain }
    else pump (replayAll (setLink s n { x with replays := x.replays.map (· + 1) }) n) n

def execNakReceive (n : Fin 12) (f : BitVec 128) (payload : List Byte) (s : State) :
    Host.Outcome State Fault Refusal := .next (clocked s (nakFlit s n f payload))

/-- Credits returned, at most 255 to a frame word (R235, R239). -/
def returnCredits : Nat → State → Nat → Nat → Nat → State
  | 0, s, _, _, _ => s
  | fuel + 1, s, n, v, k => if k = 0 then s else returnCredits fuel (sendIdle s n 1 v (min k 255)) n v (k - min k 255)

/-- Receive buffers freed: their credits are returned, or owed while the link's flits are held (R236, R239). -/
def freeBuffers (s : State) (n v k : Nat) : State :=
  let x := { linkOf s n with occ := Tbl.set (linkOf s n).occ v (occOf (linkOf s n) v - k) }
  if x.state = .up then returnCredits (k + 1) (setLink s n x) n v k
  else setLink s n { x with owed := Tbl.set x.owed v (Tbl.get 0 x.owed v + k) }

/-- The credits owed are returned when the link is UP again (R239). -/
def payOwed (s : State) (n : Nat) : State :=
  let x := linkOf s n
  x.owed.foldl (fun s e => returnCredits (e.2 + 1) s n e.1 e.2) (setLink s n { x with owed := [] })

/-- The oldest whole message of a channel, taken out of its buffers. -/
def takeMsg (s : State) (n v : Nat) : Option (List Byte × State) :=
  let x := linkOf s n
  match Tbl.get [] x.rx v with
  | [] => none
  | m :: rest => some (m.bytes, freeBuffers (setLink s n { x with rx := Tbl.set x.rx v rest }) n v m.flits)

def peekMsg (s : State) (n v : Nat) : Option (List Byte) := ((Tbl.get [] (linkOf s n).rx v).head?).map (·.bytes)

/-! ### States (R236, R237, R369) -/

/-- A link goes DOWN: its replay buffer and receive buffers are discarded and counted (R237). -/
def linkDown (s : State) (n : Nat) : State :=
  let x := linkOf s n
  let held := (x.occ.map (fun p => p.2)).sum
  setLink s n { x with state := .down, replay := [], replays := [], nakWait := false, occ := [], owed := [], credits := [], part := [],
                       rx := [], lost := min 0xFF (x.lost + x.replay.length + held), upAsPlanned := false }

/-- A LNK_RETRAIN that waits for the link completes (R397). -/
def retrainDone (s : State) (n : Nat) : State := finishPend s (fun x => pendOp 0x040A x && x.obj == .link n) .ok []

def execRetrainTimeout (n : Fin 12) (s : State) : Host.Outcome State Fault Refusal :=
  .next (clocked s (if (linkOf s n).state = .retrain then retrainDone (linkDown s n) n else s))

/-- What the training of a link is entered as: 1 UP, 2 peer mismatch, 3 failed (R368, R369). -/
def trainCode (s : State) (n : Nat) (r : TrainReport) : Nat :=
  let p := planned s n
  if !r.ok then 3 else if r.serial ≠ p.2.2 ∨ r.peerLink ≠ p.2.1 then 2 else 1

/-- Training ends: UP with each side's grants, or DOWN; a retrained link resumes with its replay (R236, R369). -/
def linkTrained (s : State) (n : Nat) (r : TrainReport) : State :=
  let x := linkOf s n
  let code := trainCode s n r
  match x.state with
  | .training =>
    let s := { s with folio := { s.folio with linkRep := Tbl.set s.folio.linkRep n (code, r.peerLink, r.lanes, r.serial) } }
    if code = 1 then
      pump (setLink s n { x with state := .up, upAsPlanned := true, half := r.lanes == 4, replay := [], replays := [],
                                 nextSeq := 0, rxNext := 0, nakWait := false, occ := [], owed := [], part := [], rx := [],
                                 credits := r.grants.zipIdx.map (fun p => (p.2, p.1)),
                                 grants := x.nextCredits.zipIdx.map (fun p => (p.2, p.1)), weights := x.nextWeights }) n
    else linkDown s n
  | .retrain =>
    if r.ok then
      pump (replayAll (payOwed (setLink s n { x with state := .up, replays := x.replays.map (fun _ => 0), nakWait := false }) n) n) n
    else linkDown s n
  | _ => s

def execLinkTraining (n : Fin 12) (r : TrainReport) (s : State) : Host.Outcome State Fault Refusal :=
  .next (clocked s (if (linkOf s n).state = .training ∨ (linkOf s n).state = .retrain then retrainDone (linkTrained s n r) n else s))

/-- The peer halves its direction and the receiver follows (R403). -/
def execLaneHalveMarker (n : Fin 12) (s : State) : Host.Outcome State Fault Refusal :=
  .next (clocked s (if (linkOf s n).state = .up then setLink s n { linkOf s n with half := true } else s))

/-- A recorded link begins to train (R235, R236). -/
def startTraining (s : State) (n : Nat) : State :=
  if recorded (gath s) n then setLink s n { linkOf s n with state := .training } else s

end Sys2Proof.Machine
end

