-- ==== Sys2Proof/Machine/SetData.lean ====
section
/-!
DEFINITION. Messages, geometry and data of sets: headers, routes, pieces, sources, destinations and residuals
(spec/11_links_and_collectives.md R240-R254, spec/12_compression.md R274-R278).
-/

namespace Sys2Proof.Machine

def updOf (s : State) (p : Nat) : Upd := Tbl.get updReset s.upd p
def setUpd (s : State) (p : Nat) (x : Upd) : State := { s with upd := Tbl.set s.upd p x }
def usetOf (x : Upd) (k : Nat) : USet := Tbl.get usetReset x.sets k
def setUset (x : Upd) (k : Nat) (v : USet) : Upd := { x with sets := Tbl.set x.sets k v }

/-! ### Messages (R247) -/

def kindCode : MsgKind → Nat
  | .chunk => 1 | .vote => 2 | .abort => 3 | .nack => 4 | .wcred => 5

def kindOf : Nat → Option MsgKind
  | 1 => some .chunk | 2 => some .vote | 3 => some .abort | 4 => some .nack | 5 => some .wcred | _ => none

def msgBytes (m : SetMsg) : List Byte :=
  natBytes 2 m.tag ++ natBytes 1 (kindCode m.kind) ++ natBytes 1 m.attempt ++ natBytes 4 m.step ++ natBytes 1 m.from_ ++
    natBytes 1 m.dest ++ natBytes 1 m.flags ++ natBytes 1 0 ++ natBytes 4 m.dseq ++ natBytes 4 m.chunk ++
    natBytes 4 m.payload.length ++ natBytes 4 m.cchk ++ natBytes 4 0 ++ m.payload

def msgOf (bs : List Byte) : Option SetMsg :=
  (kindOf (natAt bs 2 1)).map (fun k =>
    { tag := natAt bs 0 2, kind := k, attempt := natAt bs 3 1, step := natAt bs 4 4, from_ := natAt bs 8 1,
      dest := natAt bs 9 1, flags := natAt bs 10 1, dseq := natAt bs 12 4, chunk := natAt bs 16 4, cchk := natAt bs 24 4,
      payload := bytesAt bs 32 (natAt bs 20 4) })

/-- The configured set a tag names. -/
def setOfTag (s : State) (tag : Nat) : Option Nat :=
  (List.range 64).find? (fun k => match (setOf s k).cfg with | some c => c.tag == tag | none => false)

/-- The step of a set: that of its update units (R221, R247). -/
def stepOf (s : State) (k : Nat) (c : SetCfg) : Nat :=
  match (List.range 8).find? (fun p => c.parts.testBit p) with
  | some p => (usetOf (updOf s p) k).step.toNat
  | none => 0

/-! ### Geometry (R240-R243, R248-R250) -/

def extOf (c : SetCfg) (ax : Nat) : Nat := c.ext.getD ax 1

/-- Position of an ordinal on an axis (R243). -/
def posOf (c : SetCfg) (o ax : Nat) : Nat :=
  match ax with
  | 0 => o % extOf c 0
  | 1 => o / extOf c 0 % extOf c 1
  | _ => o / (extOf c 0 * extOf c 1)

/-- The ordinal with position `a` on an axis and the others as `o` has them. -/
def moveTo (c : SetCfg) (o ax a : Nat) : Nat :=
  let x := if ax = 0 then a else posOf c o 0
  let y := if ax = 1 then a else posOf c o 1
  let z := if ax = 2 then a else posOf c o 2
  x + extOf c 0 * (y + extOf c 1 * z)

/-- The neighbour in direction `d`: 0 +x, 1 −x, 2 +y, and so on. -/
def neighbour (c : SetCfg) (d : Nat) : Nat :=
  let ax := d / 2
  let n := extOf c ax
  moveTo c c.ord ax ((posOf c c.ord ax + (if d % 2 = 0 then 1 else n - 1)) % n)

/-- The link of a direction for a chunk: die 0 for even chunks (R242). -/
def dirLink (d chunk : Nat) : Nat := d + 6 * (chunk % 2)

/-- Links of this device to an ordinal of a Quadrille set, ascending (R241). -/
def pairLinks (s : State) (c : SetCfg) (o : Nat) : List Nat :=
  (List.range 12).filter (fun n => recorded (gath s) n && (planned s n).1 == c.members.getD o 0xFF)

def pairLink (s : State) (c : SetCfg) (o chunk : Nat) : Nat :=
  let ls := pairLinks s c o
  ls.getD (chunk % ls.length) 0

/-- The direction of the first hop toward an ordinal: x, then y, then z, the shorter way round, + on a tie (R242). -/
def routeDir (c : SetCfg) (o : Nat) : Nat :=
  match ([0, 1, 2] : List Nat).find? (fun ax => posOf c o ax != posOf c c.ord ax) with
  | some ax =>
    let n := extOf c ax
    let d := (posOf c o ax + n - posOf c c.ord ax) % n
    2 * ax + (if d ≤ n - d then 0 else 1)
  | none => 0

/-- The link toward an ordinal, by route or pair (R241, R242). -/
def linkTo (s : State) (c : SetCfg) (o chunk : Nat) : Nat :=
  if c.quad then pairLink s c o chunk else dirLink (routeDir c o) chunk

/-- Every link of a set (R256). -/
def setLinks (s : State) (c : SetCfg) : List Nat :=
  if c.quad then (List.range 12).filter (fun n => recorded (gath s) n && c.members.contains (planned s n).1 &&
    (planned s n).1 != c.members.getD c.ord 0xFF)
  else (List.range 12).filter (fun n => extOf c (n % 6 / 2) != 1)

def axes (c : SetCfg) : List Nat := ([0, 1, 2] : List Nat).filter (fun ax => extOf c ax != 1)

/-- The stages of a Reel operation: reductions along x, y, z, then all-gathers along z, y, x (R248, R250). -/
def planOf (op : SetOp) (c : SetCfg) : List (Bool × Nat) :=
  let red := (axes c).map (fun ax => (false, ax))
  let gat := (axes c).reverse.map (fun ax => (true, ax))
  if c.quad then []
  else match op with
    | .reduceScatter | .rsUpd => red
    | .allReduce => red ++ gat
    | .allGather | .agUpd => gat
    | _ => []

/-- The segment of an ordinal (R249): its number among N. -/
def segNo (c : SetCfg) (o : Nat) : Nat :=
  if c.quad then o else (posOf c o 0 * extOf c 1 + posOf c o 1) * extOf c 2 + posOf c o 2

/-- The ordinal that owns chunk `i` of a buffer of `count` chunks. -/
def ownerOf (c : SetCfg) (count i : Nat) : Nat :=
  ((List.range c.n).find? (fun o => segNo c o == i / (count / c.n))).getD 0

def segLen (c : SetCfg) (count : Nat) : Nat := count / c.n
def segBase (c : SetCfg) (count : Nat) : Nat := segNo c c.ord * segLen c count

/-! ### Trouble -/

/-- Why a data access of a set cannot be made: a fault, a fence, a failed check, or lines the host must give up. -/
inductive Trouble where
  | fail (addr bit : Nat) (sram : Bool)
  | fence
  | check
  /-- a residual or RSEL tile of a partition (R278) -/
  | rcheck (p : Nat)
  | wait (ls : List TrackLine) (inv : Bool)
  /-- a read of HBM was made, verified or not, and met the trouble: it is metered (R143, R148) -/
  | read (a n : Nat) (verified : Bool) (why : Trouble)
  deriving DecidableEq, Repr

/-- The class a set's accesses are metered under (R143). -/
def setClass (c : SetCfg) : Nat := if c.fill then 7 else 4

/-- Lines of the host an access must wait for; a class that is never granted waits for nothing else (R145, R376). -/
def setHeld (s : State) (c : SetCfg) (a n : Nat) (write : Bool) : Option Trouble :=
  let ls := trackedDev s a n write
  if !ls.isEmpty then some (.wait ls write) else if shutAt s (setClass c) a n then some (.wait [] write) else none

/-- Bytes read by a set, metered where they lie in HBM. -/
def setRead (s : State) (c : SetCfg) (sram : Bool) (a n : Nat) : Except Trouble (State × List Byte) :=
  if sram then
    (match sramPoisoned s a n with
     | some p => .error (.fail p errUe true)
     | none => .ok (sramCorrected s a n, sramRead s a n))
  else
    match devFault s a n with
    | some f => .error (if f.2 = errFenced then .fence else .fail f.1 f.2 false)
    | none =>
      match setHeld s c a n false with
      | some t => .error t
      | none =>
        match devPoisoned s a n with
        | some p => .error (.read a n false (.fail p errUe false))
        | none => .ok (apart s (setClass c) (fun s => meterRead s none (setClass c) a n), devRead s a n)

/-- Whole tiles that a write of class `cls` covers take their entries (R147). -/
def sealWhole (s : State) (cls a n : Nat) : State :=
  ((chunksIn a n).filter (fun c => c.2 == 4096)).foldl (fun s c => match accOf s c.1 with
    | .hbm h => tileSeal s cls h
    | _ => s) s

/-- The pieces of a tile written so far with one more, joined. -/
def joinPieces (x : Nat × Nat) (ps : List (Nat × Nat)) : List (Nat × Nat) :=
  match ps.foldr insertIv [x] with
  | [] => []
  | (a, b) :: rest => joinIv a b rest

/-- A piece of one tile written: the entry goes with the piece after which every byte of the tile has been written in its
current filling, and a new filling begins (R147). -/
def fillTile (cls : Nat) (x : State × List (Nat × Nat)) (a n : Nat) : State × List (Nat × Nat) :=
  let t := a / 4096 * 4096
  let other := x.2.filter (fun i => i.1 / 4096 * 4096 != t)
  let mine := if n = 4096 then [(t, t + 4096)] else joinPieces (a, a + n) (x.2.filter (fun i => i.1 / 4096 * 4096 == t))
  match accOf x.1 a with
  | .hbm h => if mine = [(t, t + 4096)] then (tileSeal x.1 cls h, other) else (x.1, other ++ mine)
  | _ => x

/-- Bytes written by a set, with the entries of the tiles it completes; `filled` holds the pieces of the others. -/
def setWrite (s : State) (c : SetCfg) (filled : List (Nat × Nat)) (sram : Bool) (a : Nat) (bs : List Byte) :
    Except Trouble (State × List (Nat × Nat)) :=
  if sram then .ok (sramWrite s a bs, filled)
  else
    match devFault s a bs.length with
    | some f => .error (if f.2 = errFenced then .fence else .fail f.1 f.2 false)
    | none =>
      match setHeld s c a bs.length true with
      | some t => .error t
      | none =>
        let x := (chunksIn a bs.length).foldl (fun x k => fillTile (setClass c) x k.1 k.2) (apart s (setClass c) (fun s => devWrite s (setClass c) a bs), filled)
        .ok x

/-- A piece of the running descriptor's output written. -/
def runWrite (s : State) (c : SetCfg) (r : SetRun) (a : Nat) (bs : List Byte) : Except Trouble (State × SetRun) := do
  let (s, f) ← setWrite s c r.filled r.body.dstSram a bs
  return (s, { r with filled := f })

/-- Tiles a range touches are read as a verifying consumer does, the extra bytes metered too (R148). -/
def setVerify (s : State) (c : SetCfg) (a n : Nat) : Except Trouble State :=
  let lo := a / 4096 * 4096
  match if n = 0 then none else setHeld s c lo ((a + n + 4095) / 4096 * 4096 - lo) false with
  | some t => .error t
  | none =>
    match (tilesOf s a n).findSome? (fun t =>
      match tilePoisoned s t with
      | some p => some (Trouble.fail p errUe false)
      | none => if tileOk s t then none else some .check) with
    | some t => .error (.read a n true t)
    | none => .ok (apart s (setClass c) (fun s => meterVerify s none (setClass c) a n))

/-- Bytes read from tiles that are verified (R148). -/
def setReadVerified (s : State) (c : SetCfg) (a n : Nat) : Except Trouble (State × List Byte) := do
  let s' ← setVerify s c a n
  let (_, bs) ← setRead s c false a n
  return (s', bs)

/-! ### Residuals (R276-R278) -/

/-- The residual chunk an element range of a source belongs to. -/
def resIndex (r : ResArea) (b : SetBody) (chunk : Nat) : Nat := (b.src + 16384 * chunk - r.srcwin) / 16384

def rselAddr (r : ResArea) (i : Nat) : Nat := r.rbase + r.size + i / 8

def rselBit (s : State) (r : ResArea) (i : Nat) : Bool := (natAt (devRead s (rselAddr r i) 1) 0 1).testBit (i % 8)

/-- The 8 KiB of a residual chunk in a plane of SIZE/2 bytes: two bytes an element (notes/assumptions/64.md). -/
def planeAddr (r : ResArea) (plane : Bool) (i : Nat) : Nat := r.rbase + (if plane then r.size / 2 else 0) + 8192 * i

/-- A residual or map tile verified (R278). -/
def resRead1 (s : State) (c : SetCfg) (r : ResArea) (a n : Nat) : Except Trouble (State × List Byte) :=
  match setReadVerified s c a n with
  | .error (.read a n v .check) => .error (.read a n v (.rcheck (hbmPart r.rbase)))
  | o => o

/-- The residual of a chunk, from the plane RSEL names, its tiles and the map's verified, all under class 4 (R277). -/
def resRead (s : State) (c : SetCfg) (r : ResArea) (i : Nat) : Except Trouble (State × List Val) := do
  let c := { c with fill := false }
  let (s, m) ← resRead1 s c r (rselAddr r i) 1
  let (s, bs) ← resRead1 s c r (planeAddr r ((natAt m 0 1).testBit (i % 8)) i) 8192
  return (s, bf16s 4096 bs)

/-- The new residual written to the other plane (R277). -/
def resWrite (s : State) (c : SetCfg) (r : ResArea) (i : Nat) (vs : List Val) : Except Trouble State := do
  let (s, _) ← setWrite s { c with fill := false } [] false (planeAddr r (!rselBit s r i) i) (bf16Bytes vs)
  return s

/-- A map tile with the bits of the residual chunks used flipped. -/
def flipTile (s : State) (r : ResArea) (used : List Nat) (t : Nat) : List Byte :=
  (devRead s t 4096).zipIdx.map (fun b => (used.filter (fun i => rselAddr r i == t + b.2)).foldl (fun v i =>
    v ^^^ BitVec.ofNat 8 (2 ^ (i % 8))) b.1)

/-- RSEL bits of the chunks used flip: the map tiles are written whole, with their entries (R277). -/
def flipRsel (s : State) (r : ResArea) (used : List Nat) : State :=
  ((used.map (fun i => rselAddr r i / 4096 * 4096)).eraseDups).foldl (fun s t => match accOf s t with
    | .hbm h => tileSeal (hbmWrite s 4 h (flipTile s r used t)) 4 h
    | _ => s) s

/-! ### Sources and destinations -/

/-- Address of a reducing operation's chunk, and of a 4 KiB chunk. -/
def srcDense (b : SetBody) (i : Nat) : Nat := b.src + 16384 * i

/-- This member's own dense values of a chunk (R274). -/
def sourceVals (s : State) (c : SetCfg) (b : SetBody) (i : Nat) : Except Trouble (State × List Val) := do
  let (s, bs) ← setRead s c b.srcSram (srcDense b i) 16384
  return (s, fp32s 4096 bs)

/-- The local value at a hop: what an earlier axis left, else the source (R274). -/
def localVals (s : State) (c : SetCfg) (r : SetRun) (i : Nat) : Except Trouble (State × List Val) :=
  match Tbl.get? r.held i with
  | some bs => .ok (s, fp32s 4096 bs)
  | none => sourceVals s c r.body i

/-- Working-copy bytes of 4,096 parameters, by conversion control word (R206, R261). -/
def copyBytes (ccw : Nat) : Nat :=
  match convOfWord ccw with
  | some c => if fmtIsBlock c.dst then fmtBlockBytes c.dst * (4096 / fmtBlock c.dst) else fmtBits c.dst * 512
  | none => 0

/-- An entry of a delivery table: partition, group and chunk (R260). -/
def deliveryEntry (s : State) (c : SetCfg) (aux i : Nat) : Except Trouble (State × Nat × Nat × Nat) := do
  let (s, bs) ← setReadVerified s c (aux + 8 * i) 8
  let w := BitVec.ofNat 64 (bytesNat bs)
  return (s, bits w 63 61, bits w 60 53, bits w 52 37)

/-- Stage P of a set's parity in one partition (R204, R261). -/
def stageBase (s : State) (p k : Nat) (g : UGroup) : Nat := if (usetOf (updOf s p) k).parity then g.wbase1 else g.wbase0

/-- The bytes of a working-copy chunk that this member owns, by its place in the segment (R261). -/
def workingChunk (s : State) (k : Nat) (c : SetCfg) (aux j : Nat) : Except Trouble (State × List Byte) := do
  let (s, e) ← deliveryEntry s c aux j
  match Tbl.get? (updOf s e.1).groups e.2.1 with
  | none => .error .check
  | some g =>
    let n := copyBytes g.ccw
    setRead s c false (stageBase s e.1 k g + n * e.2.2) n

/-- Bytes of one chunk of an all-gather, broadcast or permute. -/
def chunkBytes (s : State) (c : SetCfg) (b : SetBody) : Nat :=
  match b.op with
  | .agUpd =>
    (match deliveryEntry s c b.aux 0 with
     | .ok (_, e) => (match Tbl.get? (updOf s e.1).groups e.2.1 with
       | some g => copyBytes g.ccw
       | none => 0)
     | .error _ => 0)
  | _ => 4096

/-- The set codes the chunks of an operation with LTC (R269). -/
def ltcOp (c : SetCfg) (op : SetOp) : Bool := codeLtc c.code && (op == .allGather || op == .broadcast || op == .permute)

/-- A 4 KiB chunk as it travels: an LTC block where the set codes it (R285). -/
def travelForm (s : State) (c : SetCfg) (op : SetOp) (i : Nat) (raw : List Byte) : List Byte :=
  if ltcOp c op then ltcEncode (slotOf (cmpOf s (i % 8)) (codeLslot c.code)) (codeLslot c.code) raw
  else raw

end Sys2Proof.Machine
end

