-- ==== Sys2Proof/Machine/Sets.lean ====
section
/-!
DEFINITION. Sets: descriptors, chunks, window credits, the vote, aborts and re-sends (spec/11_links_and_collectives.md
R243-R266).
-/

namespace Sys2Proof.Machine

def updSet (s : State) (k : Nat) (f : SetSt → SetSt) : State := setSet s k (f (setOf s k))

/-! ### Sending (R247, R256, R265) -/

def mkMsg (s : State) (k : Nat) (c : SetCfg) (kind : MsgKind) (dest flags dseq chunk cchk : Nat) (payload : List Byte) : SetMsg :=
  { tag := c.tag, kind := kind, attempt := (setOf s k).attempt, step := stepOf s k c, from_ := c.ord, dest := dest,
    flags := flags, dseq := dseq, chunk := chunk, cchk := cchk, payload := payload }

def sendOn (s : State) (n v : Nat) (m : SetMsg) : State := sendMsg s n v (msgBytes m)

/-- The vote flags of a set: veto in bit 0, failure in bit 4 (R247). -/
def voteFlags (x : SetSt) : Nat := b2n x.vetoFlag + 16 * b2n x.failFlag

/-- A vote message with the mask in its payload (R255). -/
def sendVote (s : State) (k : Nat) (c : SetCfg) (dest link : Nat) : State :=
  let x := setOf s k
  sendOn s link 0 (mkMsg s k c .vote dest (voteFlags x) x.dseq 0 (crc32c (natBytes 8 x.mask.toNat)) (natBytes 8 x.mask.toNat))

/-- A flagged vote goes on at once to every next member (R256; notes/assumptions/24.md); a frozen set sends no vote (R263). -/
def floodVote (s : State) (k : Nat) (c : SetCfg) : State :=
  if (setOf s k).frozen then s
  else if c.quad then ((List.range c.n).filter (· != c.ord)).foldl (fun s o => sendVote s k c o (pairLink s c o 0)) s
  else (axes c).foldl (fun s ax => sendVote s k c (neighbour c (2 * ax)) (dirLink (2 * ax) 0)) s

/-- The member a link of the set leads to (R241, R247). -/
def linkMember (s : State) (c : SetCfg) (n : Nat) : Nat :=
  if c.quad then (c.members.findIdx? (· == (planned s n).1)).getD 0 else neighbour c (n % 6)

/-- ABORT on every link of the set (R256). -/
def sendAbort (s : State) (k : Nat) (c : SetCfg) (cause : Nat) : State :=
  (setLinks s c).foldl (fun s n => sendOn s n 0 (mkMsg s k c .abort (linkMember s c n) (2 * cause)
    (setOf s k).dseq 0 (crc32c []) [])) s

/-! ### Decisions (R256, R257, R266) -/

/-- Every slot of the work is released and the window credits are back (R256, R266). The flags of the vote stay to be seen
until the set takes up its next work (R258). -/
def releaseWork (x : SetSt) : SetSt :=
  { x with freed := (x.freed + x.retained.length + x.window) % 65536, retained := [], window := 0, early := [],
           nacks := [], wcred := [], usedRes := [], mask := 0, voteStage := 0, voteGot := 0, voteFrom := [] }

def nextAttempt (a : Nat) : Nat := if a = 255 then 1 else a + 1

/-- An event for the update units of PARTS; one whose partition is fenced loses it (R256, R264). -/
def tellUnits (s : State) (k : Nat) (c : SetCfg) (commit : Bool) : State :=
  ((List.range 8).filter (fun p => c.parts.testBit p && partActive s p)).foldl (fun s p =>
    let u := updOf s p
    let v := usetOf u k
    setUpd s p (setUset u k { v with events := v.events ++ [commit] })) s

/-- ABORT decided: the units are told, the attempt advances, everything of the work is released, and the work is redone
or the set enters HOLD (R256, R257). A veto held for the step outlives the abort (notes/assumptions/65.md). -/
def decideAbort (s : State) (k : Nat) (c : SetCfg) (cause : Nat) (flagged : Bool) : State :=
  let x := setOf s k
  let s := if x.round ∨ (x.run.map (fun r => r.body.op == .commit)).getD false then tellUnits s k c false else s
  let again := !flagged && (cause == 0 || cause == 2) && decide (x.redos < c.retry)
  let bodies := x.done ++ (match x.run with | some r => [r.body] | none => [])
  let s := setSet s k { releaseWork x with
    phase := if again then .run else .hold, redos := if again then x.redos + 1 else x.redos,
    attempt := nextAttempt x.attempt, aborted := some x.attempt, queue := bodies ++ x.queue, done := [], run := none,
    round := false, dseq := (x.dseq + 2 ^ 32 - x.done.length) % 2 ^ 32 }
  if again then s else raiseVector s 18

/-- A member that has not entered the vote originates an ABORT (R256). -/
def originateAbort (s : State) (k : Nat) (c : SetCfg) (cause : Nat) : State :=
  match (setOf s k).phase with
  | .run => decideAbort (sendAbort s k c cause) k c cause false
  | _ => s

/-- A descriptor fails on this member: its vote carries the failure and the set enters HOLD (R246, R255). -/
def failWork (s : State) (k : Nat) (c : SetCfg) : State :=
  let s := updSet s k (fun x => { x with failFlag := true, vetoFlag := false, mask := x.mask ||| BitVec.ofNat 64 (2 ^ c.ord) })
  decideAbort (floodVote s k c) k c 1 true

def setErrBit (s : State) (b : Nat) : State := { s with setErr := setBit s.setErr b }

/-- Partition of an address a fault names. -/
def faultPart (addr : Nat) (sram : Bool) : Nat :=
  if sram then (if addr < 0x50000000 then addr / 0x1000000 / 10 else (addr - 0x60000000) / 0x2000000)
  else if addr < 0x10000000000 then hbmPart addr else 0

/-- What a trouble met in the work does (R246, R264, R265, R278, R376). -/
def handleTrouble (s : State) (k : Nat) (c : SetCfg) (t : Trouble) : State :=
  match t with
  | .fail a b sram => failWork (memError s (faultPart a sram) b a sram) k c
  | .fence => originateAbort s k c 3
  | .check => originateAbort s k c 2
  | .rcheck p => originateAbort (setCmp s p { cmpOf s p with err := setBit (cmpOf s p).err 4 }) k c 2
  | .wait ls inv => sendSnoops s ls inv
  | .read a n v why =>
    handleTrouble (apart s (setClass c) (fun s => (if v then meterVerify else meterRead) s none (setClass c) a n)) k c why

/-- COMMIT decided: RSEL bits flip, units are told, tokens are posted; a COMMIT's own post waits for the commit records
(R245, R256, R277). -/
def decideCommit (s : State) (k : Nat) (c : SetCfg) : State :=
  let x := setOf s k
  let bodies := x.done ++ (match x.run with | some r => [r.body] | none => [])
  let commit := bodies.getLast?.map (·.op) == some .commit
  let s := match x.res with
    | some r => flipRsel s r x.usedRes
    | none => s
  let s := if commit then tellUnits s k c true else s
  let parts := if commit then (List.range 8).filter (fun p => c.parts.testBit p) else []
  let waits (b : SetBody) : Bool := b.op == .commit && !parts.isEmpty
  let s := setSet s k { releaseWork x with
    phase := .idle, redos := 0, attempt := if commit then nextAttempt x.attempt else x.attempt, done := [], run := none,
    round := false, dseq := (x.dseq + 1) % 2 ^ 32, vetoFlag := false, failFlag := false,
    commitWait := x.commitWait ++ (bodies.filter (fun b => b.post && waits b)).map (fun b => (b.token, parts)) }
  (bodies.filter (fun b => b.post && !waits b)).foldl (fun s b => sendPost s (.setQueue k) c.fill b.token) s

/-- The commit record of a partition is visible to the oldest COMMIT that waits for it; after its last one that COMMIT's post
is made (R245). -/
def commitSeen (s : State) (k p : Nat) : State :=
  let x := setOf s k
  match x.commitWait.findIdx? (fun w => w.2.contains p), x.cfg with
  | some i, some c =>
    let w := x.commitWait.getD i (0, [])
    let left := w.2.filter (· != p)
    if left.isEmpty then sendPost (setSet s k { x with commitWait := x.commitWait.eraseIdx i }) (.setQueue k) c.fill w.1
    else setSet s k { x with commitWait := x.commitWait.set i (w.1, left) }
  | _, _ => s

/-! ### The vote (R255, R256, R258) -/

def fullMask (c : SetCfg) : W64 := BitVec.ofNat 64 (2 ^ c.n - 1)

/-- A vote taken now would have to be sent on: a frozen set keeps it until it is thawed (R263). -/
def voteSendsOn (c : SetCfg) (x : SetSt) : Bool :=
  !c.quad && (match (axes c)[x.voteStage]? with
    | some ax => decide (x.voteGot + 2 < extOf c ax) || ((axes c)[x.voteStage + 1]?).isSome
    | none => false)

/-- A vote of the stage is taken: masks joined, passed on, the next stage begun, the decision made when the mask is
full. Votes of later stages wait among the early messages. -/
def takeVote (s : State) (k : Nat) (c : SetCfg) (link : Nat) (m : SetMsg) : State :=
  let x := setOf s k
  let mask := x.mask ||| BitVec.ofNat 64 (natAt m.payload 0 8)
  if c.quad then
    let s := setSet s k { x with mask := mask, voteFrom := m.from_ :: x.voteFrom }
    if mask = fullMask c then decideCommit s k c else s
  else
    match (axes c)[x.voteStage]? with
    | none => s
    | some ax =>
      if link % 6 / 2 ≠ ax then setSet s k { x with early := x.early ++ [(link, m)] }
      else
        let got := x.voteGot + 1
        if got + 1 < extOf c ax then
          sendVote (setSet s k { x with mask := mask, voteGot := got }) k c (neighbour c (2 * ax)) (dirLink (2 * ax) 0)
        else
          let s := setSet s k { x with mask := mask, voteGot := 0, voteStage := x.voteStage + 1 }
          match (axes c)[x.voteStage + 1]? with
          | some nx => sendVote s k c (neighbour c (2 * nx)) (dirLink (2 * nx) 0)
          | none => if mask = fullMask c then decideCommit s k c else s

/-- Early votes taken up as long as one fits the stage. -/
def earlyVotes : Nat → State → Nat → SetCfg → State
  | 0, s, _, _ => s
  | fuel + 1, s, k, c =>
    let x := setOf s k
    if x.phase ≠ .vote ∧ x.phase ≠ .doubt then s
    else
      let fits (e : Nat × SetMsg) : Bool := e.2.kind == .vote && !(x.frozen && voteSendsOn c x) &&
        (c.quad || (axes c)[x.voteStage]? == some (e.1 % 6 / 2))
      match x.early.find? fits with
      | none => s
      | some e => earlyVotes fuel (takeVote (setSet s k { x with early := x.early.eraseP fits }) k c e.1 e.2) k c

/-- This member's part of the descriptor is complete (R255). -/
def runComplete (c : SetCfg) (r : SetRun) : Bool :=
  let n := r.body.count
  r.toSend.isEmpty &&
  (match r.body.op with
   | .barrier | .commit => true
   | .broadcast => r.body.arg == c.ord || r.stored.length == n
   | .permute => decide (r.len ≤ r.stored.length)
   | .allToAll => (List.range c.n).all (fun o => match Tbl.get? r.rows o with
      | some n => o == c.ord || (r.got.filter (fun g => g.1 == o)).length == n
      | none => false)
   | .reduceScatter | .rsUpd =>
     if c.quad then r.stored.length == segLen c n else r.stage == (planOf r.body.op c).length
   | .allReduce | .allGather | .agUpd =>
     if c.quad then r.stored.length == n else r.stage == (planOf r.body.op c).length)

/-- Every partition of PARTS has reached APPLIED (R222, R255). -/
def unitsApplied (s : State) (k : Nat) (c : SetCfg) : Bool :=
  (List.range 8).all (fun p => !c.parts.testBit p || (usetOf (updOf s p) k).st == .applied)

/-- A member enters the vote with its own bit and its flags, for COMMIT once no census record of the round is outstanding; a
flagged vote decides ABORT at once (R98, R255, R256). -/
def voteEnter (s : State) (k : Nat) : State :=
  let x := setOf s k
  match x.cfg, x.run with
  | some c, some r =>
    if x.phase ≠ .run || x.frozen || !runComplete c r || (x.round && r.body.op != .commit) ||
        (r.body.op == .commit && (!unitsApplied s k c || (c.parts != 0 && censusOpen s (stepOf s k c)))) then s
    else
      let step := stepOf s k c
      let veto := r.body.op == .commit && x.vetoes.contains step
      let s := setSet s k { x with phase := .vote, mask := BitVec.ofNat 64 (2 ^ c.ord), vetoFlag := veto,
                                   failFlag := false, vetoes := if r.body.op = .commit then x.vetoes.filter (· != step) else x.vetoes,
                                   voteStage := 0, voteGot := 0, voteFrom := [] }
      if veto then decideAbort (floodVote s k c) k c 1 true
      else
        let s := if c.quad then floodVote s k c
          else match (axes c)[0]? with
            | some ax => sendVote s k c (neighbour c (2 * ax)) (dirLink (2 * ax) 0)
            | none => s
        earlyVotes (x.early.length + 1) s k c
  | _, _ => s

def execVoteEnter (k : Fin 64) (s : State) : Host.Outcome State Fault Refusal := .next (clocked s (voteEnter s k))

/-! ### Forming and sending chunks (R248, R265, R274) -/

def zeros4096 : List Val := List.replicate 4096 valZero

/-- A chunk formed at this member's hop, its residual written where the code is lossy (R274, R277). -/
def formHop (s : State) (k : Nat) (c : SetCfg) (r : SetRun) (i : Nat) (x l : List Val) : Except Trouble (State × List Byte) := do
  let g := gcodeOf c.code
  if lossy g then
    match (setOf s k).res with
    | none => .error .check
    | some a =>
      let j := resIndex a r.body i
      let (s, res) ← resRead s c a j
      let (p, e) := hopCode g x l res
      let s ← resWrite s c a j e
      return (updSet s k (fun x => { x with usedRes := if x.usedRes.contains j then x.usedRes else x.usedRes ++ [j] }), p)
  else return (s, (hopCode g x l zeros4096).1)

/-- An operation that reduces. -/
def reducing (op : SetOp) : Bool := op == .allReduce || op == .reduceScatter || op == .rsUpd

/-- Chunk `i` needs the compression engines of partition `i mod 8` for its hop, its encoding or its decoding, and a fence has taken
them (R279, R289). -/
def enginesGone (s : State) (c : SetCfg) (op : SetOp) (i : Nat) : Bool := (reducing op || ltcOp c op) && !partActive s (i % 8)

/-- What a chunk to send holds: as formed already, this member's own value, or a chunk of an all-gather. -/
def formSend (s : State) (k : Nat) (c : SetCfg) (r : SetRun) (e : ToSend) : Except Trouble (State × List Byte × Nat) :=
  match e.ready with
  | some p => .ok (s, p)
  | none =>
    match Tbl.get? r.coded e.chunk with
    | some p => .ok (s, p)
    | none => do
      if enginesGone s c r.body.op e.chunk then throw .fence
      match r.body.op with
      | .allReduce | .reduceScatter | .rsUpd =>
        let (s, l) ← localVals s c r e.chunk
        let (s, p) ← formHop s k c r e.chunk zeros4096 l
        return (s, p, crc32c p)
      | .agUpd =>
        let (s, p) ← workingChunk s k c r.body.aux (e.chunk - segBase c r.body.count)
        return (s, p, crc32c p)
      | .allGather =>
        let (s, raw) ← setRead s c r.body.srcSram (r.body.src + 4096 * (e.chunk - segBase c r.body.count)) 4096
        let p := travelForm s c r.body.op e.chunk raw
        return (s, p, crc32c p)
      | _ =>
        let (s, raw) ← setRead s c r.body.srcSram (r.body.src + 4096 * e.chunk) 4096
        let p := travelForm s c r.body.op e.chunk raw
        return (s, p, crc32c p)

/-- Retention slots of a set's staging area beside its window slots, 16 KiB each (R243; notes/assumptions/25.md). -/
def upstream (c : SetCfg) : Nat :=
  if c.quad then c.n - 1 else (((axes c).flatMap (fun ax => [neighbour c (2 * ax), neighbour c (2 * ax + 1)])).eraseDups).length

def retainSlots (c : SetCfg) : Nat := c.ssize / 16384 - 2 * c.win * upstream c

def creditOf (x : SetSt) (c : SetCfg) (key : Nat) : Nat := Tbl.get c.win x.wcred key

/-- One chunk sent: a window credit is spent and a retention slot keeps a copy (R247, R265). -/
def sendChunk (s : State) (k : Nat) (c : SetCfg) (r : SetRun) (e : ToSend) : Except Trouble State := do
  let (s, p, ck) ← formSend s k c r e
  let x := setOf s k
  let m := mkMsg s k c .chunk e.dest 0 x.dseq e.chunk ck p
  let s := setSet s k { x with wcred := Tbl.set x.wcred e.key (creditOf x c e.key - 1),
                               retained := x.retained ++ [⟨m, e.link, 0, ltcOp c r.body.op⟩], alloc := (x.alloc + 1) % 65536 }
  return sendOn s e.link c.vc m

/-! ### Stages of Reel (R248, R250) -/

/-- Chunks of a piece in ascending order that travel in the + or − direction of an axis. -/
def pieceHalf (base pl p : Nat) (upper : Bool) : List Nat :=
  let h := pl / 2
  (List.range (if upper then pl - h else h)).map (fun j => base + p * pl + (if upper then h else 0) + j)

/-- Base and length of the pieces of a stage. -/
def pieceBase (c : SetCfg) (r : SetRun) (gather : Bool) (ax : Nat) : Nat := if gather then r.base - posOf c c.ord ax * r.len else r.base
def pieceLen (c : SetCfg) (r : SetRun) (gather : Bool) (ax : Nat) : Nat := if gather then r.len else r.len / extOf c ax

/-- The number of the piece a chunk of a stage belongs to. -/
def pieceAt (c : SetCfg) (r : SetRun) (gather : Bool) (ax i : Nat) : Nat :=
  (i - pieceBase c r gather ax) / max 1 (pieceLen c r gather ax)

/-- The direction a chunk of a stage travels in: lower halves on the + ring, upper halves on the − ring (R248). -/
def chunkDir (c : SetCfg) (r : SetRun) (gather : Bool) (ax i : Nat) : Nat :=
  let pl := pieceLen c r gather ax
  2 * ax + (if (i - pieceBase c r gather ax) % max 1 pl < pl / 2 then 0 else 1)

/-- What a member sends first in a stage (R248, R250). -/
def firstSends (c : SetCfg) (r : SetRun) : List ToSend :=
  match (planOf r.body.op c)[r.stage]? with
  | none => []
  | some (gather, ax) =>
    let n := extOf c ax
    let a := posOf c c.ord ax
    let entry (d : Nat) (i : Nat) : ToSend := ⟨i, neighbour c d, dirLink d i, d, none⟩
    let base := pieceBase c r gather ax
    let pl := pieceLen c r gather ax
    let plus := if gather then a else (a + n - 1) % n
    let minus := if gather then a else (a + 1) % n
    (pieceHalf base pl plus false).map (entry (2 * ax)) ++ (pieceHalf base pl minus true).map (entry (2 * ax + 1))

/-- A stage begins. -/
def beginStage (c : SetCfg) (r : SetRun) : SetRun := { r with got := [], toSend := r.toSend ++ firstSends c r }

/-! ### Step boundaries (R248, R263) -/

/-- The step at which a chunk of a stage leaves this member in direction `d`; it came one step earlier (R248, R250). -/
def outStep (c : SetCfg) (r : SetRun) (gather : Bool) (ax d i : Nat) : Nat :=
  let n := extOf c ax
  let a := posOf c c.ord ax
  let p := pieceAt c r gather ax i
  match gather, d % 2 with
  | false, 0 => (a + 2 * n - 1 - p) % n
  | false, _ => (p + 2 * n - a - 1) % n
  | true, 0 => (a + n - p) % n
  | true, _ => (p + n - a) % n

/-- The last step of the stage of which this member has sent anything. -/
def stepBegun (c : SetCfg) (r : SetRun) : Option Nat :=
  match (planOf r.body.op c)[r.stage]? with
  | none => none
  | some (gather, ax) =>
    let mine := (firstSends c r).map (fun e => (e.key, e.chunk)) ++
      r.got.filter (fun g => decide (outStep c r gather ax g.1 g.2 + 1 < extOf c ax))
    let sent := mine.filter (fun g => !r.toSend.any (fun e => e.key == g.1 && e.chunk == g.2))
    sent.foldl (fun m g => match m with
      | some t => some (max t (outStep c r gather ax g.1 g.2))
      | none => some (outStep c r gather ax g.1 g.2)) none

/-- A chunk that a freezing set leaves unsent: it belongs to a step of the stage that is not begun (R263). -/
def freezeKeeps (c : SetCfg) (r : SetRun) (e : ToSend) : Bool :=
  ((firstSends c r).any (fun f => f.key == e.key && f.chunk == e.chunk) || r.got.contains (e.key, e.chunk)) &&
  (match (planOf r.body.op c)[r.stage]?, stepBegun c r with
   | some (gather, ax), some t => decide (t < outStep c r gather ax e.key e.chunk)
   | some _, none => true
   | none, _ => false)

/-- Every piece of the current step has been sent and received (R263). -/
def atBoundary (c : SetCfg) (r : SetRun) (complete : Bool) : Bool :=
  match (planOf r.body.op c)[r.stage]?, stepBegun c r with
  | some (gather, ax), some t =>
    r.toSend.all (freezeKeeps c r) && (List.range (t + 1)).all (fun u =>
      (r.got.filter (fun g => outStep c r gather ax g.1 g.2 == u + 1)).length == pieceLen c r gather ax)
  | some _, none => true
  | none, _ => complete

/-- Chunks sent in order as far as window credits and retention slots go; an exhausted window holds back its own. -/
def pumpGo (k : Nat) (c : SetCfg) (r : SetRun) : List ToSend → State → List Nat → List ToSend → State × List ToSend × Option Trouble
  | [], s, _, kept => (s, kept.reverse, none)
  | e :: rest, s, blocked, kept =>
    let x := setOf s k
    if blocked.contains e.key then pumpGo k c r rest s blocked (e :: kept)
    else if creditOf x c e.key = 0 then pumpGo k c r rest s (e.key :: blocked) (e :: kept)
    else if retainSlots c ≤ x.retained.length then (s, kept.reverse ++ e :: rest, none)
    else
      match sendChunk s k c r e with
      | .ok s => pumpGo k c r rest s blocked kept
      | .error t => (s, kept.reverse ++ e :: rest, some t)

/-- Accesses of a descriptor under which the global interleave was rewritten (R135). -/
def setLoosely (s : State) (k : Nat) (f : State → State) : State := loosely ((setOf s k).run.any (·.loose)) s f

def sendDue (s : State) (k : Nat) : State :=
  let x := setOf s k
  match x.cfg, x.run with
  | some c, some r =>
    if x.phase ≠ .run ∨ x.frozen then s
    else
      let keep := r.toSend.filter (fun e => x.freezing && freezeKeeps c r e)
      let (s, left, t) := pumpGo k c r (r.toSend.filter (fun e => !(x.freezing && freezeKeeps c r e))) s [] []
      let s := updSet s k (fun x => { x with run := x.run.map (fun r => { r with toSend := left ++ keep }) })
      match t with
      | some t => handleTrouble s k c t
      | none => s
  | _, _ => s

/-- Whatever the running descriptor has to send goes as far as it can. -/
def pumpSet (s : State) (k : Nat) : State := setLoosely s k (fun s => sendDue s k)

/-- The region after a stage (R248-R250). -/
def endStage (c : SetCfg) (r : SetRun) : SetRun :=
  match (planOf r.body.op c)[r.stage]? with
  | none => r
  | some (gather, ax) =>
    let n := extOf c ax
    let a := posOf c c.ord ax
    if gather then { r with stage := r.stage + 1, base := r.base - a * r.len, len := r.len * n }
    else { r with stage := r.stage + 1, base := r.base + a * (r.len / n), len := r.len / n }

/-- Chunks a stage receives. -/
def stageExpect (c : SetCfg) (r : SetRun) : Nat :=
  match (planOf r.body.op c)[r.stage]? with
  | none => 0
  | some (gather, ax) => (extOf c ax - 1) * (if gather then r.len else r.len / extOf c ax)

def setRun (s : State) (k : Nat) (r : SetRun) : State := updSet s k (fun x => { x with run := some r })

/-! ### Receiving chunks (R248-R254, R260, R265) -/

/-- What a chunk's payload says, once its check and its code hold (R265, R271, R285). -/
inductive Content where
  | vals (vs : List Val)
  | raw (bs : List Byte)
  deriving DecidableEq, Repr

def contentOf (s : State) (c : SetCfg) (b : SetBody) (m : SetMsg) : Option Content :=
  if crc32c m.payload ≠ m.cchk then none
  else
    match b.op with
    | .allReduce | .reduceScatter | .rsUpd =>
      if m.payload.length = gcodeBytes (gcodeOf c.code) then (gExpand (gcodeOf c.code) m.payload).map .vals else none
    | .allGather | .broadcast | .permute =>
      if codeLtc c.code then
        (match ltcDecode (slotOf (cmpOf s (m.chunk % 8))) (fun _ => true) m.payload with
         | .ok raw => some (.raw raw)
         | _ => none)
      else if m.payload.length = 4096 then some (.raw m.payload) else none
    | _ => some (.raw m.payload)

/-- LSQ: the sum of squares of this member's own piece of a chunk, rounded once (R260). -/
def lsqOf (vs : List Val) : W32 := BitVec.ofNat 32 (fp32Of (vs.foldl (fun a v => valAdd a (valMul v v)) valZero))

/-- A reduced chunk handed to its update unit; one of a fenced partition finds it FENCED (R260, R264). -/
def deliverChunk (s : State) (k : Nat) (c : SetCfg) (r : SetRun) (i link src : Nat) (d : List Val) (good : Bool) :
    Except Trouble (State × SetRun) := do
  let (s, e) ← deliveryEntry s c r.body.aux (i - segBase c r.body.count)
  let (s, own) ← sourceVals s c r.body i
  if !partActive s e.1 then throw .fence
  let u := updOf s e.1
  let x : Deliv := ⟨k, e.2.1, e.2.2, (setOf s k).attempt, lsqOf own, fp32Bytes d, good, link, src, i⟩
  return (setUpd s e.1 { u with deliver := u.deliver ++ [x] },
    { r with delivered := r.delivered + 1, stored := if good then r.stored ++ [i] else r.stored })

/-- A reduced chunk of this member's own segment: delivered, stored, or coded for the all-gather (R260, R275). -/
def finishOwn (s : State) (k : Nat) (c : SetCfg) (r : SetRun) (i link src : Nat) (x l : List Val) :
    Except Trouble (State × SetRun) := do
  match r.body.op with
  | .rsUpd => deliverChunk s k c r i link src ((x.zip l).map (fun t => rneF32 (valAdd t.1 t.2))) true
  | .reduceScatter =>
    let d := (x.zip l).map (fun t => rneF32 (valAdd t.1 t.2))
    let (s, r) ← runWrite s c r (r.body.dst + 16384 * (i - segBase c r.body.count)) (fp32Bytes d)
    return (s, { r with held := Tbl.set r.held i (fp32Bytes d), stored := r.stored ++ [i] })
  | _ =>
    let (s, p) ← formHop s k c r i x l
    let d := (gExpand (gcodeOf c.code) p).getD zeros4096
    let (s, r) ← runWrite s c r (srcDense { r.body with src := r.body.dst } i) (fp32Bytes d)
    return (s, { r with coded := Tbl.set r.coded i (p, crc32c p), stored := r.stored ++ [i] })

/-- A coded or raw chunk of an all-gather stored at DST (R250, R261, R285). -/
def storeGathered (s : State) (c : SetCfg) (r : SetRun) (m : SetMsg) (v : Content) : Except Trouble (State × SetRun) := do
  let (a, bs) : Nat × List Byte := match v with
    | .vals vs => (r.body.dst + 16384 * m.chunk, fp32Bytes vs)
    | .raw bs => (r.body.dst + bs.length * m.chunk, bs)
  let (s, r) ← runWrite s c r a bs
  return (s, { r with coded := Tbl.set r.coded m.chunk (m.payload, m.cchk), stored := r.stored ++ [m.chunk] })

/-- A Reel chunk of the present stage (R248-R250). -/
def takeReel (s : State) (k : Nat) (c : SetCfg) (r : SetRun) (gather : Bool) (ax d link : Nat) (m : SetMsg) (v : Content) :
    Except Trouble (State × SetRun) := do
  let n := extOf c ax
  let a := posOf c c.ord ax
  let p := pieceAt c r gather ax m.chunk
  let r := { r with got := r.got ++ [(d, m.chunk)] }
  let on (payload : List Byte) (ck : Nat) : ToSend := ⟨m.chunk, neighbour c d, dirLink d m.chunk, d, some (payload, ck)⟩
  if gather then
    let (s, r) ← storeGathered s c r m v
    let next := (a + (if d % 2 = 0 then 1 else n - 1)) % n
    return (s, if next = p then r else { r with toSend := r.toSend ++ [on m.payload m.cchk] })
  else
    match v with
    | .raw _ => .error .check
    | .vals x =>
      let (s, l) ← localVals s c r m.chunk
      if p = a then
        let lastRed := !((planOf r.body.op c).drop (r.stage + 1)).any (fun g => !g.1)
        if lastRed then finishOwn s k c r m.chunk link m.from_ x l
        else
          let dv := (x.zip l).map (fun t => rneF32 (valAdd t.1 t.2))
          return (s, { r with held := Tbl.set r.held m.chunk (fp32Bytes dv) })
      else
        let (s, p) ← formHop s k c r m.chunk x l
        return (s, { r with toSend := r.toSend ++ [on p (crc32c p)] })

/-- The fixed order of a Quadrille sum (R252). -/
def quadSum (c : SetCfg) (r : SetRun) (i : Nat) (own : List Val) : List Val × List Val :=
  let others := (List.range (c.n - 1)).map (fun t => (c.ord + 1 + t) % c.n)
  let vs := others.map (fun o => (gExpand (gcodeOf c.code) (Tbl.get [] r.contrib (i * 64 + o))).getD zeros4096)
  let add (a b : List Val) : List Val := (a.zip b).map (fun t => rneF32 (valAdd t.1 t.2))
  match vs with
  | [] => (own, zeros4096)
  | v :: rest => (rest.foldl add v, own)

/-- A Quadrille chunk (R252). -/
def takeQuad (s : State) (k : Nat) (c : SetCfg) (r : SetRun) (link : Nat) (m : SetMsg) (v : Content) :
    Except Trouble (State × SetRun) := do
  let i := m.chunk
  let owner := ownerOf c r.body.count i
  let reducing := r.body.op == .allReduce || r.body.op == .reduceScatter || r.body.op == .rsUpd
  if reducing && owner == c.ord then
    let r := { r with contrib := Tbl.set r.contrib (i * 64 + m.from_) m.payload }
    let all := (List.range c.n).all (fun o => o == c.ord || (Tbl.get? r.contrib (i * 64 + o)).isSome)
    if !all then return (s, r)
    else
      let (s, own) ← sourceVals s c r.body i
      let (x, l) := quadSum c r i own
      match r.body.op with
      | .allReduce =>
        let total := (x.zip l).map (fun t => rneF32 (valAdd t.1 t.2))
        let (s, r) ← finishOwn s k c r i link m.from_ total zeros4096
        let p := (Tbl.get? r.coded i).getD ([], 0)
        let others := (List.range (c.n - 1)).map (fun t => (c.ord + 1 + t) % c.n)
        return (s, { r with toSend := r.toSend ++ others.map (fun o => ⟨i, o, pairLink s c o i, o, some p⟩) })
      | _ => finishOwn s k c r i link m.from_ x l
  else storeGathered s c r m v

/-- Where a broadcast chunk goes on from a member: along its own axis unless the ring closes, and along the later axes
(R251). -/
def broadcastSends (c : SetCfg) (root i : Nat) (ready : Option (List Byte × Nat)) : List ToSend :=
  let differs (ax : Nat) : Bool := posOf c c.ord ax != posOf c root ax
  let first := (([2, 1, 0] : List Nat).find? differs).getD 0
  ((axes c).filter (fun ax => decide (first ≤ ax) &&
    (posOf c c.ord ax + 1) % extOf c ax != posOf c root ax)).map (fun ax =>
      ⟨i, neighbour c (2 * ax), dirLink (2 * ax) i, 2 * ax, ready⟩)

/-- A broadcast chunk: stored, then sent on along x, y and z (R251). -/
def takeBroadcast (s : State) (c : SetCfg) (r : SetRun) (m : SetMsg) (v : Content) : Except Trouble (State × SetRun) := do
  let (s, r) ← storeGathered s c r m v
  if c.quad then return (s, r)
  else return (s, { r with toSend := r.toSend ++ broadcastSends c r.body.arg m.chunk (some (m.payload, m.cchk)) })

/-- A permuted chunk is written at its destination index; a second arrival fails the descriptor (R253). -/
def takePermute (s : State) (c : SetCfg) (r : SetRun) (m : SetMsg) (v : Content) : Except Trouble (State × SetRun) := do
  match v with
  | .raw bs =>
    let (s, r) ← runWrite s c r (r.body.dst + 4096 * m.chunk) bs
    return (s, { r with stored := r.stored ++ [m.chunk] })
  | .vals _ => .error .check

/-- ROWB of an all-to-all (R254). -/
def rowBytes (s : State) (b : SetBody) : Nat := natAt (devRead s b.aux 4) 0 4

/-- The rest of a source's share is zeroed and its row count written (R254). -/
def closeShare (s : State) (c : SetCfg) (r : SetRun) (src rows : Nat) : Except Trouble (State × SetRun) := do
  let rb := rowBytes s r.body
  let cap := r.body.arg
  let (s, r) ← runWrite s c r (r.body.dst + (src * cap + rows) * rb) (List.replicate ((cap - rows) * rb) 0#8)
  runWrite s c r (r.body.dst + c.n * cap * rb + 4 * src) (natBytes 4 rows)

/-- A row of an all-to-all, or the empty message that ends a source's rows (R254; notes/assumptions/26.md). -/
def takeRow (s : State) (c : SetCfg) (r : SetRun) (m : SetMsg) : Except Trouble (State × SetRun) := do
  if m.payload.isEmpty then
    let (s, r) ← closeShare s c r m.from_ m.chunk
    return (s, { r with rows := Tbl.set r.rows m.from_ m.chunk })
  else
    let (s, r) ← runWrite s c r (r.body.dst + (m.from_ * r.body.arg + m.chunk) * rowBytes s r.body) m.payload
    return (s, { r with got := r.got ++ [(m.from_, m.chunk)] })

/-- A checked chunk has its effect. -/
def takeContent (s : State) (k : Nat) (c : SetCfg) (r : SetRun) (link : Nat) (m : SetMsg) (v : Content) :
    Except Trouble (State × SetRun) :=
  match r.body.op with
  | .broadcast => takeBroadcast s c r m v
  | .permute => takePermute s c r m v
  | .allToAll => takeRow s c r m
  | _ =>
    if c.quad then takeQuad s k c r link m v
    else
      match (planOf r.body.op c)[r.stage]? with
      | some (gather, ax) => takeReel s k c r gather ax (chunkDir c r gather ax m.chunk) link m v
      | none => .error .check

/-- The chunk belongs to the present stage: its axis, and not yet received in it (R248, R250). -/
def chunkFits (c : SetCfg) (r : SetRun) (link : Nat) (m : SetMsg) : Bool :=
  match r.body.op with
  | .broadcast | .permute | .allToAll | .barrier | .commit => true
  | _ =>
    if c.quad then true
    else
      match (planOf r.body.op c)[r.stage]? with
      | none => false
      | some (gather, ax) =>
        let d := chunkDir c r gather ax m.chunk
        let n := extOf c ax
        let a := posOf c c.ord ax
        let p := pieceAt c r gather ax m.chunk
        link % 6 / 2 == ax && !r.got.contains (d, m.chunk) &&
          (gather || p != (if d % 2 = 0 then (a + n - 1) % n else (a + 1) % n))

/-- One window credit returned to the sender of a chunk, its slot freed (R247, R266); CHUNK 1 marks a routed one
(notes/assumptions/26.md). -/
def returnWindow (s : State) (k : Nat) (c : SetCfg) (op : SetOp) (link from_ : Nat) : State :=
  let routed := op == .permute || op == .allToAll
  let s := updSet s k (fun x => { x with window := x.window - 1, freed := (x.freed + 1) % 65536 })
  let n := if routed then linkTo s c from_ 0 else link
  sendOn s n 0 (mkMsg s k c .wcred from_ 0 (setOf s k).dseq (b2n routed) (crc32c []) [])

/-- Failures of one chunk are counted, and a NACK asks its sender for it again; the fifth aborts (R265). The chunk's window
slot is free: the copy takes one of its own. -/
def chunkBad (s : State) (k : Nat) (c : SetCfg) (link : Nat) (m : SetMsg) : State :=
  let x := setOf s k
  let stage := (x.run.map (·.stage)).getD 0
  let same (e : ChunkFail) : Bool := e.from_ == m.from_ && e.dseq == m.dseq && e.stage == stage && e.chunk == m.chunk
  let times := ((x.nacks.find? same).map (·.times)).getD 0 + 1
  let s := setSet s k { x with
    nack := satInc 0xFFFF x.nack, window := x.window - 1, freed := (x.freed + 1) % 65536,
    nacks := ⟨m.from_, m.dseq, stage, m.chunk, times⟩ :: x.nacks.filter (fun e => !same e) }
  if 5 ≤ times then originateAbort s k c 2
  else sendOn s (if c.quad then link else linkTo s c m.from_ 0) 0 (mkMsg s k c .nack m.from_ 0 m.dseq m.chunk (crc32c []) [])

/-- Stages whose chunks have all come end, and the next begins (R248). -/
def advanceStage (c : SetCfg) (r : SetRun) : SetRun :=
  if !c.quad && decide (r.stage < (planOf r.body.op c).length) && r.got.length == stageExpect c r then
    beginStage c (endStage c r)
  else r

/-- Trouble met by a chunk; one that waits for lines of the host is kept (R376), and the window credit of one for a fenced
partition goes back to its sender (R264). -/
def chunkTrouble (s : State) (k : Nat) (c : SetCfg) (op : SetOp) (link : Nat) (m : SetMsg) (t : Trouble) : State :=
  match t with
  | .wait ls inv => sendSnoops (updSet s k (fun x => { x with early := x.early ++ [(link, m)] })) ls inv
  | .fence => handleTrouble (returnWindow s k c op link m.from_) k c .fence
  | t => handleTrouble s k c t

/-- A block that fails its decoding is counted by the engines of the chunk's partition (R279, R284). -/
def countBlock (s : State) (c : SetCfg) (b : SetBody) (m : SetMsg) : State :=
  if crc32c m.payload = m.cchk ∧ ltcOp c b.op then
    let x := cmpOf s (m.chunk % 8)
    match ltcDecode (slotOf x) (fun _ => true) m.payload with
    | .gen => setCmp s (m.chunk % 8) { x with cntGen := satInc 0xFFFF x.cntGen, err := setBit x.err 0 }
    | .bad => setCmp s (m.chunk % 8) { x with cntBad := satInc 0xFFFF x.cntBad, err := setBit x.err 1 }
    | .ok _ => s
  else s

/-- The link on which chunks of this one's direction come, whatever link brought a copy sent again (R242, R266): the credit it
spent goes back there. -/
def homeLink (c : SetCfg) (r : SetRun) (link : Nat) (m : SetMsg) : Nat :=
  match r.body.op, (planOf r.body.op c)[r.stage]? with
  | .broadcast, _ | .permute, _ | .allToAll, _ => link
  | _, some (gather, ax) => if c.quad then link else dirLink (2 * ax + (1 - chunkDir c r gather ax m.chunk % 2)) m.chunk
  | _, none => link

/-- A chunk for the running descriptor that fits its stage. -/
def meetChunk (s : State) (k : Nat) (c : SetCfg) (r : SetRun) (link : Nat) (m : SetMsg) : State :=
  let link := homeLink c r link m
  if r.body.op = .permute ∧ r.stored.contains m.chunk then failWork (setErrBit s 5) k c
  else if enginesGone s c r.body.op m.chunk then chunkTrouble s k c r.body.op link m .fence
  else
    match contentOf s c r.body m with
    | none =>
      if r.body.op = .rsUpd ∧ (if c.quad then false else
          ((planOf r.body.op c)[r.stage]?).any (fun g => pieceAt c r g.1 g.2 m.chunk == posOf c c.ord g.2 &&
            r.stage + 1 == (planOf r.body.op c).length)) then
        (match deliverChunk s k c r m.chunk link m.from_ zeros4096 false with
         | .ok (s, r) => setRun s k r
         | .error t => chunkTrouble s k c r.body.op link m t)
      else chunkBad (countBlock s c r.body m) k c link m
    | some v =>
      match takeContent s k c r link m v with
      | .error t => chunkTrouble s k c r.body.op link m t
      | .ok (s, r') =>
        let s := setRun s k (advanceStage c r')
        let s := if r'.delivered ≠ r.delivered then s else returnWindow s k c r.body.op link m.from_
        pumpSet s k

def applyChunk (s : State) (k : Nat) (c : SetCfg) (r : SetRun) (link : Nat) (m : SetMsg) : State :=
  setLoosely s k (fun s => meetChunk s k c r link m)

/-- Early chunks taken up as long as one fits. -/
def earlyChunks : Nat → State → Nat → State
  | 0, s, _ => s
  | fuel + 1, s, k =>
    let x := setOf s k
    match x.cfg, x.run with
    | some c, some r =>
      let fits (e : Nat × SetMsg) : Bool := e.2.kind == .chunk && e.2.dseq == x.dseq && chunkFits c r e.1 e.2
      match x.early.find? fits with
      | none => s
      | some e => earlyChunks fuel (applyChunk (setSet s k { x with early := x.early.eraseP fits }) k c r e.1 e.2) k
    | _, _ => s

/-- Descriptors from the first of the work in progress to the one a message names, modulo 2^32. -/
def workAge (x : SetSt) (m : SetMsg) : Nat := (m.dseq + x.done.length + 2 ^ 32 - x.dseq) % 2 ^ 32

/-- The work in progress, or the descriptor that comes next, is the one a message names; a round takes in the numbers
of all its descriptors (R245, R259). -/
def fresh (x : SetSt) (m : SetMsg) : Bool :=
  m.attempt == x.attempt && (m.dseq == x.dseq || (x.round && decide (workAge x m < 2 ^ 31)))

/-- A chunk of a descriptor this member has yet to complete. -/
def freshChunk (x : SetSt) (m : SetMsg) : Bool := fresh x m && decide (x.done.length ≤ workAge x m)

def countStale (s : State) (k : Nat) : State := updSet s k (fun x => { x with stale := satInc 0xFFFF x.stale })

/-- The oldest message of a channel where it is of kind `kind`, its set and the state with its buffers free. -/
def takeKind (s : State) (n v : Nat) (kind : MsgKind) : Option (SetMsg × Option Nat × State) :=
  match (peekMsg s n v).bind msgOf with
  | none => none
  | some m =>
    if m.kind ≠ kind then none
    else
      match takeMsg s n v with
      | none => none
      | some (_, s') => some (m, setOfTag s' m.tag, s')

/-- A message for another member goes on toward it in the link logic (R242). -/
def transit (s : State) (c : SetCfg) (v : Nat) (m : SetMsg) : State := sendOn s (linkTo s c m.dest m.chunk) v m

def chunkReceive (s : State) (n v : Nat) : State :=
  match takeKind s n v .chunk with
  | none => s
  | some (_, none, s) => s
  | some (m, some k, s) =>
    let x := setOf s k
    match x.cfg with
    | none => s
    | some c =>
      if m.dest ≠ c.ord then transit s c v m
      else if !freshChunk x m then countStale s k
      else
        let s := updSet s k (fun x => { x with window := x.window + 1, alloc := (x.alloc + 1) % 65536 })
        let keep (s : State) : State := updSet s k (fun x => { x with early := x.early ++ [(n, m)] })
        match x.run with
        | none => keep s
        | some r =>
          if m.dseq ≠ x.dseq ∨ !chunkFits c r n m then keep s
          else earlyChunks (x.early.length + 1) (applyChunk s k c r n m) k

def execChunkReceive (n : Fin 12) (v : Fin 8) (s : State) : Host.Outcome State Fault Refusal := .next (clocked s (chunkReceive s n v))

/-- A window credit comes back (R247). -/
def wcredReceive (s : State) (n v : Nat) : State :=
  match takeKind s n v .wcred with
  | none => s
  | some (_, none, s) => s
  | some (m, some k, s) =>
    let x := setOf s k
    match x.cfg with
    | none => s
    | some c =>
      if m.dest ≠ c.ord then transit s c v m
      else if !fresh x m then countStale s k
      else
        let key := if m.chunk % 2 = 1 then 16 + m.from_ else if c.quad then m.from_ else n % 6
        pumpSet (setSet s k { x with wcred := Tbl.set x.wcred key (min c.win (creditOf x c key + 1)) }) k

def execWcredReceive (n : Fin 12) (v : Fin 8) (s : State) : Host.Outcome State Fault Refusal := .next (clocked s (wcredReceive s n v))

/-- A vote arrives: a flagged one decides ABORT at once and goes on; one for a member not yet in the vote waits
(R255, R256). -/
def voteReceive (s : State) (n v : Nat) : State :=
  match takeKind s n v .vote with
  | none => s
  | some (_, none, s) => s
  | some (m, some k, s) =>
    let x := setOf s k
    match x.cfg with
    | none => s
    | some c =>
      if !fresh x m then countStale s k
      else if m.flags % 2 = 1 ∨ m.flags / 16 % 2 = 1 then
        let s := setSet s k { x with vetoFlag := m.flags % 2 == 1, failFlag := m.flags / 16 % 2 == 1,
                                     mask := x.mask ||| BitVec.ofNat 64 (natAt m.payload 0 8) }
        decideAbort (floodVote s k c) k c 1 true
      else if (x.phase = .vote ∨ x.phase = .doubt) ∧ !(x.frozen && voteSendsOn c x) then
        earlyVotes (x.early.length + 1) (takeVote s k c n m) k c
      else setSet s k { x with early := x.early ++ [(n, m)] }

def execVoteReceive (n : Fin 12) (v : Fin 8) (s : State) : Host.Outcome State Fault Refusal := .next (clocked s (voteReceive s n v))

/-- An ABORT arrives: the first for an attempt is forwarded on every set link and decides; later ones are absorbed
(R256, R259). -/
def abortReceive (s : State) (n v : Nat) : State :=
  match takeKind s n v .abort with
  | none => s
  | some (_, none, s) => s
  | some (m, some k, s) =>
    let x := setOf s k
    match x.cfg with
    | none => s
    | some c =>
      if x.aborted = some m.attempt ∧ m.attempt ≠ x.attempt then s
      else if !fresh x m then countStale s k
      else decideAbort (sendAbort s k c (m.flags / 2 % 8)) k c (m.flags / 2 % 8) false

def execAbortReceive (n : Fin 12) (v : Fin 8) (s : State) : Host.Outcome State Fault Refusal := .next (clocked s (abortReceive s n v))

/-- A retained LTC chunk goes again as a raw block (R285). -/
def resendForm (s : State) (r : Retained) : SetMsg :=
  if r.ltc then
    match ltcDecode (slotOf (cmpOf s (r.msg.chunk % 8))) (fun _ => true) r.msg.payload with
    | .ok raw => { r.msg with payload := ltcRaw raw, cchk := crc32c (ltcRaw raw) }
    | _ => r.msg
  else r.msg

/-- A NACK that reached its sender: of the copies sent under its number the last is verified and sent again by the fixed route,
up to four times (R242, R265; notes/assumptions/67.md). -/
def nackTaken (s : State) (k : Nat) (c : SetCfg) (m : SetMsg) : State :=
  let x := setOf s k
  let hit (r : Retained) : Bool := r.msg.chunk == m.chunk && r.msg.dseq == m.dseq && r.msg.dest == m.from_
  match x.retained.zipIdx.reverse.find? (fun e => hit e.1) with
  | none => s
  | some (r, i) =>
    if crc32c r.msg.payload ≠ r.msg.cchk ∨ 4 ≤ r.resent then originateAbort s k c 2
    else sendOn (setSet s k { x with retained := x.retained.set i { r with resent := r.resent + 1 } })
      (linkTo s c r.msg.dest r.msg.chunk) c.vc (resendForm s r)

/-- NACKs that came while the set was frozen are answered (R263). -/
def keptNacks : Nat → State → Nat → SetCfg → State
  | 0, s, _, _ => s
  | fuel + 1, s, k, c =>
    let nack (e : Nat × SetMsg) : Bool := e.2.kind == .nack
    match (setOf s k).early.find? nack with
    | none => s
    | some e => keptNacks fuel (nackTaken (updSet s k (fun x => { x with early := x.early.eraseP nack })) k c e.2) k c

/-- A NACK: a frozen set sends no data and keeps it (R263, R265). -/
def nackReceive (s : State) (n v : Nat) : State :=
  match takeKind s n v .nack with
  | none => s
  | some (_, none, s) => s
  | some (m, some k, s) =>
    let x := setOf s k
    match x.cfg with
    | none => s
    | some c =>
      if m.dest ≠ c.ord then transit s c v m
      else if !fresh x m then countStale s k
      else if x.frozen then setSet s k { x with early := x.early ++ [(n, m)] }
      else nackTaken s k c m

def execNackReceive (n : Fin 12) (v : Fin 8) (s : State) : Host.Outcome State Fault Refusal := .next (clocked s (nackReceive s n v))

/-! ### Timeouts and freezing (R258, R262, R263) -/

/-- A member waits longer than TIMEOUT: before the vote it aborts, in the vote it is in DOUBT; the timer stands still
while VC6 is paused for a set on it. -/
def hopTimeout (s : State) (k : Nat) : State :=
  let x := setOf s k
  match x.cfg with
  | none => s
  | some c =>
    if c.vc = 6 ∧ s.pwr.cfg.vc6p then s
    else
      match x.phase, x.run with
      | .run, some r => if runComplete c r then s else originateAbort s k c 0
      | .vote, _ => raiseVector (setSet s k { x with phase := .doubt }) 18
      | _, _ => s

def execHopTimeout (k : Fin 64) (s : State) : Host.Outcome State Fault Refusal := .next (clocked s (hopTimeout s k))

/-- A freezing set is frozen at the step boundary: every piece of the current step is sent and received; work of no steps is
at it when this member's part is complete (R263). -/
def freezeBoundary (s : State) (k : Nat) : State :=
  let x := setOf s k
  let there : Bool := match x.cfg, x.run with
    | some c, some r => x.phase != .run || atBoundary c r (runComplete c r)
    | _, _ => true
  if x.freezing && there then setSet s k { x with freezing := false, frozen := true } else s

def execFreezeBoundary (k : Fin 64) (s : State) : Host.Outcome State Fault Refusal := .next (clocked s (freezeBoundary s k))

end Sys2Proof.Machine
end

