-- ==== Sys2Proof/Machine/SetStart.lean ====
section
/-!
DEFINITION. Descriptors of sets: enqueueing, the checks at start and the first effects (spec/11 R244-R246, R248-R254).
-/

namespace Sys2Proof.Machine

/-! ### Enqueueing (R244, R245) -/

/-- A SET action at the head of core `c`'s actions: the owner of its set is checked, then it joins the queue, where a descriptor
whose post is held keeps its entry (R189, R245). -/
def setEnqueue (s : State) (c : Nat) : State :=
  match busFirst s (.core c) with
  | none => s
  | some b =>
    match coreEntryOf c b.entry with
    | some (some (.set d)) =>
      let x := setOf s d.set
      if 256 ≤ x.queue.length then s
      else
        let s := busTake s (.core c)
        match x.cfg with
        | some g =>
          if g.fill ≠ b.fill then faultAtIssue (setErrBit s 4) b.fill
          else setSet s d.set { x with queue := x.queue ++ [d] }
        | none => setSet s d.set { x with queue := x.queue ++ [d] }
    | _ => s

def execSetEnqueue (c : Fin 8) (s : State) : Host.Outcome State Fault Refusal := .next (running s (setEnqueue s c))

/-! ### Checks at start (R246, R254, R276) -/

def gathering (op : SetOp) : Bool := op == .allGather || op == .agUpd

/-- COUNT fits the pieces of the operation (R246, R254). -/
def countOk (c : SetCfg) (b : SetBody) : Bool :=
  if reducing b.op || gathering b.op then b.count % (if c.quad then c.n else 2 * c.n) == 0
  else if b.op == .allToAll then b.count == c.n
  else true

/-- A range of the set's context: usable HBM, one scratchpad or core memory, or the fill stream's share or window. -/
def setRangeOk (s : State) (c : SetCfg) (sram : Bool) (a n : Nat) : Bool :=
  n == 0 || ((if sram then sramRangeOk s a n
      else (chunksIn a n).all (fun k => match accOf s k.1 with
        | .hbm _ => true
        | .fenced => true
        | _ => false)) &&
    (if c.fill then fillRangeOk s sram a (a + n) else !sram || primaryRangeOk s a (a + n)))

/-- Rows for each destination of an all-to-all (R254). -/
def rowCount (s : State) (b : SetBody) (d : Nat) : Nat := natAt (devRead s (b.aux + 16 + 4 * d) 4) 0 4

/-- IN and the entries of a permute's map: destination ordinal and index (R253). -/
def permIn (s : State) (b : SetBody) : Nat := natAt (devRead s b.aux 4) 0 4
def permEntry (s : State) (b : SetBody) (i : Nat) : Nat × Nat :=
  let w := BitVec.ofNat 64 (bytesNat (devRead s (b.aux + 16 + 8 * i) 8))
  (bits w 63 56, bits w 55 32)

/-- The ranges of an operation on this member. -/
def rangesOk (s : State) (c : SetCfg) (b : SetBody) : Bool :=
  let src (n : Nat) : Bool := setRangeOk s c b.srcSram b.src n
  let dst (n : Nat) : Bool := setRangeOk s c b.dstSram b.dst n
  let aux (n : Nat) : Bool := setRangeOk s c false b.aux n
  let seg := b.count / c.n
  match b.op with
  | .allReduce => src (16384 * b.count) && dst (16384 * b.count)
  | .reduceScatter => src (16384 * b.count) && dst (16384 * seg)
  | .rsUpd => src (16384 * b.count) && aux (8 * seg)
  | .allGather => src (4096 * seg) && dst (4096 * b.count)
  | .agUpd => aux (8 * seg) && dst (chunkBytes s c b * b.count)
  | .broadcast => if b.arg = c.ord then src (4096 * b.count) else dst (4096 * b.count)
  | .permute => src (4096 * b.count) && aux (16 + 8 * b.count) && dst (4096 * permIn s b)
  | .allToAll =>
    let rb := rowBytes s b
    aux (16 + 8 * c.n) && 1 ≤ rb && rb ≤ 65536 &&
      (List.range c.n).all (fun d => setRangeOk s c b.srcSram (b.src + d * b.arg * rb) (rowCount s b d * rb)) &&
      dst (c.n * b.arg * rb + 4 * c.n)
  | .barrier | .commit => true

/-- A lossy set's source lies in its residual source window, in whole residual chunks (R276). -/
def residualTrouble (c : SetCfg) (x : SetSt) (b : SetBody) : Option Nat :=
  if !(reducing b.op && lossy (gcodeOf c.code)) then none
  else
    match x.res with
    | none => some 0
    | some r =>
      if b.srcSram ≠ r.srcSram ∨ b.src < r.srcwin ∨ (b.src - r.srcwin) % 16384 ≠ 0 ∨
          r.size < (b.src - r.srcwin + 16384 * b.count) then some 2
      else none

/-- The entries of this member's segment of a delivery table, verified. -/
def deliveryEntries (c : SetCfg) (aux : Nat) : List Nat → State → List (Nat × Nat × Nat) → Except Trouble (State × List (Nat × Nat × Nat))
  | [], s, es => .ok (s, es.reverse)
  | i :: rest, s, es => do
    let (s, e) ← deliveryEntry s c aux i
    deliveryEntries c aux rest s (e :: es)

/-- The working-copy format of a group (R206). -/
def copyFmt (s : State) (e : Nat × Nat × Nat) : Option Fmt :=
  ((Tbl.get? (updOf s e.1).groups e.2.1).bind (fun g => convOfWord g.ccw)).map (·.dst)

/-- What reading the tables of a descriptor ran into, or the state with them read and whether the groups of an AG_UPD agree
in format. -/
def readTables (s : State) (c : SetCfg) (b : SetBody) : Except Trouble (State × Bool) := do
  if b.op = .allToAll ∧ setRangeOk s c false b.aux (16 + 8 * c.n) then
    let (s, _) ← setRead s c false b.aux (16 + 8 * c.n)
    return (s, true)
  else if b.op = .permute ∧ setRangeOk s c false b.aux (16 + 8 * b.count) then
    let (s, _) ← setRead s c false b.aux (16 + 8 * b.count)
    return (s, true)
  else if b.op = .agUpd ∧ setRangeOk s c false b.aux (8 * (b.count / c.n)) then
    let (s, es) ← deliveryEntries c b.aux (List.range (b.count / c.n)) s []
    let fs := es.map (copyFmt s)
    return (s, fs.all (· == fs.headD none))
  else return (s, true)

/-- The `SET_ERR` bit of the first check that fails, or what reading the tables ran into (R246). -/
def startBit (s : State) (k : Nat) (c : SetCfg) (b : SetBody) : Except Trouble (State × Option Nat) := do
  if !countOk c b then return (s, some 1)
  else if b.op = .broadcast ∧ c.n ≤ b.arg then return (s, some 2)
  else
    let (s, same) ← readTables s c b
    if !same then return (s, some 3)
    else if !rangesOk s c b then return (s, some 2)
    else return (s, residualTrouble c (setOf s k) b)

/-! ### First effects (R248-R254) -/

def runOf (b : SetBody) : SetRun :=
  { body := b, stage := 0, base := 0, len := b.count, toSend := [], got := [], held := [], coded := [], contrib := [],
    stored := [], rows := [], delivered := 0, filled := [], loose := false }

/-- The other members, in the order a + 1, a + 2 and so on (R252). -/
def othersOf (c : SetCfg) : List Nat := (List.range (c.n - 1)).map (fun t => (c.ord + 1 + t) % c.n)

/-- This member's own segment of an all-gather at its place in DST. -/
def storeOwn (k : Nat) (c : SetCfg) (b : SetBody) : List Nat → State → SetRun → Except Trouble (State × SetRun)
  | [], s, r => .ok (s, r)
  | i :: rest, s, r => do
    let j := i - segBase c b.count
    let (s, bs) ← if b.op = .agUpd then workingChunk s k c b.aux j else setRead s c b.srcSram (b.src + 4096 * j) 4096
    let (s, r) ← runWrite s c r (b.dst + bs.length * i) bs
    storeOwn k c b rest s r

def ownSegment (c : SetCfg) (b : SetBody) : List Nat := (List.range (segLen c b.count)).map (· + segBase c b.count)

/-- Chunks of a permute: written here where the map leads back, else to be sent; a second one for an index fails. -/
def permStart (c : SetCfg) (b : SetBody) : List Nat → State → SetRun → Except Trouble (State × SetRun × Bool)
  | [], s, r => .ok (s, r, true)
  | i :: rest, s, r => do
    let (o, j) := permEntry s b i
    if o ≠ c.ord ∧ enginesGone s c b.op j then throw .fence
    let (s, raw) ← setRead s c b.srcSram (b.src + 4096 * i) 4096
    if o = c.ord then
      if r.stored.contains j then return (s, r, false)
      else
        let (s, r) ← runWrite s c r (b.dst + 4096 * j) raw
        permStart c b rest s { r with stored := r.stored ++ [j] }
    else
      let p := travelForm s c b.op j raw
      permStart c b rest s { r with toSend := r.toSend ++ [⟨j, o, linkTo s c o j, 16 + o, some (p, crc32c p)⟩] }

/-- Rows of an all-to-all for one destination after another; those at CAP and above are counted in the drop map. -/
def rowsStart (c : SetCfg) (b : SetBody) : List Nat → State → SetRun → Except Trouble (State × SetRun)
  | [], s, r => .ok (s, r)
  | d :: rest, s, r => do
    let rb := rowBytes s b
    let n := rowCount s b d
    let sent := min n b.arg
    let (s, all) ← setRead s c b.srcSram (b.src + d * b.arg * rb) (sent * rb)
    let (s, f) ← setWrite s c r.filled false (b.aux + 16 + 4 * c.n + 4 * d) (natBytes 4 (n - sent))
    let r := { r with filled := f }
    if d = c.ord then
      let (s, r) ← if all.isEmpty then .ok (s, r) else runWrite s c r (b.dst + d * b.arg * rb) all
      let (s, r) ← closeShare s c r d sent
      rowsStart c b rest s { r with rows := Tbl.set r.rows d sent }
    else
      let msgs := (List.range sent).map (fun j =>
        let row := bytesAt all (j * rb) rb
        (⟨j, d, linkTo s c d j, 16 + d, some (row, crc32c row)⟩ : ToSend))
      let last : ToSend := ⟨sent, d, linkTo s c d sent, 16 + d, some ([], crc32c [])⟩
      rowsStart c b rest s { r with toSend := r.toSend ++ msgs ++ [last] }

/-- What a member does when a descriptor starts; `false` where a permute's own chunks collide. -/
def firstEffects (s : State) (k : Nat) (c : SetCfg) (b : SetBody) : Except Trouble (State × SetRun × Bool) := do
  let r := runOf b
  let direct (is : List Nat) (o : Nat) : List ToSend := is.map (fun i => ⟨i, o, pairLink s c o i, o, none⟩)
  match b.op with
  | .barrier | .commit => return (s, r, true)
  | .permute => permStart c b (List.range b.count) s { r with len := permIn s b }
  | .allToAll =>
    let (s, r) ← rowsStart c b (othersOf c ++ [c.ord]) s r
    return (s, r, true)
  | .broadcast =>
    if b.arg ≠ c.ord then return (s, r, true)
    else if c.quad then return (s, { r with toSend := (othersOf c).flatMap (direct (List.range b.count)) }, true)
    else return (s, { r with toSend := (List.range b.count).flatMap (fun i => broadcastSends c b.arg i none) }, true)
  | .allGather | .agUpd =>
    let own := ownSegment c b
    let (s, r) ← storeOwn k c b own s r
    let r := { r with stored := own, base := segBase c b.count, len := segLen c b.count }
    if c.quad then return (s, { r with toSend := (othersOf c).flatMap (direct own) }, true)
    else return (s, beginStage c r, true)
  | _ =>
    if c.quad then
      return (s, { r with toSend := (othersOf c).flatMap (fun o =>
        direct ((List.range (segLen c b.count)).map (· + o * segLen c b.count)) o) }, true)
    else return (s, beginStage c r, true)

/-! ### Starting (R245, R246) -/

/-- A descriptor of a round whose own part is complete makes way for the next of the round (R245). -/
def roundNext (s : State) (k : Nat) : State :=
  let x := setOf s k
  match x.cfg, x.run with
  | some c, some r =>
    if x.phase = .run ∧ x.round ∧ r.body.op ≠ .commit ∧ runComplete c r then
      setSet s k { x with done := x.done ++ [r.body], run := none, dseq := (x.dseq + 1) % 2 ^ 32 }
    else s
  | _, _ => s

/-- The far exchange holds the next round of its set: SELECT still reads slot P, or the apply is still to come (R298;
notes/assumptions/37.md). -/
def farHolds (s : State) (k : Nat) : Bool :=
  let x := setOf s k
  match s.far.cfg, x.cfg with
  | some f, some c =>
    let step := stepOf s k c
    let opens := !x.round && (x.queue.head?.map (fun b => b.op == .rsUpd)).getD false
    f.set == k && opens && ((s.far.phase == .select && step == s.far.k * f.h + 1) ||
      ([.select, .opened, .closed, .applying].contains s.far.phase && step == s.far.k * f.h + f.lag))
  | _, _ => false

/-- An AG_UPD is next and a commit of its set is not yet visible on a partition of PARTS: stage P is still the old one (R223, R261). -/
def commitDue (s : State) (k : Nat) : Bool :=
  let x := setOf s k
  match x.queue.head?, x.cfg with
  | some b, some c => b.op == .agUpd && (List.range 8).any (fun p => c.parts.testBit p && partActive s p &&
      ((usetOf (updOf s p) k).st == .commit || (usetOf (updOf s p) k).events.contains true))
  | _, _ => false

/-- A descriptor may start: the set is idle or in a round between descriptors, or redoes its work, and its LTC slot
stands (R245, R189, R290). -/
def mayStart (s : State) (k : Nat) : Bool :=
  let x := setOf s k
  !farHolds s k && !commitDue s k && !x.frozen && !x.freezing && x.run.isNone && !unitHeld s (.setQueue k) &&
    (x.phase == .idle || x.phase == .run || x.phase == .unconfigured) &&
    !(match x.cfg with | some c => codeLtc c.code && s.cmpLoading.contains (codeLslot c.code) | none => false)

/-- A SET_REDO that waits for its work to start completes (R397). -/
def redoStarted (s : State) (k : Nat) : State := finishPend s (fun x => pendOp 0x0406 x && x.obj == .set k) .ok []

/-- The set takes a descriptor as running, before its checks. -/
def takeUp (s : State) (k : Nat) (b : SetBody) (rest : List SetBody) : State :=
  redoStarted (updSet s k (fun x =>
    { x with queue := rest, phase := .run, run := some (runOf b), round := x.round || b.op == .rsUpd,
             vetoFlag := x.vetoFlag && !x.done.isEmpty, failFlag := x.failFlag && !x.done.isEmpty })) k

/-- The next descriptor starts, unless a check fails; a fill set's range outside the fill limits is a fault of the fill context
as well (R198, R246). -/
def descriptorStart (s : State) (k : Nat) : State :=
  let s := roundNext s k
  if !mayStart s k then s
  else
    let x := setOf s k
    match x.queue, x.cfg with
    | [], _ => s
    | _ :: _, none => redoStarted (raiseVector (setSet (setErrBit s 0) k { x with phase := .hold }) 18) k
    | b :: rest, some c =>
      match startBit s k c b with
      | .error (.wait ls inv) => sendSnoops s ls inv
      | .error t => handleTrouble (takeUp s k b rest) k c t
      | .ok (s, some e) =>
        let out := c.fill && e == 2 && !rangesOk s c b
        let s := failWork (setErrBit (takeUp s k b rest) e) k c
        if out then fillStop s 2 else s
      | .ok (s, none) =>
        match firstEffects s k c b with
        | .error (.wait ls inv) => sendSnoops s ls inv
        | .error t => handleTrouble (takeUp s k b rest) k c t
        | .ok (s, r, good) =>
          let s := takeUp s k b rest
          if !good then failWork (setErrBit s 5) k c
          else
            let s := setRun s k r
            let s := earlyChunks ((setOf s k).early.length + 1) s k
            pumpSet s k

def execSetDescriptorStart (k : Fin 64) (s : State) : Host.Outcome State Fault Refusal := .next (clocked s (descriptorStart s k))

/-! ### Fences (R264) -/

/-- A partition of this member is fencing: every set that uses it and has not entered the vote aborts. -/
def fenceSets (s : State) (p : Nat) : State :=
  (List.range 64).foldl (fun s k =>
    let x := setOf s k
    match x.cfg with
    | some c => if x.phase = .run ∧ (c.parts.testBit p ∨ hbmPart c.sbase = p) then originateAbort s k c 3 else s
    | none => s) s

end Sys2Proof.Machine
end

