-- ==== Sys2Proof/Machine/Update.lean ====
section
/-!
DEFINITION. The update units: groups and rules, the fused update of a chunk, rounds and parking
(spec/10_training_state_update.md R204-R231).
-/

namespace Sys2Proof.Machine

/-! ### Groups and rules (R205, R206, R209-R213) -/

def groupOf (bs : List Byte) : UGroup :=
  { sbase0 := natAt bs 0 8, sbase1 := natAt bs 8 8, wbase0 := natAt bs 16 8, wbase1 := natAt bs 24 8,
    count := natAt bs 32 4, ccw := natAt bs 36 2, rule := natAt bs 38 1 % 16, set := natAt bs 39 1 % 64,
    gkey := natAt bs 40 2 % 1024, en := (natAt bs 42 1).testBit 0, mrnd := (natAt bs 42 1).testBit 1,
    post := (natAt bs 43 1).testBit 7, token := natAt bs 43 1 % 64, schlen := natAt bs 44 4, sched := natAt bs 48 8,
    dmap := natAt bs 56 8 }

def ruleOf (bs : List Byte) : URule :=
  { kind := natAt bs 0 1, mom := natAt bs 1 1, lenM1 := natAt bs 2 1,
    ks := (List.range 8).map (fun n => BitVec.ofNat 32 (natAt bs (32 + 4 * n) 4)),
    fig := (List.range 16).map (fun n => BitVec.ofNat 64 (natAt bs (64 + 8 * n) 8)) }

def ruleReset : URule := ⟨0, 2, 0, [], []⟩

/-- Chunks of a group, and its parameters rounded up to whole chunks. -/
def chunksOfGroup (g : UGroup) : Nat := (g.count + 4095) / 4096
def paddedCount (g : UGroup) : Nat := 4096 * chunksOfGroup g

def roundTile (n : Nat) : Nat := (n + 4095) / 4096 * 4096

/-- Offsets in a slot: the codes of moment `j`, the scales, and the end (R205). -/
def codesOff (g : UGroup) (j : Nat) : Nat := (4 + j) * paddedCount g
def scalesOff (g : UGroup) (m : Nat) : Nat := (4 + m) * paddedCount g
def slotBytes (g : UGroup) (m : Nat) : Nat := scalesOff g m + (if m = 0 then 0 else roundTile (paddedCount g / 32))
/-- Bytes of a stage (R206). -/
def stageBytes (g : UGroup) : Nat := roundTile (copyBytes g.ccw * chunksOfGroup g)

def slowGroup (g : UGroup) : Bool := decide (0x800000000000 ≤ g.sbase0)

/-- Operand codes of an update figure (R109, R115, R212). -/
def updOperand (c : Nat) : Bool := c ≤ 0x0E || (0x10 ≤ c && c ≤ 0x17) || c == 0x1E || c == 0x1F

def figOp (op : FOp) (dst a b c : Nat) : FInstr := ⟨op, dst, a, b, c, false, false, false, none⟩

/-- The built-in rules as figures (R213). -/
def adamw : List FInstr :=
  [figOp .mul 3 0x08 0x12 0, figOp .fma 1 0x0A 0x10 3, figOp .mul 4 0x0B 0x0B 0, figOp .mul 5 0x08 0x08 0,
   figOp .mul 5 5 0x13 0, figOp .fma 2 4 0x11 5, figOp .rsq 6 2 0 0, figOp .mul 6 2 6 0, figOp .selgt 2 2 6 0x1E,
   figOp .fma 7 2 0x0E 0x14, figOp .rcp 7 7 0 0, figOp .mul 3 1 0x0D 0, figOp .mul 3 3 7 0, figOp .fma 3 0x09 0x15 3,
   { figOp .fma 0 3 0x0C 0x09 with nb := true }]

def lion : List FInstr :=
  [figOp .mul 3 0x08 0x12 0, figOp .fma 3 0x0A 0x10 3, { figOp .selgt 4 3 0x1F 0x1E with na := true, nb := true },
   figOp .selgt 4 3 0x1F 4, figOp .fma 4 0x09 0x15 4, { figOp .fma 0 4 0x0C 0x09 with nb := true },
   figOp .mul 5 0x08 0x13 0, figOp .fma 1 0x0A 0x11 5]

def nesterov : List FInstr :=
  [figOp .fma 3 0x09 0x15 0x08, figOp .fma 1 0x0A 0x10 3, figOp .fma 4 1 0x10 3,
   { figOp .fma 0 4 0x0C 0x09 with nb := true }]

def ruleFigure (r : URule) : List FInstr :=
  match r.kind with
  | 0 => adamw
  | 1 => lion
  | 2 => nesterov
  | _ => (finstrsOf updOperand (r.fig.take (r.lenM1 + 1))).getD []

/-- A rule entry as UPD_RULE_LOAD checks it (R115, R211). KIND 3 asks nothing of FIG words past the figure's length, and lets a
transcendental instruction take a moment as operand A (DESIGN CHOICE, notes/assumptions/69.md). -/
def ruleOk (bs : List Byte) : Bool :=
  let r := ruleOf bs
  let figOk := match finstrsOf updOperand (r.fig.take (r.lenM1 + 1)) with
    | some is => is.all (fun i => !fopWrites i.op)
    | none => false
  decide (r.kind ≤ 3) && natAt bs 3 29 == 0 &&
    (if r.kind = 3 then r.mom ≤ 2 && r.lenM1 ≤ 15 && figOk
     else r.mom == (if r.kind = 0 then 2 else 1) && r.lenM1 == 0 && r.fig.all (· == 0))

/-! ### Moments (R207, R208) -/

/-- Moments of a chunk from their codes and scales. -/
def momentVals (second : Bool) (codes scales : List Byte) : List Val :=
  (List.range 4096).map (fun i =>
    let c := natAt codes i 1
    let v := if second then fltDecode fltE4m4u c else fltDecode fltE4m3 c
    let sc := bf16Val (natAt scales (4 * (i / 128) + (if second then 2 else 0)) 2)
    valDiv (valMul v sc) (valOfInt (if second then 496 else 448)))

/-- A block of 128 moments: scale, codes, and the counts and bins of its elements; `r` draws for element `i`. -/
def momentBlock (second sr : Bool) (r : Nat → Nat) (vs : List Val) : Nat × List Nat × List (Count × Nat) :=
  let f := if second then fltE4m4u else fltE4m3
  let rnd := if sr then Rnd.sr else Rnd.rne
  if vs.any (fun v => !valIsFinite v) then (0x7FC0, vs.map (fun _ => 0), vs.map (fun _ => (.nan, 31)))
  else
    match vs.foldl valMaxAbs valZero with
    | .fin _ num den =>
      if num = 0 then (0, vs.map (fun _ => 0), vs.map (fun _ => (.none, 0)))
      else
        let sc := bf16Up num den
        let q := valDiv (valOfInt (if second then 496 else 448)) (bf16Val sc)
        let es := vs.zipIdx.map (fun p =>
          let v := valMul p.1 q
          let e := fltEncode f rnd false (r p.2) v
          (e.1, e.2, histBin 8 v))
        (sc, es.map (·.1), es.map (·.2))
    | _ => (0, [], [])

/-- A moment of a chunk quantised: its code bytes, its scales by block, counts and bins. -/
def momentOut (second sr : Bool) (r : Nat → Nat) (vs : List Val) : List Byte × List Nat × List (Count × Nat) :=
  let outs := (chunksOf 128 valZero 32 vs).zipIdx.map (fun p => momentBlock second sr (fun i => r (128 * p.2 + i)) p.1)
  (outs.flatMap (fun o => o.2.1.map (BitVec.ofNat 8)), outs.map (·.1), outs.flatMap (·.2.2))

/-! ### Verified reads -/

/-- Why an access of an update unit fails: poison at an address, or a tile whose check fails. -/
inductive UFail where
  | poison (a : Nat)
  | check
  deriving DecidableEq, Repr

/-- What makes a read with verification fail: the first tile of the range that is poisoned or whose check fails (R131, R148). -/
def updFault (s : State) (a n : Nat) : Option UFail :=
  (tilesOf s a n).findSome? (fun t =>
    match tilePoisoned s t with
    | some w => some (UFail.poison w)
    | none => if tileOk s t then none else some .check)

/-- Bytes read with every tile the range touches verified (R148). -/
def updRead (s : State) (a n : Nat) : Except UFail (List Byte) :=
  match updFault s a n with
  | some f => .error f
  | none => .ok (devRead s a n)

/-- Bytes written by class 3, with the entries of the tiles written whole (R147). -/
def updWrite (s : State) (a : Nat) (bs : List Byte) : State := sealWhole (devWrite s 3 a bs) 3 a bs.length

/-- A read of an update unit: whether its tiles are verified, its address and its length. -/
abbrev UpdGet := Bool × Nat × Nat

def getFault (s : State) (g : UpdGet) : Option UFail :=
  if g.1 then updFault s g.2.1 g.2.2 else (devPoisoned s g.2.1 g.2.2).map .poison

/-- Reads metered under class 3 up to the one that fails, verified tiles whole (R143, R148). -/
def meterGets : State → List UpdGet → State
  | s, [] => s
  | s, g :: gs =>
    let t := if g.1 then meterVerify s none 3 g.2.1 g.2.2 else meterRead s none 3 g.2.1 g.2.2
    if (getFault s g).isSome then t else meterGets t gs

/-- Ranges of the reads, for the lines a host may hold (R376). -/
def getSpans (s : State) (gs : List UpdGet) : List (Nat × Nat) :=
  verifySpans s ((gs.filter (·.1)).map (·.2)) ++ (gs.filter (!·.1)).map (·.2)

/-! ### The assembly buffer (R217) -/

def tagByte (t : Nat) : Byte := BitVec.ofNat 8 t

/-- The read of a chunk's byte of the done map (R219). -/
def doneGet (g : UGroup) (c : Nat) : UpdGet := (false, g.dmap + c, 1)

/-- Chunks among `cs` applied in this attempt, by the done map (R219). -/
def doneChunks (s : State) (g : UGroup) (tag : Nat) (cs : List Nat) : List Nat :=
  cs.filter (fun c => hbmByte s (g.dmap + c) == tagByte tag)

/-- The least recently used tile written when the buffer is full. -/
def asmEvict (s : State) (p : Nat) : State :=
  let u := updOf s p
  match u.asm with
  | t :: rest => if 64 ≤ u.asm.length then updWrite (setUpd s p { u with asm := rest }) t.addr t.bytes else s
  | [] => s

def putBytes (old : List Byte) (off : Nat) (bs : List Byte) : List Byte :=
  old.take off ++ bs ++ old.drop (off + bs.length)

/-- The piece of a chunk's bytes that lies in one tile: the tile, where in it, and the group's chunks that cover it. -/
structure TilePiece where
  addr : Nat
  off : Nat
  len : Nat
  cover : List Nat
  deriving DecidableEq, Repr

/-- The pieces of chunk `c`'s `n` bytes at `base + n * c`; `total` chunks share the region. -/
def tilePieces (c base total n : Nat) : List TilePiece :=
  (chunksIn (base + n * c) n).map (fun x =>
    let t := x.1 / 4096 * 4096
    let lo := if t < base then 0 else (t - base) / n
    let hi := min total ((t + 4095 - base) / n + 1)
    ⟨t, x.1 - t, x.2, (List.range (hi - lo)).map (· + lo)⟩)

def tileHeld (s : State) (p a : Nat) : Option AsmTile := (updOf s p).asm.find? (fun x => x.addr == a)

/-- Chunks of a tile still to be applied beside chunk `c`: as the buffer holds them, else as the done map tells. -/
def tileNeed (s : State) (p : Nat) (g : UGroup) (tag c : Nat) (t : TilePiece) : List Nat :=
  match tileHeld s p t.addr with
  | some x => x.need.filter (· != c)
  | none => (t.cover.filter (· != c)).filter (fun d => !(doneChunks s g tag t.cover).contains d)

/-- The read of the done map for a tile that other chunks cover. -/
def coverGets (g : UGroup) (t : TilePiece) : List UpdGet :=
  if t.cover.length ≤ 1 then [] else [(false, g.dmap + t.cover.headD 0, t.cover.length)]

/-- A tile that is not held is new where no other chunk of it is applied; else it was evicted, and is reloaded and verified
(R217). -/
def tileFresh (s : State) (p : Nat) (g : UGroup) (tag c : Nat) (t : TilePiece) : Bool :=
  (tileNeed s p g tag c t).length == (t.cover.filter (· != c)).length

def pieceGets (s : State) (p : Nat) (g : UGroup) (tag c : Nat) (t : TilePiece) : List UpdGet :=
  if (tileHeld s p t.addr).isSome then []
  else coverGets g t ++ (if tileFresh s p g tag c t then [] else [(true, t.addr, 4096)])

/-- Bytes of chunk `c` into a tile; one whose chunks are all applied is written whole, with its entry (R217). -/
def asmTile (s : State) (p gi : Nat) (g : UGroup) (tag c : Nat) (t : TilePiece) (bs : List Byte) : State :=
  let need := tileNeed s p g tag c t
  let old := match tileHeld s p t.addr with
    | some x => x.bytes
    | none => if tileFresh s p g tag c t then List.replicate 4096 0#8 else devRead s t.addr 4096
  let s := meterGets s (pieceGets s p g tag c t)
  let u := updOf s p
  let s := setUpd s p { u with asm := u.asm.filter (fun x => x.addr != t.addr) }
  if need.isEmpty then updWrite s t.addr (putBytes old t.off bs)
  else
    let s := asmEvict s p
    let u := updOf s p
    setUpd s p { u with asm := u.asm ++ [⟨t.addr, putBytes old t.off bs, gi, need⟩] }

/-- A chunk's bytes go through the buffer tile by tile. -/
def asmPut (p gi : Nat) (g : UGroup) (tag c : Nat) : List TilePiece → List Byte → State → State
  | [], _, s => s
  | t :: rest, bs, s => asmPut p gi g tag c rest (bs.drop t.len) (asmTile s p gi g tag c t (bs.take t.len))

/-- The tiles that these pieces make the buffer write: those completed, and the ones evicted for want of room. -/
def asmWrites (s : State) (p : Nat) (g : UGroup) (tag c : Nat) (ts : List TilePiece) : List (Nat × Nat) :=
  let u := updOf s p
  let rest := u.asm.filter (fun x => ts.all (fun t => t.addr != x.addr))
  let kept := ts.filter (fun t => !(tileNeed s p g tag c t).isEmpty)
  ((ts.filter (fun t => (tileNeed s p g tag c t).isEmpty)).map (·.addr) ++
    (rest.take (rest.length + kept.length - 64)).map (·.addr)).map (fun a => (a, 4096))

/-! ### Running a rule on a chunk (R212-R218) -/

/-- What a chunk reads: masters, codes of the moments, scale bytes and the schedule entry. -/
structure ChunkIn where
  masters : List Byte
  codes0 : List Byte
  codes1 : List Byte
  scales : List Byte
  sch : List Byte
  deriving DecidableEq, Repr

/-- The byte address stochastic rounding uses (R218). -/
def srAddr (stream gkey off : Nat) : Nat := stream * 2 ^ 46 + gkey * 2 ^ 36 + off

def runChunk (seed : W64) (step : W32) (wref : Nat) (g : UGroup) (r : URule) (c : Nat) (grad : List Byte) (x : ChunkIn) : ChunkOut :=
  let gs := fp32s 4096 grad
  let ws := fp32s 4096 x.masters
  let ms := if 1 ≤ r.mom then momentVals false x.codes0 x.scales else []
  let rs := if r.mom = 2 then momentVals true x.codes1 x.scales else []
  let sch := fp32s 3 x.sch
  let ks := r.ks.map (fun w => fp32Val w.toNat)
  let fig := ruleFigure r
  let res := (List.range 4096).map (fun i =>
    if g.count ≤ 4096 * c + i then tempsZero
    else (evalFigure ⟨[(0x08, gs.getD i valZero), (0x09, ws.getD i valZero), (0x0A, ms.getD i valZero),
      (0x0B, rs.getD i valZero), (0x0C, sch.getD 0 valZero), (0x0D, sch.getD 1 valZero), (0x0E, sch.getD 2 valZero)], ks⟩
      fig tempsZero []).1)
  let t (k : Nat) : List Val := res.map (fun l => l.getD k valZero)
  let draw (stream i : Nat) : Nat := srBits seed step (8 * srAddr stream g.gkey (4096 * c + i))
  let m0 := if 1 ≤ r.mom then momentOut false g.mrnd (draw 1) (t 1) else ([], [], [])
  let m1 := if r.mom = 2 then momentOut true g.mrnd (draw 2) (t 2) else ([], [], [])
  let copy : RowOut := match convOfWord g.ccw with
    | some cv => storeRow { cv with split := false } seed step wref (srAddr 3 g.gkey (copyBytes g.ccw * c)) 0 (t 0)
    | none => ⟨[], []⟩
  { masters := fp32Bytes (t 0), codes0 := m0.1, codes1 := m1.1,
    scales := (List.range 32).flatMap (fun b => natBytes 2 (m0.2.1.getD b 0) ++ natBytes 2 (m1.2.1.getD b 0)),
    copy := copy.bytes.map (·.2), cnt0 := m0.2.2, cnt1 := m1.2.2, cntw := copy.counts,
    sred := (gs.take (min 4096 (g.count - 4096 * c))).foldl (fun a v => valAdd a (valMul v v)) valZero }

/-! ### Chunks arriving (R215, R219, R220, R228) -/

def groupAt (u : Upd) (i : Nat) : Option UGroup := Tbl.get? u.groups i
def ruleAt (u : Upd) (g : UGroup) : URule := Tbl.get ruleReset u.rules g.rule

def setUpdErr (s : State) (p b : Nat) : State := let u := updOf s p; setUpd s p { u with err := setBit u.err b }

/-- A slow-tier access of the unit fails: `UPD_ERR.SLOW`, and `MEM_ERR.SLOW` as for every such access (R149, R220, R379). -/
def updSlowFail (s : State) (p addr : Nat) : State := memError (setUpdErr s p 2) p errSlow addr false

/-- A tile failed or poison was met: the chunk is not applied, and its group never will be (R220, R473). -/
def chunkFails (s : State) (p : Nat) (f : UFail) : State :=
  let u := updOf s p
  match f with
  | .check => setUpd s p { u with err := setBit u.err 0, chk := satInc 0xFFFF u.chk }
  | .poison a => memError (setUpd s p { u with err := setBit u.err 0, chk := satInc 0xFFFF u.chk }) p errUe a false

def updPark (s : State) (p slot : Nat) (f : Park → Park) : State :=
  let u := updOf s p
  setUpd s p { u with parks := u.parks.map (fun k => if k.slot = slot then f k else k) }

/-- A parking slot is freed. -/
def freePark (s : State) (p slot : Nat) : State :=
  let u := updOf s p
  let n := (u.parks.filter (fun k => k.slot == slot)).length
  setUpd s p { u with parks := u.parks.filter (fun k => k.slot != slot), freed := (u.freed + n) % 65536 }

/-- The set may hand its next chunk over: no decision waits, and its round is not in COMMIT (R221). -/
def setOpen (u : Upd) (k : Nat) : Bool := (usetOf u k).events.isEmpty && (usetOf u k).st != .commit

/-- Parking slots in use, and the lowest free one (R228, R229). -/
def parkFree (u : Upd) : Option Nat :=
  if u.parkSize ≤ u.parks.length then none
  else (List.range (u.parks.length + 1)).find? (fun n => u.parks.all (fun k => k.slot != n))

def canTake (u : Upd) (d : Deliv) : Bool :=
  setOpen u d.set && (!(match groupAt u d.group with | some g => d.good && g.en && slowGroup g | none => false) || (parkFree u).isSome)

/-- Groups of a set that are enabled, with their numbers. -/
def groupsOf (u : Upd) (k : Nat) : List (Nat × UGroup) := u.groups.filter (fun e => e.2.en && e.2.set == k)

/-- Zeros over a group's done map, in usable HBM of its partition (R209, R210). -/
def clearMap (s : State) (p : Nat) (g : UGroup) : State :=
  if usableHbm s g.dmap (chunksOfGroup g) ∧ hbmPart g.dmap = p then hbmWrite s 3 g.dmap (List.replicate (chunksOfGroup g) 0#8) else s

/-- The done maps of a set's groups, enabled or not. -/
def mapSpans (s : State) (p k : Nat) : List (Nat × Nat) :=
  ((updOf s p).groups.filter (fun e => e.2.set == k && usableHbm s e.2.dmap (chunksOfGroup e.2) && hbmPart e.2.dmap == p)).map
    (fun e => (e.2.dmap, chunksOfGroup e.2))

/-- Zeros over the done maps of every group of a set, enabled or not (R219). -/
def clearMaps (s : State) (p k : Nat) : State :=
  ((updOf s p).groups.filter (fun e => e.2.set == k)).foldl (fun s e => clearMap s p e.2) s

/-- The attempt opens with the first chunk of the set (R221). -/
def openRound (s : State) (p : Nat) (d : Deliv) : State :=
  let us := usetOf (updOf s p) d.set
  if us.st ≠ .idle then s
  else
    let s := if d.tag < us.attempt then clearMaps s p d.set else s
    let u := updOf s p
    setUpd s p (setUset u d.set { us with st := .opened, attempt := d.tag })

/-- The update unit has taken a chunk: the set's window credit goes back (R260). -/
def chunkTaken (s : State) (d : Deliv) : State :=
  match (setOf s d.set).cfg with
  | some c =>
    if d.tag ≠ (setOf s d.set).attempt then s
    else
      let s := updSet s d.set (fun x => { x with run := x.run.map (fun r => { r with delivered := r.delivered - 1 }) })
      returnWindow s d.set c .rsUpd d.link d.src
  | none => s

/-- A chunk whose check fails is reported to its set, which asks for it again (R220, R265). -/
def reportBad (s : State) (d : Deliv) : State :=
  let x := setOf s d.set
  match x.cfg, x.run with
  | some c, some r =>
    let s := setRun s d.set { r with delivered := r.delivered - 1 }
    let m : SetMsg := ⟨c.tag, .chunk, d.tag, 0, d.src, c.ord, 0, x.dseq, d.buf, 0, []⟩
    chunkBad s d.set c d.link m
  | _, _ => s

/-- D2H requests of a parking slot sent as long as there is room (R379). -/
def pumpPark : Nat → State → Nat → Nat → State
  | 0, s, _, _ => s
  | fuel + 1, s, p, slot =>
    let u := updOf s p
    match u.parks.find? (fun k => k.slot == slot) with
    | none => s
    | some k =>
      match k.todo with
      | [] => s
      | t :: todo =>
        if !d2hRoom s then s
        else if !slowServed s t.1 then
          updSlowFail (updPark s p slot (fun k => { k with todo := [], failed := true })) p (0x800000000000 + t.1)
        else
          let id := s.cxl.nextId
          let len := if t.2.2.isEmpty then 64 else t.2.2.length
          let s := sendD2h s (.park p slot) t.1 t.2.1 len t.2.2
          pumpPark fuel (updPark s p slot (fun k => { k with todo := todo, slow := k.slow ++ [id] })) p slot

/-- Parts of a parked chunk's state: offset in the slot of the state block, bytes, and offset in the parking slot. -/
def partSpan (g : UGroup) (m c : Nat) : Nat → Nat × Nat × Nat
  | 0 => (16384 * c, 16384, 0x4000)
  | 1 => (codesOff g 0 + 4096 * c, 4096, 0x8000)
  | 2 => (codesOff g 1 + 4096 * c, 4096, 0x9000)
  | _ => (scalesOff g m + 128 * c, 128, 0xA000)

def partsOf (m : Nat) : List Nat := if m = 0 then [0] else if m = 1 then [0, 1, 3] else [0, 1, 2, 3]

def parkBase (u : Upd) (slot : Nat) : Nat := u.park.toNat * 65536 + 65536 * slot

def slowOff (a : Nat) : Nat := a % 0x800000000000

def slotBase (us : USet) (g : UGroup) (other : Bool) : Nat := if us.parity != other then g.sbase1 else g.sbase0
def stageAt (us : USet) (g : UGroup) (other : Bool) : Nat := if us.parity != other then g.wbase1 else g.wbase0

/-- A parking slot as the chunk is written into it: its gradient, and past the scale bytes what it is (R228). -/
def parkImage (d : Deliv) : List Byte :=
  let pad (n : Nat) (bs : List Byte) : List Byte := bs ++ List.replicate (n - bs.length) 0#8
  pad 65536 (pad 0xA080 d.payload ++ natBytes 4 d.group ++ natBytes 4 d.chunk ++ natBytes 4 d.tag ++ natBytes 4 d.lsq.toNat)

/-- A chunk of a slow-tier group is parked, and its slot-P state asked for (R228). -/
def parkChunk (s : State) (p slot : Nat) (d : Deliv) (g : UGroup) : State :=
  let u := updOf s p
  let m := (ruleAt u g).mom
  let base := slotBase (usetOf u d.set) g false
  let s := updWrite s (parkBase u slot) (parkImage d)
  let todo := (partsOf m).flatMap (fun n =>
    let sp := partSpan g m d.chunk n
    (slowLinesIn (slowOff (base + sp.1)) sp.2.1).map (fun l => (l.1, sp.2.2 + (l.1 - slowOff (base + sp.1)), ([] : List Byte))))
  let k : Park := ⟨slot, d, partsOf m, todo, [], [], false, none, false, false⟩
  let u := updOf s p
  pumpPark (todo.length + 1) (setUpd s p { u with parks := u.parks ++ [k], alloc := (u.alloc + 1) % 65536 }) p slot

/-- Device ranges that taking a delivered chunk reads and writes (R376): its done-map byte, the done maps a returning tag zeroes,
and the parking slot. -/
def arriveSpans (s : State) (p : Nat) (d : Deliv) : List (Nat × Nat) × List (Nat × Nat) :=
  let u := updOf s p
  match groupAt u d.group with
  | none => ([], [])
  | some g =>
    if d.tag ≠ (setOf s d.set).attempt ∨ !d.good then ([], [])
    else
      ([(doneGet g d.chunk).2],
       (if (usetOf u d.set).st = .idle ∧ d.tag < (usetOf u d.set).attempt then mapSpans s p d.set else []) ++
        (if slowGroup g then (parkFree u).toList.flatMap (fun n => withEntries s [(parkBase u n, 65536)]) else []))

/-- A good chunk of a group of its set: tested against the done map, it goes to be applied or parked. -/
def chunkGood (s : State) (p : Nat) (d : Deliv) (g : UGroup) : State :=
  let s := openRound s p d
  let f := getFault s (doneGet g d.chunk)
  let s := meterGets s [doneGet g d.chunk]
  let u := updOf s p
  match f with
  | some f => chunkFails s p f
  | none =>
    if hbmByte s (g.dmap + d.chunk) = tagByte d.tag then setUpd s p { u with dup := satInc 0xFFFF u.dup }
    else if slowGroup g then
      match parkFree u with
      | some slot => parkChunk s p slot d g
      | none => s
    else setUpd s p { u with work := u.work ++ [(d, none)] }

/-- A delivered chunk is checked, and handed on where it is good (R215, R219, R220). -/
def chunkArrive (s : State) (p : Nat) : State :=
  let u := updOf s p
  if !partActive s p || unitHeld s (.update p) then s
  else
    match u.deliver.find? (canTake u) with
    | none => s
    | some d =>
      match hostHolds s (arriveSpans s p d).1 (arriveSpans s p d).2 with
      | some s => s
      | none =>
        let s := setUpd s p { u with deliver := u.deliver.eraseP (canTake u) }
        if d.tag ≠ (setOf s d.set).attempt then s
        else if !d.good then reportBad (setUpdErr s p 1) d
        else
          match groupAt u d.group with
          | none => chunkTaken (setUpdErr s p 3) d
          | some g =>
            if !g.en ∨ g.set ≠ d.set ∨ g.count ≤ 4096 * d.chunk then chunkTaken (setUpdErr s p 3) d
            else chunkTaken (apart s 3 (fun s => chunkGood s p d g)) d

def execUpdateChunkArrive (p : Fin 8) (s : State) : Host.Outcome State Fault Refusal := .next (clocked s (chunkArrive s p))

/-! ### Chunks applied (R215, R228, R231) -/

def gsumReset : GSum := ⟨valZero, valZero, 0, [], [], false⟩
def gsumOf (u : Upd) (gi : Nat) : GSum := Tbl.get gsumReset u.sums gi

/-- The three records of a group before any element is measured (R87, R90). -/
def updRecs (p gi step : Nat) (fill : Bool) (g : UGroup) : List CRec :=
  let fmt := g.ccw / 2 ^ 11 % 32
  if g.ccw.testBit 4 then [fmt, 0x03, 0x10].map (fun f => ⟨2, gi, f, 0x80 + p, fill, step, 0, 0, 0, 0, histZero⟩) else []

def addRecs (rs : List CRec) (o : ChunkOut) : List CRec :=
  match rs with
  | [w, a, b] => [recAdd w o.cntw 0, recAdd a o.cnt0 0, recAdd b o.cnt1 0]
  | rs => rs

/-- A record pushed as the unit's sums close. -/
def pushAll (s : State) (p : Nat) (rs : List CRec) : State := rs.foldl (fun s r => pushCensus s p r) s

/-- The noise record of a group (R231). -/
def noiseBytes (step : W32) (x : GSum) : List Byte :=
  natBytes 4 step.toNat ++ natBytes 4 (fp32Of x.sloc) ++ natBytes 4 (fp32Of x.sred) ++ natBytes 4 x.n

/-- The group is applied when every chunk of it is: its records are made and its noise record written. -/
def closeGroup (s : State) (p gi : Nat) (g : UGroup) (step : W32) : State :=
  let u := updOf s p
  let x := gsumOf u gi
  if x.n = chunksOfGroup g ∧ !x.closed then
    let s := hbmWrite s 3 (u.noise.toNat * 65536 + 16 * gi) (noiseBytes step x)
    pushAll (setUpd s p { u with sums := Tbl.set u.sums gi { x with closed := true } }) p x.recs
  else s

/-- Where a group's schedule entry lies (R214). -/
def schedAt (g : UGroup) (step : W32) : Nat := g.sched + 16 * min step.toNat (g.schlen - 1)

/-- The schedule entry of a group, read once an attempt (R214). -/
def schedOf (s : State) (g : UGroup) (x : GSum) (step : W32) : List Byte :=
  if x.sch.isEmpty then devRead s (schedAt g step) 16 else x.sch

/-- Where part `n` of a chunk's state lies: in slot P of HBM, or in its parking slot. -/
def statePart (u : Upd) (g : UGroup) (d : Deliv) (slot : Option Nat) (n : Nat) : Nat :=
  match slot with
  | some k => parkBase u k + (partSpan g (ruleAt u g).mom d.chunk n).2.2
  | none => slotBase (usetOf u d.set) g false + (partSpan g (ruleAt u g).mom d.chunk n).1

/-- What a chunk reads of its state, every tile verified: the schedule entry where the group has not read it, a parked gradient, and
the parts of slot P (R214, R215, R228). -/
def stateGets (s : State) (p : Nat) (g : UGroup) (d : Deliv) (slot : Option Nat) : List UpdGet :=
  let u := updOf s p
  let m := (ruleAt u g).mom
  (if (gsumOf u d.group).sch.isEmpty then [(true, schedAt g (usetOf u d.set).step, 16)] else []) ++
    (match slot with
     | some k => [(true, parkBase u k, 16384)]
     | none => []) ++
    (partsOf m).map (fun n => (true, statePart u g d slot n, (partSpan g m d.chunk n).2.1))

/-- The gradient and the state of a chunk. -/
def chunkState (s : State) (p : Nat) (g : UGroup) (d : Deliv) (slot : Option Nat) : List Byte × ChunkIn :=
  let u := updOf s p
  let m := (ruleAt u g).mom
  let part (n len : Nat) : List Byte := if (partsOf m).contains n then devRead s (statePart u g d slot n) len else []
  (match slot with
    | some k => devRead s (parkBase u k) 16384
    | none => d.payload,
   ⟨part 0 16384, part 1 4096, part 2 4096, part 3 128, schedOf s g (gsumOf u d.group) (usetOf u d.set).step⟩)

/-- The pieces of a chunk's scales in slot 1 − P, and of its working copy in stage 1 − P (R217). -/
def scalePieces (u : Upd) (g : UGroup) (d : Deliv) : List TilePiece :=
  let m := (ruleAt u g).mom
  if m = 0 then [] else tilePieces d.chunk (slotBase (usetOf u d.set) g true + scalesOff g m) (chunksOfGroup g) 128

def copyPieces (u : Upd) (g : UGroup) (d : Deliv) : List TilePiece :=
  tilePieces d.chunk (stageAt (usetOf u d.set) g true) (chunksOfGroup g) (copyBytes g.ccw)

/-- A chunk's results written into slot and stage 1 − P of HBM (R215, R217). -/
def writeFast (s : State) (p gi : Nat) (g : UGroup) (d : Deliv) (o : ChunkOut) : State :=
  let u := updOf s p
  let m := (ruleAt u g).mom
  let base := slotBase (usetOf u d.set) g true
  let s := updWrite s (base + 16384 * d.chunk) o.masters
  let s := if 1 ≤ m then updWrite s (base + codesOff g 0 + 4096 * d.chunk) o.codes0 else s
  let s := if m = 2 then updWrite s (base + codesOff g 1 + 4096 * d.chunk) o.codes1 else s
  asmPut p gi g d.tag d.chunk (scalePieces u g d ++ copyPieces u g d) ((if m = 0 then [] else o.scales) ++ o.copy) s

/-- The bytes of a stage tile are all written in this filling: each chunk that covers it is applied, or parked with its rule
run (R147). -/
def stageFull (s : State) (p gi : Nat) (g : UGroup) (d : Deliv) (t : TilePiece) : Bool :=
  t.cover.all (fun c => c == d.chunk || (doneChunks s g d.tag t.cover).contains c ||
    (updOf s p).parks.any (fun k => k.applied && k.d.group == gi && k.d.chunk == c && k.d.tag == d.tag))

/-- Stage tiles that a parked chunk completes take their entries (R147, R228). -/
def sealStage (s : State) (p gi : Nat) (g : UGroup) (d : Deliv) : State :=
  let full := (copyPieces (updOf s p) g d).filter (stageFull s p gi g d)
  full.foldl (fun s t => sealWhole s 3 t.addr 4096) s

/-- A parked chunk's results: slot 1 − P to the slow tier, stage 1 − P to HBM (R228). -/
def writeSlow (s : State) (p slot : Nat) (g : UGroup) (d : Deliv) (o : ChunkOut) : State :=
  let u := updOf s p
  let us := usetOf u d.set
  let m := (ruleAt u g).mom
  let base := slotBase us g true
  let data (n : Nat) : List Byte := match n with
    | 0 => o.masters | 1 => o.codes0 | 2 => o.codes1 | _ => o.scales
  let todo := (partsOf m).flatMap (fun n =>
    let sp := partSpan g m d.chunk n
    (slowLinesIn (slowOff (base + sp.1)) sp.2.1).map (fun l =>
      let k := l.1 - slowOff (base + sp.1)
      (l.1, sp.2.2 + k, bytesAt (data n) k l.2)))
  let s := sealStage (devWrite s 3 (stageAt us g true + copyBytes g.ccw * d.chunk) o.copy) p d.group g d
  let s := updPark s p slot (fun k => { k with applied := true, result := some o, todo := todo })
  pumpPark (todo.length + 1) s p slot

/-- What counting a chunk writes: its done-map byte, and the noise record with the group's last chunk. -/
def countSpans (s : State) (p gi : Nat) (g : UGroup) (d : Deliv) : List (Nat × Nat) :=
  let u := updOf s p
  (doneGet g d.chunk).2 :: (if (gsumOf u gi).n + 1 = chunksOfGroup g then [(u.noise.toNat * 65536 + 16 * gi, 16)] else [])

/-- Everything a chunk reads beyond its done-map byte. -/
def chunkGets (s : State) (p : Nat) (g : UGroup) (d : Deliv) (slot : Option Nat) : List UpdGet :=
  let u := updOf s p
  stateGets s p g d slot ++ (if slot.isSome then (copyPieces u g d).flatMap (coverGets g)
    else (scalePieces u g d ++ copyPieces u g d).flatMap (pieceGets s p g d.tag d.chunk))

/-- What applying a chunk writes, for the lines a host may hold (R376). -/
def chunkWrites (s : State) (p : Nat) (g : UGroup) (d : Deliv) (slot : Option Nat) : List (Nat × Nat) :=
  let u := updOf s p
  let us := usetOf u d.set
  let m := (ruleAt u g).mom
  let n := copyBytes g.ccw
  if slot.isSome then withEntries s [(stageAt us g true + n * d.chunk, n)]
  else
    withEntries s (((partsOf m).filter (· != 3)).map (fun k =>
      (slotBase us g true + (partSpan g m d.chunk k).1, (partSpan g m d.chunk k).2.1)) ++
      asmWrites s p g d.tag d.chunk (scalePieces u g d ++ copyPieces u g d)) ++ countSpans s p d.group g d

/-- The chunk's tag in the done map, its sums, and the group closed where it was the last (R215, R231). -/
def countChunk (s : State) (p gi : Nat) (g : UGroup) (d : Deliv) (o : ChunkOut) : State :=
  let s := hbmWrite s 3 (g.dmap + d.chunk) [tagByte d.tag]
  let u := updOf s p
  let us := usetOf u d.set
  let x := gsumOf u gi
  let recs := if x.n = 0 then updRecs p gi us.step.toNat (((setOf s d.set).cfg.map (·.fill)).getD false) g else x.recs
  let x := { x with
                    sloc := valAdd x.sloc (fp32Val d.lsq.toNat), sred := valAdd x.sred o.sred, n := x.n + 1,
                    recs := addRecs recs o }
  closeGroup (setUpd s p { u with sums := Tbl.set u.sums gi x }) p gi g us.step

/-- A chunk found applied already is discarded and counted (R219). -/
def chunkDup (s : State) (p : Nat) : State :=
  let u := updOf s p
  setUpd s p { u with dup := satInc 0xFFFF u.dup }

/-- The rule runs on a chunk whose reads are all good: a fast chunk is applied, a parked one's writes go out (R215, R228). -/
def chunkRun (s : State) (p : Nat) (g : UGroup) (d : Deliv) (slot : Option Nat) : State :=
  let u := updOf s p
  let us := usetOf u d.set
  let x := chunkState s p g d slot
  let o := runChunk (u.seedHi ++ u.seedLo) us.step (wrefOf s p) g (ruleAt u g) d.chunk x.1 x.2
  let s := meterGets s (stateGets s p g d slot ++ (if slot.isSome then (copyPieces u g d).flatMap (coverGets g) else []))
  let u := updOf s p
  let s := setUpd s p { u with sums := Tbl.set u.sums d.group { gsumOf u d.group with sch := x.2.sch } }
  match slot with
  | none => countChunk (writeFast s p d.group g d o) p d.group g d o
  | some k => writeSlow s p k g d o

/-- The first chunk whose turn it is: found applied, stopped by a read that fails, or run (R215, R219, R220). -/
def chunkNext (s : State) (p : Nat) (g : UGroup) (d : Deliv) (slot : Option Nat) : State :=
  match getFault s (doneGet g d.chunk) with
  | some f => chunkFails (meterGets s [doneGet g d.chunk]) p f
  | none =>
    if hbmByte s (g.dmap + d.chunk) = tagByte d.tag then
      let s := chunkDup (meterGets s [doneGet g d.chunk]) p
      match slot with
      | some k => freePark s p k
      | none => s
    else
      match (chunkGets s p g d slot).findSome? (getFault s) with
      | some f => chunkFails (meterGets s (doneGet g d.chunk :: chunkGets s p g d slot)) p f
      | none => chunkRun (meterGets s [doneGet g d.chunk]) p g d slot

def chunkApplied (s : State) (p : Nat) : State :=
  let u := updOf s p
  if !partActive s p then s
  else
    match u.work with
    | [] => s
    | (d, slot) :: rest =>
      let drop (s : State) : State := let u := updOf s p; setUpd s p { u with work := rest }
      match groupAt u d.group with
      | none => drop s
      | some g =>
        match hostHolds s (getSpans s (doneGet g d.chunk :: chunkGets s p g d slot)) (chunkWrites s p g d slot) with
        | some s => s
        | none => apart (drop s) 3 (fun s => chunkNext s p g d slot)

def execUpdateChunkApplied (p : Fin 8) (s : State) : Host.Outcome State Fault Refusal := .next (clocked s (chunkApplied s p))

/-! ### Parking (R228-R230) -/

/-- The first part of a slot's state whose lines have all come, with its bytes. -/
def partCome (s : State) (p : Nat) (k : Park) : Option (Nat × List Byte) :=
  let u := updOf s p
  match groupAt u k.d.group with
  | none => none
  | some g =>
    let m := (ruleAt u g).mom
    k.parts.findSome? (fun n =>
      let sp := partSpan g m k.d.chunk n
      let mine := k.lines.filter (fun l => decide (sp.2.2 ≤ l.1) && decide (l.1 < sp.2.2 + sp.2.1))
      if (mine.map (fun l => l.2.length)).sum < sp.2.1 then none
      else some (n, (memRead (mine.foldl (fun m l => memWrite m l.1 l.2) []) sp.2.2 sp.2.1)))

/-- A part of a parked chunk's state is written into its slot; with the last one the chunk is ready (R228). -/
def parkArrive (s : State) (p slot : Nat) : State :=
  let u := updOf s p
  match u.parks.find? (fun k => k.slot == slot) with
  | none => s
  | some k =>
    if k.aborted ∨ k.failed ∨ !partActive s p then s
    else
      match partCome s p k, groupAt u k.d.group with
      | some (n, bs), some g =>
        let off := (partSpan g (ruleAt u g).mom k.d.chunk n).2.2
        let a := parkBase u slot + off
        match hostHolds s [] (withEntries s [(a, bs.length)]) with
        | some s => s
        | none =>
        let s := apart s 3 (fun s => sealAll (devWrite s 3 a bs) 3 (tilesOf s a bs.length))
        let parts := k.parts.filter (· != n)
        let s := updPark s p slot (fun k => { k with parts := parts, lines := k.lines.filter (fun l => !(decide (off ≤ l.1) && decide (l.1 < off + bs.length))) })
        if parts.isEmpty then
          let u := updOf s p
          setUpd s p { u with work := u.work ++ [(k.d, some slot)] }
        else s
      | _, _ => s

def execParkStateArrive (p : Fin 8) (slot : Nat) (s : State) : Host.Outcome State Fault Refusal := .next (clocked s (parkArrive s p slot))

/-- The writes of a parking slot's chunk are complete. -/
def parkWritten (k : Park) : Bool := k.applied && !k.failed && !k.aborted && k.todo.isEmpty && k.slow.isEmpty

/-- A parked chunk is applied once all its writes are, and its slot is freed (R219, R220, R228, R229). -/
def parkCount (s : State) (p slot : Nat) (d : Deliv) (g : UGroup) (o : ChunkOut) : State :=
  let f := getFault s (doneGet g d.chunk)
  let s := meterGets (freePark s p slot) [doneGet g d.chunk]
  match f with
  | some f => chunkFails s p f
  | none => if hbmByte s (g.dmap + d.chunk) = tagByte d.tag then chunkDup s p else countChunk s p d.group g d o

/-- A parked chunk's writes are complete (R228, R229). -/
def parkDone (s : State) (p slot : Nat) : State :=
  match (updOf s p).parks.find? (fun k => k.slot == slot && parkWritten k && partActive s p) with
  | none => s
  | some k =>
    match k.result, groupAt (updOf s p) k.d.group with
    | some o, some g =>
      match hostHolds s [] (countSpans s p k.d.group g k.d) with
      | some s => s
      | none => apart s 3 (fun s => parkCount s p slot k.d g o)
    | _, _ => s

def execParkWritesComplete (p : Fin 8) (slot : Nat) (s : State) : Host.Outcome State Fault Refusal := .next (clocked s (parkDone s p slot))

/-- A D2H completion for a parking slot: data kept, or discarded after an abort; a failure is `UPD_ERR.SLOW` (R220,
R230). -/
def parkSlowDone (s : State) (p slot : Nat) (r : D2h) (ok : Bool) (data : List Byte) : State :=
  match (updOf s p).parks.find? (fun k => k.slot == slot && k.slow.contains r.id) with
  | none => s
  | some k =>
    let slow := k.slow.filter (· != r.id)
    if k.aborted then
      if slow.isEmpty then freePark s p slot else updPark s p slot (fun k => { k with slow := slow })
    else if !ok then updSlowFail (updPark s p slot (fun k => { k with slow := slow, todo := [], failed := true })) p r.addr
    else
      let s := updPark s p slot (fun k => { k with slow := slow, lines := if r.write then k.lines else k.lines ++ [(r.dst, data.take r.len)] })
      pumpPark (k.todo.length + 1) s p slot

/-! ### Rounds (R221-R224) -/

/-- Every part of the attempt is done (R222). -/
def roundDone (s : State) (p k : Nat) : Bool :=
  let u := updOf s p
  let gs := groupsOf u k
  gs.all (fun e => (gsumOf u e.1).closed) && u.asm.all (fun t => gs.all (fun e => e.1 != t.group)) &&
    u.parks.all (fun x => x.d.set != k) && u.work.all (fun w => w.1.set != k) &&
    (memOf s p).census.waiting.all (fun r => !(r.unit == 2 && gs.any (fun e => e.1 == r.tag)))

/-- The partition reaches APPLIED and posts its groups' tokens (R221). -/
def roundApplied (s : State) (p k : Nat) : State :=
  let u := updOf s p
  let us := usetOf u k
  if us.st = .opened ∧ us.events.isEmpty ∧ partActive s p ∧ roundDone s p k then
    let s := setUpd s p (setUset u k { us with st := .applied })
    let fill := ((setOf s k).cfg.map (·.fill)).getD false
    (groupsOf u k).foldl (fun s e => if e.2.post then sendPost s (.update p) fill e.2.token else s) s
  else s

def execRoundApplied (p : Fin 8) (k : Fin 64) (s : State) : Host.Outcome State Fault Refusal := .next (clocked s (roundApplied s p k))

/-- The commit record with set `k` one step on (R225). -/
def commitRecord (u : Upd) (k : Nat) : List Byte :=
  let par := (List.range 64).foldl (fun n i => n + (if (usetOf u i).parity != (i == k) then 2 ^ i else 0)) 0
  let body := natBytes 8 (u.seq + 1) ++ natBytes 8 par ++
    (List.range 64).flatMap (fun i => natBytes 4 ((usetOf u i).step.toNat + (if i = k then 1 else 0))) ++
    List.replicate 236 0#8
  body ++ natBytes 4 (crc32c body)

def recordAddr (u : Upd) : Nat := u.crec.toNat * 65536 + 4096 * ((u.seq + 1) % 2)

/-- A set of the partition is writing its record: the next waits. -/
def committing (u : Upd) : Bool := (List.range 64).any (fun k => (usetOf u k).st == .commit)

/-- COMMIT from the set: the record's first line is written (R223). -/
def roundCommit (s : State) (p k : Nat) : State :=
  let u := updOf s p
  let us := usetOf u k
  if us.events.head? ≠ some true ∨ !partActive s p then s
  else if us.st = .applied then
    if committing u then s
    else
      match hostHolds s [] [(recordAddr u, 256)] with
      | some s => s
      | none =>
      let s := apart s 3 (fun s => hbmWrite s 3 (recordAddr u) ((commitRecord u k).take 256))
      let u := updOf s p
      setUpd s p (setUset u k { us with st := .commit, events := us.events.tail })
  else setUpdErr (setUpd s p (setUset u k { us with events := us.events.tail })) p 4

def execRoundCommit (p : Fin 8) (k : Fin 64) (s : State) : Host.Outcome State Fault Refusal := .next (clocked s (roundCommit s p k))

/-- Nothing of an attempt's sums, tiles and chunks stays. -/
def clearAttempt (u : Upd) (k : Nat) : Upd :=
  let mine (gi : Nat) : Bool := match groupAt u gi with | some g => g.set == k | none => false
  { u with sums := u.sums.filter (fun e => !mine e.1), asm := u.asm.filter (fun t => !mine t.group),
           work := u.work.filter (fun w => w.1.set != k) }

/-- The done maps that the tag after this attempt's zeroes. -/
def tagSpans (s : State) (p k : Nat) : List (Nat × Nat) := if (usetOf (updOf s p) k).attempt = 255 then mapSpans s p k else []

/-- The attempt tag after this one; done maps are zeroed as it returns to 1 (R219). -/
def advanceTag (s : State) (p k : Nat) : State :=
  let u := updOf s p
  let us := usetOf u k
  let s := if us.attempt = 255 then clearMaps s p k else s
  let u := updOf s p
  setUpd s p (setUset u k { usetOf u k with attempt := nextAttempt us.attempt })

/-- The record is visible: parity flips, STEP advances, the set is IDLE (R223). -/
def commitVisible (s : State) (p k : Nat) : State :=
  let u := updOf s p
  let us := usetOf u k
  if us.st ≠ .commit ∨ !partActive s p then s
  else
    let a := recordAddr u
    match hostHolds s [] ((a + 256, 256) :: tagSpans s p k) with
    | some s => s
    | none =>
    let s := apart s 3 (fun s => hbmWrite s 3 (a + 256) ((commitRecord u k).drop 256))
    let u := clearAttempt (updOf s p) k
    let u := { u with seq := u.seq + 1 }
    let s := setUpd s p (setUset u k { us with st := .idle, parity := !us.parity, step := us.step + 1 })
    commitSeen (advanceTag s p k) k p

def execCommitRecordVisible (p : Fin 8) (k : Fin 64) (s : State) : Host.Outcome State Fault Refusal := .next (clocked s (commitVisible s p k))

/-- Parking slots of a set are freed, those with requests in flight when these return (R230). -/
def abortParks (s : State) (p k : Nat) : State :=
  ((updOf s p).parks.filter (fun x => x.d.set == k)).foldl (fun s x =>
    if x.slow.isEmpty then freePark s p x.slot else updPark s p x.slot (fun y => { y with aborted := true, todo := [] })) s

/-- ABORT from the set: the round is IDLE again, the tag advances, the slots are freed (R221, R224). -/
def roundAbort (s : State) (p k : Nat) : State :=
  let u := updOf s p
  let us := usetOf u k
  if us.events.head? ≠ some false ∨ !partActive s p then s
  else if us.st = .opened ∨ us.st = .applied then
    match hostHolds s [] (tagSpans s p k) with
    | some s => s
    | none =>
    let tag := (setOf s k).attempt
    let u := clearAttempt { u with deliver := u.deliver.filter (fun d => d.set != k || d.tag == tag) } k
    let s := setUpd s p (setUset u k { us with st := .idle, events := us.events.tail })
    advanceTag (abortParks s p k) p k
  else setUpdErr (setUpd s p (setUset u k { us with events := us.events.tail })) p 4

def execRoundAbort (p : Fin 8) (k : Fin 64) (s : State) : Host.Outcome State Fault Refusal := .next (clocked s (roundAbort s p k))

/-! ### Restoring after a partition reset (R226) -/

/-- The copy of the commit record to take: its check is good and its SEQ is the higher. -/
def goodRecord (s : State) (crec : W32) : Option (List Byte) :=
  let copy (n : Nat) : Option (List Byte) :=
    let bs := hbmRead s (crec.toNat * 65536 + 4096 * n) 512
    if crc32c (bs.take 508) = natAt bs 508 4 then some bs else none
  match copy 0, copy 1 with
  | some a, some b => some (if natAt b 0 8 < natAt a 0 8 then a else b)
  | some a, none => some a
  | none, o => o

/-- Reading the two copies of a commit record is metered (R143). -/
def meterRecord (s : State) (crec : W32) : State :=
  meterHbm (meterHbm s none 3 false (crec.toNat * 65536) 512) none 3 false (crec.toNat * 65536 + 4096) 512

/-- Parity, STEP and SEQ from the commit record, every tag 1, every round IDLE. -/
def restoreRounds (s : State) (u : Upd) : Upd :=
  match goodRecord s u.crec with
  | none => { u with sets := [], seq := 0 }
  | some bs =>
    { u with seq := natAt bs 0 8,
             sets := (List.range 64).map (fun k => (k, { usetReset with
               step := BitVec.ofNat 32 (natAt bs (16 + 4 * k) 4), parity := (natAt bs 8 8).testBit k })) }

/-- What Jante knows of a partition's update unit: the unit itself, or what it kept of one that was reset (R424). -/
def keptUpd (s : State) (p : Nat) : Upd := (Tbl.get? s.kept p).getD (updOf s p)

/-- The update unit of a partition after its reset: its tables reloaded from HBM, where an entry of zeros is an empty one, rounds
restored, every done map zeroed, every parking slot free (R209, R211, R226, R230). -/
def updRestore (s : State) (p : Nat) : State :=
  let u := keptUpd s p
  let base := u.gtab.toNat * 65536
  let entry (at_ w n : Nat) : List Byte := if hbmPart base = p then hbmRead s (base + at_ + w * n) w else []
  let full (bs : List Byte) : Bool := bs.any (· != 0#8)
  let groups := (List.range 256).filterMap (fun n => let bs := entry 0 64 n; if full bs then some (n, groupOf bs) else none)
  let rules := (List.range 16).filterMap (fun n => let bs := entry 16384 192 n; if full bs then some (n, ruleOf bs) else none)
  let v := restoreRounds s { updReset with
    gtab := u.gtab, crec := u.crec, noise := u.noise, park := u.park,
    parkSize := u.parkSize, groups := groups, rules := rules }
  let s := meterRecord (if hbmPart base = p then meterHbm s none 3 false base 19456 else s) u.crec
  groups.foldl (fun s e => clearMap s p e.2) (setUpd s p v)

end Sys2Proof.Machine
end

