-- ==== Sys2Proof/Machine/Records.lean ====
section
/-!
DEFINITION. Census records: thresholds, vetoes, the ring and the merge accumulators (spec/05_numeric_census.md R90-R99).
-/

namespace Sys2Proof.Machine

def censusOf (s : State) (p : Nat) : Census := (memOf s p).census
def setCensus (s : State) (p : Nat) (x : Census) : State := setMem s p { memOf s p with census := x }

def cap32 (n : Nat) : Nat := min n 0xFFFFFFFF

/-- A count or bin reached its maximum (R90). -/
def recFull (r : CRec) : Bool := decide (0xFFFFFFFF ≤ r.sat) || decide (0xFFFFFFFF ≤ r.flush) || decide (0xFFFFFFFF ≤ r.nan) ||
  r.hist.any (fun b => decide (0xFFFFFFFF ≤ b))

/-- A record crosses a threshold: its counts stop at their maximum (R90, R95). -/
def crosses (x : Census) (r : CRec) : Bool :=
  let sat := bits x.cthr0 15 0
  let fl := bits x.cthr0 31 16
  let nan := bits x.cthr1 15 0
  (sat != 0 && decide (sat * r.elems < cap32 r.sat * 65536)) || (fl != 0 && decide (fl * r.elems < cap32 r.flush * 65536)) ||
    (nan != 0 && decide (nan ≤ cap32 r.nan))

/-- The bytes of a record; `tag`, `unit` and `src` as R90 has them, `flags` complete. -/
def recBytes (r : CRec) (tag unit src flags seq step0 nrec : Nat) : List Byte :=
  let head := natBytes 2 tag ++ natBytes 1 unit ++ natBytes 1 r.fmt ++ natBytes 1 src ++ natBytes 1 flags ++ natBytes 2 0 ++
    natBytes 4 r.step ++ natBytes 4 seq ++ natBytes 8 r.elems ++ natBytes 4 (cap32 r.sat) ++ natBytes 4 (cap32 r.flush) ++
    natBytes 4 (cap32 r.nan) ++ natBytes 4 step0 ++ natBytes 4 nrec ++ List.replicate 20 0#8 ++
    ((List.range 32).flatMap (fun b => natBytes 4 (cap32 (r.hist.getD b 0)))) ++ List.replicate 60 0#8
  head ++ natBytes 4 (crc32c head)

/-- Records the ring holds (R92). -/
def ringRecords (x : Census) : Nat := 2 ^ (8 + bits x.cfg 3 0)
def ringEn (x : Census) : Bool := bitAt x.cfg 31
def ringFull (x : Census) : Bool := (x.head - x.tail).toNat == ringRecords x
def ringAddr (p : Nat) (x : Census) : Nat := p * hbmWindow + bits x.base 24 0 * 4096 + 256 * (x.head.toNat % ringRecords x)
def ringPhase (x : Census) : Nat := x.head.toNat / ringRecords x % 2

/-- Requester class of a record's source (R143). -/
def recClass (r : CRec) : Nat := if r.fill then 7 else match r.unit with | 1 => 1 | 2 => 3 | 3 => 2 | _ => 0

/-- A record into the ring (R92); its tile takes its entry with the record that completes the tile's current filling, the
sixteenth of it (R147). -/
def putRecord (s : State) (p cls : Nat) (bs : List Byte) : State :=
  let x := censusOf s p
  let a := ringAddr p x
  let s := apart s cls (fun s => hbmWrite s cls a bs)
  let s := if x.head.toNat % 16 = 15 then tileSeal s cls a else s
  setCensus s p { censusOf s p with head := x.head + 1 }

/-- Sets whose round a record of step `step` may veto (R97, R99). -/
def vetoSets (s : State) (step : Nat) : List Nat :=
  (List.range 64).filter (fun k => match (setOf s k).cfg with
    | some c => c.parts != 0 && decide (stepOf s k c ≤ step)
    | none => false)

/-- The effects of a crossing: CROSS, the interrupt, the token, the veto (R95-R97). -/
def crossing (s : State) (p : Nat) (r : CRec) (veto : List Nat) : State :=
  let x := censusOf s p
  let st := setBit x.cstat 0
  let st := if veto.isEmpty then st else setBit st 2
  let s := setCensus s p { x with cstat := st }
  let s := if bitAt x.cthr1 30 then raiseVector s 17 else s
  let s := if r.fill then s else sendPost s (.census p) false (bits x.cthr1 21 16)
  veto.foldl (fun s k => updSet s k (fun y => { y with vetoes := if y.vetoes.contains r.step then y.vetoes else y.vetoes ++ [r.step] })) s

def mergeReset (fmt : Nat) : MergeAcc := ⟨⟨0, 0, fmt, 0, false, 0, 0, 0, 0, 0, histZero⟩, 0, 0, 0, false, false, false⟩

/-- A record's counts and bins added into its accumulator (R92, R94). -/
def mergeInto (x : Census) (r : CRec) (crossed veto : Bool) : Census :=
  let m := Tbl.get (mergeReset r.fmt) x.merge r.fmt
  let first := m.nrec == 0
  let rc : CRec := { m.rc with elems := m.rc.elems + r.elems, sat := cap32 (m.rc.sat + r.sat), flush := cap32 (m.rc.flush + r.flush),
                               nan := cap32 (m.rc.nan + r.nan), hist := (m.rc.hist.zip r.hist).map (fun t => cap32 (t.1 + t.2)) }
  let m : MergeAcc := ⟨rc, if first then r.step else min m.stepLo r.step, if first then r.step else max m.stepHi r.step,
    m.nrec + 1, m.crossed || crossed, m.anyFill || r.fill, m.veto || veto⟩
  { x with merge := Tbl.set x.merge r.fmt m, covf := BitVec.ofNat 32 (satInc 0xFFFFFFFF x.covf.toNat) }

/-- A record that is to be written waits while its class is never granted the access; one that the full or disabled ring does
not take needs none (R92, R93, R145). -/
def recShut (s : State) (p : Nat) (r : CRec) : Bool :=
  let x := censusOf s p
  ringEn x && !ringFull x && classShut (memOf s p).regs (recClass r)

/-- Host lines that hold back the write of the next record, and its tile's entry where it completes the tile (R147, R376). -/
def ringHolds (s : State) (p : Nat) : Option State :=
  let x := censusOf s p
  let a := ringAddr p x
  if !ringEn x || ringFull x then none
  else hostHolds s (if x.head.toNat % 16 = 15 then [(a / 4096 * 4096, 4096)] else []) [(a, 256)]

/-- The oldest waiting record is tested, then written, or merged where the ring is full; a ring not enabled takes none
(R92, R93). A record passes an earlier one of the fill stream that waits for its class (notes/assumptions/69.md). -/
def recordWrite (s : State) (p : Nat) : State :=
  let x := censusOf s p
  if !partActive s p || unitHeld s (.census p) then s
  else
    match x.waiting.find? (fun r => !recShut s p r), ringHolds s p with
    | none, _ => s
    | some _, some s => s
    | some r, none =>
      let rest := x.waiting.erase r
      let crossed := crosses x r
      let veto := if crossed && !r.fill && bitAt x.cthr1 31 then vetoSets s r.step else []
      let s := setCensus s p { x with waiting := rest }
      let s := if crossed then crossing s p r veto else s
      let x := censusOf s p
      if !ringEn x then s
      else if ringFull x then setCensus s p (mergeInto x r crossed (!veto.isEmpty))
      else
        let flags := b2n crossed + 2 * b2n (recFull r) + 4 * b2n r.fill + 8 * ringPhase x + 16 * b2n (!veto.isEmpty)
        putRecord s p (recClass r) (recBytes r r.tag r.unit r.src flags x.head.toNat 0 0)

def execCensusRecordWrite (p : Fin 8) (s : State) : Host.Outcome State Fault Refusal := .next (clocked s (recordWrite s p))

/-- Space is free and no record waits: the accumulator of the lowest format code is written (R92, R94). R143 names no class for
a merged record; it is written under class 0 (notes/assumptions/63.md). -/
def mergeWrite (s : State) (p : Nat) : State :=
  let x := censusOf s p
  if !partActive s p || !ringEn x || ringFull x || !x.waiting.isEmpty then s
  else
    match x.merge.filter (fun e => e.2.nrec != 0), ringHolds s p with
    | [], _ => s
    | _ :: _, some s => s
    | (f, m) :: _, none =>
      let r := { m.rc with step := m.stepHi }
      let flags := b2n m.crossed + 2 * b2n (recFull r) + 4 * b2n m.anyFill + 8 * ringPhase x + 16 * b2n m.veto
      let s := setCensus s p { x with merge := Tbl.del x.merge f }
      putRecord s p 0 (recBytes r 0xFFFF 0xF 0xFF flags x.head.toNat m.stepLo m.nrec)

def execCensusMergeWrite (p : Fin 8) (s : State) : Host.Outcome State Fault Refusal := .next (clocked s (mergeWrite s p))

/-! ### The ring's registers (R92, R93, R101) -/

def cfgErr (s : State) (p : Nat) : State := let x := censusOf s p; setCensus s p { x with cstat := setBit x.cstat 3 }

/-- The ring a size makes with the offset standing lies in usable HBM of its window (R93). -/
def ringOk (x : Census) (size : Nat) : Bool := size ≤ 14 && decide (bits x.base 24 0 * 4096 + 2 ^ (16 + size) ≤ sheetOffset)

def cringCfg (s : State) (p : Nat) (v : W32) : State :=
  let x := censusOf s p
  let w := v &&& 0x8000000F#32
  let size := bits v 3 0
  if bitAt v 31 then
    if !ringEn x then
      if ringOk x size then setCensus s p { x with cfg := w, head := 0, tail := 0 } else cfgErr s p
    else if size = bits x.cfg 3 0 then s
    else cfgErr s p
  else setCensus s p { x with cfg := w }

def execMemCringCfgWrite (p : Fin 8) (v : W32) (s : State) : Host.Outcome State Fault Refusal := .next (if softUp s then cringCfg s p v else s)

def cringBase (s : State) (p : Nat) (v : W32) : State :=
  let x := censusOf s p
  if ringEn x then cfgErr s p else setCensus s p { x with base := v &&& 0x1FFFFFF#32 }

def execMemCringBaseWrite (p : Fin 8) (v : W32) (s : State) : Host.Outcome State Fault Refusal := .next (if softUp s then cringBase s p v else s)

/-- TAIL moves between HEAD − C and HEAD (R101). -/
def cringTail (s : State) (p : Nat) (v : W32) : State :=
  let x := censusOf s p
  if ringRecords x < (x.head - v).toNat then cfgErr s p else setCensus s p { x with tail := v }

def execMemCringTailWrite (p : Fin 8) (v : W32) (s : State) : Host.Outcome State Fault Refusal := .next (if softUp s then cringTail s p v else s)

end Sys2Proof.Machine
end

