-- ==== Sys2Proof/Machine/Expanders.lean ====
section
/-!
DEFINITION. The expanders (spec/12_compression.md R287-R289).
-/

namespace Sys2Proof.Machine

def setCmpErr (s : State) (p b : Nat) : State := setCmp s p { cmpOf s p with err := setBit (cmpOf s p).err b }
def setExpQueue (s : State) (p k : Nat) (q : List ExpAct) : State :=
  let x := cmpOf s p
  setCmp s p { x with exp := Tbl.set x.exp k q }

/-- The destination of an EXPAND as a mover's is checked (R152, R287). -/
def expDst (d : ExpBody) : MovEntry :=
  { op := .zero, token := 0, post := false, dmask := 0, verify := false, produce := d.produce, srcSram := false,
    src := 0, dstSram := d.dstSram, dst := d.dst, len := 4096 * d.count, rows := 1, planes := 1, spitch := 0,
    dpitch := 0, splane := 0, dplane := 0 }

/-- The index entries an EXPAND reads lie in its partition's usable HBM, outside the fill window (R197, R287). -/
def expIndexOk (s : State) (p : Nat) (d : ExpBody) : Bool :=
  let lo := d.stream + 4 * d.first
  let n := 4 * (d.count + 1)
  usableHbm s lo n && hbmPart lo == p && hbmPart (lo + n - 1) == p

/-- An EXPAND at the head of core `c`'s actions issues: its ranges are checked, then it is queued (R287). -/
def expandIssue (s : State) (c : Nat) : State :=
  match busFirst s (.core c) with
  | none => s
  | some b =>
    match coreEntryOf c b.entry with
    | some (some (.expand d)) =>
      let q := expQueue (cmpOf s c) d.exp
      if 4 ≤ q.length then s
      else
        let s := busTake s (.core c)
        if expIndexOk s c d ∧ (movErrBits s (expDst d) false (0, 0)).1 = 0 then
          setExpQueue s c d.exp (q ++ [⟨d, false, [], 0, 0, false, none, none, [], [], false, false⟩])
        else faultAtIssue (setCmpErr s c 3) b.fill
    | _ => s

def execExpandEnqueue (c : Fin 8) (s : State) : Host.Outcome State Fault Refusal := .next (running s (expandIssue s c))

/-! ### Reading and decoding a stream (R283, R284, R288) -/

/-- Index entry `i` of a stream. -/
def streamEntry (s : State) (base i : Nat) : Nat := bytesNat (devRead s (base + 4 * i) 4)

/-- What the tiles of a range turn out to be: poison first, then a failed check. -/
def tilesFault (s : State) (a n : Nat) : Option (Nat × Nat) :=
  (tilesOf s a n).findSome? (fun t =>
    match tilePoisoned s t with
    | some p => some (p, errUe)
    | none => if tileOk s t then none else some (t, errCheck))

/-- A difference between consecutive index entries is a block size of R282 (R283). -/
def blockSize (n : Nat) : Bool := n == 4112 || (n % 16 == 0 && decide (16 ≤ n) && decide (n ≤ 3584))

/-- Blocks from number `i` on read and decoded one after another; a failing index or poison stops the
action. The decoder has the bytes between the two entries, whatever size the block's header gives (notes/assumptions/69.md). -/
def expandBlocksFrom (s : State) (p : Nat) (a : ExpAct) : Nat → Nat → ExpAct
  | 0, _ => a
  | n + 1, i =>
    let d := a.body
    let ea := d.stream + 4 * i
    match tilesFault s ea 8 with
    | some (at_, b) => if b = errUe then { a with poison := some at_ } else { a with idx := true }
    | none =>
      let o := streamEntry s d.stream i
      let o' := streamEntry s d.stream (i + 1)
      let at_ := d.stream + o
      if o' ≤ o ∨ !blockSize (o' - o) ∨ !usableHbm s at_ (o' - o) ∨ (devFault s at_ (o' - o)).isSome then { a with idx := true }
      else
        match devPoisoned s at_ (o' - o) with
        | some w => { a with poison := some w }
        | none =>
          let blk := devRead s at_ (o' - o)
          let a := match ltcDecode (slotOf (cmpOf s p)) (fun k => d.slots.testBit k) blk with
            | .ok raw => { a with data := a.data ++ [(d.dst + 4096 * (i - d.first), raw)] }
            | .gen => { a with gen := a.gen + 1 }
            | .bad => { a with bad := a.bad + 1 }
          expandBlocksFrom s p a n (i + 1)

/-- The reads of a descriptor that went as far as `a` shows, under class 0: its index entries, verified, and its blocks
(R143, R148). -/
def expTraffic (s : State) (p k : Nat) (a : ExpAct) : State :=
  let who := some (Poster.expander p k)
  let d := a.body
  let n := a.data.length + a.gen + a.bad
  let lo := d.stream + 4 * (d.first + n)
  let inBlock := a.poison.isSome && (tilesFault s lo 8).isNone
  let s := meterVerify s who 0 (d.stream + 4 * d.first) (4 * min (n + 2) (d.count + 1))
  (List.range (n + b2n inBlock)).foldl (fun s j =>
    let o := streamEntry s d.stream (d.first + j)
    meterRead s who 0 (d.stream + o) (streamEntry s d.stream (d.first + j + 1) - o)) s

/-- An expander begins its next descriptor (R288). -/
def expanderStart (s : State) (p k : Nat) : State :=
  match expQueue (cmpOf s p) k with
  | [] => s
  | a :: rest =>
    if a.running || heldFor s (.expander p k) false ≠ 0 || !partActive s p then s
    else
      let lo := a.body.stream + 4 * a.body.first
      let blocked := trackedDev s lo (4 * (a.body.count + 1)) false ++
        (List.range a.body.count).flatMap (fun j =>
          let o := streamEntry s a.body.stream (a.body.first + j)
          trackedDev s (a.body.stream + o) (streamEntry s a.body.stream (a.body.first + j + 1) - o) false)
      if !blocked.isEmpty then sendSnoops s blocked false
      else
        let a := expandBlocksFrom s p a a.body.count a.body.first
        setExpQueue (expTraffic s p k a) p k ({ a with running := true } :: rest)

def execExpanderStart (p : Fin 8) (x : Fin 4) (s : State) : Host.Outcome State Fault Refusal := .next (clocked s (expanderStart s p x))

/-! ### Completing (R288) -/

/-- A slow-tier write of an expander failed: what it has not sent is dropped (R149, R379). -/
def expSlowFail (a : ExpAct) (addr : Nat) : ExpAct := { a with slowTodo := [], fault := some (a.fault.getD (addr, errSlow)) }

/-- D2H writes sent for an expander as long as there is room; a line that nothing serves now fails (R149, R379). -/
def pumpExpander : Nat → State → Nat → Nat → State
  | 0, s, _, _ => s
  | fuel + 1, s, p, k =>
    match expQueue (cmpOf s p) k with
    | [] => s
    | a :: rest =>
      match a.slowTodo with
      | [] => s
      | t :: todo =>
        if !d2hRoom s then s
        else if !slowServed s t.1 then setExpQueue s p k (expSlowFail a (0x800000000000 + t.1) :: rest)
        else
          let id := s.cxl.nextId
          let s := sendD2h s (.expander p k) t.1 t.2.1 t.2.2.length t.2.2
          pumpExpander fuel (setExpQueue s p k ({ a with slowTodo := todo, slow := a.slow ++ [id] } :: rest)) p k

/-- Decoded blocks written up to the first fault of the destination. -/
def writeBlocks (s : State) (sram : Bool) : List (Nat × List Byte) → State × Option (Nat × Nat)
  | [] => (s, none)
  | r :: rest =>
    if sram then writeBlocks (sramWrite s r.1 r.2) sram rest
    else if isSlow r.1 then writeBlocks s sram rest
    else
      match devFault s r.1 r.2.length with
      | some f => (devWrite s 0 r.1 (r.2.take (f.1 - r.1)), some f)
      | none => writeBlocks (devWrite s 0 r.1 r.2) sram rest

def expSlow (a : ExpAct) : List (Nat × Nat × List Byte) :=
  if a.body.dstSram then []
  else a.data.flatMap (fun r =>
    if isSlow r.1 then
      (slowLinesIn (r.1 - 0x800000000000) r.2.length).map (fun l =>
        (l.1, 0, (r.2.drop (l.1 + 0x800000000000 - r.1)).take l.2))
    else [])

def addCounts (x : Cmp) (a : ExpAct) : Cmp :=
  { x with cntGen := min 0xFFFF (x.cntGen + a.gen), cntBad := min 0xFFFF (x.cntBad + a.bad),
           err := x.err ||| BitVec.ofNat 32 (b2n (a.gen != 0) + 2 * b2n (a.bad != 0) + 4 * b2n a.idx) }

/-- The running descriptor ends: its writes, entries, counters and post, or its fault. -/
def expanderFinish (s : State) (p k : Nat) (a : ExpAct) : State :=
  let w := writeBlocks s a.body.dstSram a.data
  let s := w.1
  let flt := a.fault.orElse (fun _ => w.2)
  let failed := a.gen != 0 || a.bad != 0 || a.idx || a.poison.isSome || flt.isSome
  let s := if a.body.produce && !failed then
      sealAll s 0 (a.data.flatMap (fun r => tilesOf s r.1 r.2.length)) else s
  let s := setCmp s p (addCounts (cmpOf s p) a)
  let s := setExpQueue s p k (expQueue (cmpOf s p) k).tail
  let s := match a.poison with
    | some w => memError s p errUe w false
    | none => s
  let s := match flt with
    | some f => memError s p f.2 f.1 false
    | none => s
  if failed then faultInRun s false
  else if a.body.post then sendPost s (.expander p k) false a.body.token a.body.slots else s

/-- A descriptor with its blocks decoded and its reads granted writes them: to the slow tier first, whose writes are waited
for (R144, R149). -/
def expanderEnd (s : State) (p k : Nat) (a : ExpAct) (rest : List ExpAct) : State :=
  let sw := expSlow a
  if !a.wrote && !sw.isEmpty && a.fault.isNone then
    let ok := sw.takeWhile (fun l => slowServed s l.1)
    let a := { a with fault := (sw.find? (fun l => !slowServed s l.1)).map (fun l => (0x800000000000 + l.1, errSlow)) }
    if ok.isEmpty then expanderFinish s p k a
    else pumpExpander (ok.length + 1) (setExpQueue s p k ({ a with wrote := true, slowTodo := ok } :: rest)) p k
  else
    let blocked := if a.body.dstSram then [] else a.data.flatMap (fun r => trackedDev s r.1 r.2.length true)
    if !blocked.isEmpty then sendSnoops s blocked true else apart s 0 (fun s => expanderFinish s p k a)

def expanderComplete (s : State) (p k : Nat) : State :=
  match expQueue (cmpOf s p) k with
  | [] => s
  | a :: rest =>
    if !a.running || !a.slowTodo.isEmpty || !a.slow.isEmpty || trafficWaits s (.expander p k) ||
        (!a.body.dstSram && a.data.any (fun r => shutAt s 0 r.1 r.2.length)) then s
    else loosely a.loose s (fun s => expanderEnd s p k a rest)

def execExpanderComplete (p : Fin 8) (x : Fin 4) (s : State) : Host.Outcome State Fault Refusal :=
  .next (clocked s (expanderComplete s p x))

/-- What a D2H completion does to the expander that waits for it (R149, R379). -/
def expanderSlowDone (s : State) (p k : Nat) (r : D2h) (ok : Bool) : State :=
  match expQueue (cmpOf s p) k with
  | [] => s
  | a :: rest =>
    let a := { a with slow := a.slow.filter (· != r.id) }
    let a := if ok then a else expSlowFail a r.addr
    pumpExpander (a.slowTodo.length + 1) (setExpQueue s p k (a :: rest)) p k

end Sys2Proof.Machine
end

