-- ==== Sys2Proof/Machine/Cxl.lean ====
section
/-!
DEFINITION. The CXL port: BAR2 and CXL.mem accesses, the host line tracker, completions of slow-tier requests, and the
link (spec/17_cxl_host_interface.md R371-R379).
-/

namespace Sys2Proof.Machine

/-! ### Host accesses to memory (R374, R375) -/

/-- Bits of `MBX_HERR`. -/
abbrev herrSize : Nat := 0
abbrev herrUr : Nat := 1
abbrev herrCa : Nat := 2
abbrev herrPoison : Nat := 3
abbrev herrLate : Nat := 4

def setHerr (s : State) (b : Nat) : State := raiseVector { s with cxl := { s.cxl with herr := setBit s.cxl.herr b } } 24

/-- What stops a host access to one chunk: 1 an absent target, 2 a fenced one. -/
def hostStop (s : State) (a n : Nat) : Option Nat :=
  (chunksIn a n).findSome? (fun c => match accOf s c.1 with
    | .hbm _ | .sheet _ => none
    | .fenced => some herrCa
    | _ => some herrUr)

/-- The port answers: the link is up and the chip's clocks run. -/
def portLive (s : State) : Bool := s.cxl.up && clocksRun s.dev

def answer (s : State) (o : Out) : State := { s with out := o :: s.out }

/-- A host access that leads nowhere: a write is discarded; `b` tells an absent target or a fenced one. The refusal of a CXL.mem
read is poisoned data (R375). -/
def hostRefused (s : State) (h : HostAcc) (b : Nat) : State :=
  match h.data with
  | some _ => setHerr s b
  | none =>
    let s := setHerr s b
    if h.mem then answer (setHerr s herrPoison) .poisoned else answer s (if b = herrCa then .completerAbort else .unsupported)

/-- A host access that nothing holds back. -/
def hostServe (s : State) (h : HostAcc) : State :=
  match h.data with
  | some bs => devWrite s 6 h.addr bs
  | none =>
    let s := meterRead s none 6 h.addr h.len
    if (devPoisoned s h.addr h.len).isSome then answer (setHerr s herrPoison) .poisoned
    else answer s (.hostData (devRead s h.addr h.len))

/-- Two host accesses touch one 256-byte granule (R138). -/
def sameGranule (s : State) (x h : HostAcc) : Bool :=
  (hbmRanges s x.addr x.len).any (fun r => (hbmRanges s h.addr h.len).any (fun q =>
    decide (r.1 / 256 ≤ (q.1 + q.2 - 1) / 256) && decide (q.1 / 256 ≤ (r.1 + r.2 - 1) / 256)))

/-- An earlier access of the host to the same granule waits still. -/
def hostBehind (s : State) (h : HostAcc) : Bool := s.cxl.waitHost.any (fun x => sameGranule s x h)

def hostWait (s : State) (h : HostAcc) : State := { s with cxl := { s.cxl with waitHost := s.cxl.waitHost ++ [h] } }

/-- A host access is refused, waits behind an earlier one of its granule or for lines the host holds, or is served (R374-R376,
R138). -/
def hostAccess (s : State) (h : HostAcc) : State :=
  match hostStop s h.addr h.len with
  | some b => hostRefused s h b
  | none =>
    let ls := trackedDev s h.addr h.len h.data.isSome
    if hostBehind s h then hostWait s h
    else if !ls.isEmpty then sendSnoops (hostWait s h) ls h.data.isSome
    else hostServe s h

/-- Host accesses that waited are tried again in their order. -/
def hostRetry (s : State) : State :=
  s.cxl.waitHost.foldl hostAccess { s with cxl := { s.cxl with waitHost := [] } }

def hostRead (s : State) (mem : Bool) (a n : Nat) : State := hostAccess s ⟨mem, a, n, none⟩

def hostWrite (s : State) (mem : Bool) (a : Nat) (bs : List Byte) : State := hostAccess s ⟨mem, a, bs.length, some bs⟩

def bar2Read (s : State) (a n : Nat) : State :=
  if portLive s && decide (a + n ≤ 0x20000000000) then hostRead s false a n else s

def execBar2Read (a n : Nat) (s : State) : Host.Outcome State Fault Refusal := .next (bar2Read s a n)

def bar2Write (s : State) (a : Nat) (bs : List Byte) : State :=
  if portLive s && decide (a + bs.length ≤ 0x20000000000) then hostWrite s false a bs else s

def execBar2Write (a : Nat) (bs : List Byte) (s : State) : Host.Outcome State Fault Refusal := .next (bar2Write s a bs)

/-- CXL.mem moves whole 64-byte lines of the first TiB (R375). -/
def cxlMemRead (s : State) (a : Nat) : State :=
  if portLive s && decide (a < 0x10000000000) then hostRead s true (a / 64 * 64) 64 else s

def execCxlMemRead (a : Nat) (s : State) : Host.Outcome State Fault Refusal := .next (cxlMemRead s a)

def cxlMemWrite (s : State) (a : Nat) (bs : List Byte) : State :=
  if portLive s && decide (a < 0x10000000000) then hostWrite s true (a / 64 * 64) (bs.take 64) else s

def execCxlMemWrite (a : Nat) (bs : List Byte) (s : State) : Host.Outcome State Fault Refusal := .next (cxlMemWrite s a bs)

/-! ### The host line tracker (R376, R377) -/

def trackerSize : Nat := 262144

/-- A line enters the tracker, or a tracked one takes its new state. -/
def track (c : Cxl) (line : Nat) (excl : Bool) : Cxl :=
  if c.track.any (fun l => l.line == line) then
    { c with track := c.track.map (fun l => if l.line = line then { l with excl := excl } else l) }
  else { c with track := c.track ++ [⟨line, excl, false, false⟩], late := c.late.filter (· != line) }

/-- Host requests waiting for an entry are granted while there is room. -/
def grantTakes : Nat → Cxl → Cxl
  | 0, c => c
  | fuel + 1, c =>
    match c.waitTakes with
    | [] => c
    | (l, e) :: rest => if c.track.length < trackerSize then grantTakes fuel (track { c with waitTakes := rest } l e) else c

/-- A full tracker gives up one entry for every host request that waits: those held longest, beside the ones a BISnpInv
is out for. One whose BIRsp to a BISnpData is awaited is snooped again after it (R376). -/
def giveUpLines (s : State) : State :=
  let going := s.cxl.track.filter (fun l => l.snooped && l.inv)
  sendSnoops s ((s.cxl.track.filter (fun l => !(l.snooped && l.inv))).take (s.cxl.waitTakes.length - going.length)) true

/-- The tracker after lines left it or were shared: requests that waited are granted while there is room. -/
def retrack (s : State) (ls : List TrackLine) : State :=
  giveUpLines { s with cxl := grantTakes (s.cxl.waitTakes.length + 1) { s.cxl with track := ls } }

/-- A host request takes a line into its cache; a full tracker first gives up the entry held longest. -/
def lineTake (s : State) (line : Nat) (excl : Bool) : State :=
  if !(portLive s && decide (line < 2 ^ 34)) then s
  else
    match hostStop s (64 * line) 64 with
    | some b => answer (setHerr (setHerr s b) herrPoison) .poisoned
    | none =>
      if s.cxl.track.any (fun l => l.line == line) || decide (s.cxl.track.length < trackerSize) then
        { s with cxl := track s.cxl line excl }
      else
        giveUpLines { s with cxl := { s.cxl with waitTakes := s.cxl.waitTakes ++ [(line, excl)] } }

def execHostLineTake (line : Nat) (excl : Bool) (s : State) : Host.Outcome State Fault Refusal := .next (lineTake s line excl)

/-- Host accesses and sets that waited for a line go on: chunks kept, then chunks to send. -/
def wakeSets (s : State) : State :=
  (List.range 64).foldl (fun s k =>
    if (setOf s k).run.isSome then pumpSet (earlyChunks ((setOf s k).early.length + 1) s k) k else s) (hostRetry s)

/-- A line's data from the host, written as the host's, also in the drain window of a partition that is FENCING; a line of
the checksum sheet is discarded (R374-R377). -/
def lineData (s : State) (line : Nat) (data : List Byte) : State :=
  let a := 64 * line
  if sheetOffset ≤ a % hbmWindow then memError s (hbmPart a) errSheet a false else hbmWrite s 6 a (data.take 64)

/-- Data for a line that left the tracker at the end of a drain window is discarded (R377). -/
def lateWriteback (s : State) (line : Nat) : State :=
  setHerr { s with cxl := { s.cxl with late := s.cxl.late.filter (· != line) } } herrLate

/-- BIRsp: the host's data is written; after BISnpInv the line leaves the tracker, after BISnpData it is Shared. -/
def birsp (s : State) (line : Nat) (data : Option (List Byte)) : State :=
  match s.cxl.track.find? (fun l => l.line == line && l.snooped) with
  | none => if s.cxl.late.contains line ∧ data.isSome then lateWriteback s line else s
  | some l =>
    let s := match data with
      | some bs => lineData s line bs
      | none => s
    let ls := if l.inv then s.cxl.track.filter (fun t => t.line != line)
      else s.cxl.track.map (fun t => if t.line = line then { t with excl := false, snooped := false } else t)
    wakeSets (retrack s ls)

def execBirspReceive (line : Nat) (data : Option (List Byte)) (s : State) : Host.Outcome State Fault Refusal :=
  .next (if portLive s then birsp s line data else s)

/-- The host writes a line back and gives it up. -/
def writeback (s : State) (line : Nat) (data : List Byte) : State :=
  if s.cxl.track.any (fun l => l.line == line) then
    let s := lineData s line data
    wakeSets (retrack s (s.cxl.track.filter (fun l => l.line != line)))
  else if s.cxl.late.contains line then lateWriteback s line
  else s

def execHostWriteback (line : Nat) (data : List Byte) (s : State) : Host.Outcome State Fault Refusal :=
  .next (if portLive s then writeback s line data else s)

def execH2dSnoop (a : Nat) (s : State) : Host.Outcome State Fault Refusal := .next (if portLive s then answer s (.snoopResponse a) else s)

/-! ### The slow tier (R379, R421) -/

/-- Partition of the unit that waits for a D2H request; the cipher engine belongs to none. -/
def userPart : SlowUser → Option Nat
  | .mover c _ => some c
  | .park p _ => some p
  | .expander p _ => some p
  | .cipher => none

/-- The unit that waits for a request takes its completion; one of a fenced partition is discarded (R421). -/
def d2hDone (s : State) (r : D2h) (ok : Bool) (data : List Byte) : State :=
  if (userPart r.user).any (fun p => !partActive s p) then { s with rst := { s.rst with discard := (s.rst.discard + 1) % 65536 } }
  else
    match r.user with
    | .mover c m => moverSlowDone s c m r ok data
    | .park p slot => parkSlowDone s p slot r ok data
    | .expander p k => expanderSlowDone s p k r ok
    | .cipher => cipSlowDone s r ok data

/-- Requests that waited for room go out (R379). -/
def pumpSlow (s : State) : State :=
  let s := cipPump s
  let s := s.movers.foldl (fun s e => e.2.queue.zipIdx.foldl (fun s a =>
    if a.1.slowTodo.isEmpty then s else pumpMover (a.1.slowTodo.length + 1) s (e.1 / 11) (e.1 % 11) a.2) s) s
  let s := s.cmp.foldl (fun s e => e.2.exp.foldl (fun s x => match x.2 with
    | a :: _ => if a.slowTodo.isEmpty then s else pumpExpander (a.slowTodo.length + 1) s e.1 x.1
    | [] => s) s) s
  s.upd.foldl (fun s e => e.2.parks.foldl (fun s k =>
    if k.todo.isEmpty then s else pumpPark (k.todo.length + 1) s e.1 k.slot) s) s

def slowCompletion (s : State) (id : Nat) (ok : Bool) (data : List Byte) : State :=
  match s.cxl.d2h.find? (fun r => r.id == id) with
  | none => s
  | some r =>
    let s := { s with cxl := { s.cxl with d2h := s.cxl.d2h.filter (fun r => r.id != id) } }
    pumpSlow (d2hDone s r ok data)

def execSlowTierCompletion (id : Nat) (ok : Bool) (data : List Byte) (s : State) : Host.Outcome State Fault Refusal :=
  .next (if portLive s then slowCompletion s id ok data else s)

/-! ### The link (R372, R377, R426) -/

/-- The port as the link goes down: the tracker, the host accesses that wait and the outstanding requests are gone. -/
def linkGone (c : Cxl) : Cxl :=
  { c with up := false, downs := satInc 0xFF c.downs, track := [], waitTakes := [], waitHost := [], late := [], d2h := [] }

/-- The link goes down: every outstanding request fails. Without clocks no unit and no ledger moves (R461). -/
def cxlDown (s : State) : State :=
  let rs := s.cxl.d2h
  let s := { s with cxl := linkGone s.cxl }
  if clocksRun s.dev then wakeSets (pumpSlow (rs.foldl (fun s r => d2hDone s r false []) s)) else s

def execCxlLinkDown (s : State) : Host.Outcome State Fault Refusal := .next (if s.cxl.up then cxlDown s else s)

/-- A load whose command is lost ends: its bank or table slot stays as it was. -/
def loadLost (s : State) (p : Pend) : State :=
  match p.req.opcode with
  | 0x0201 => setLoading s (bankArg p.req) false
  | 0x040B => { s with cmpLoading := s.cmpLoading.filter (· != argOf p.req 0) }
  | _ => s

/-- The PENDING command whose message the movers' bank runs or has suspended. -/
def moverCommand (s : State) : Option Pend := if moversActive s then s.jante.pend.find? (pendOp 0x0708) else none

/-- Host mailboxes at their reset values. A host command that is PENDING is lost: nothing completes it and it holds no
object. A CIP_MOVE message that runs goes on, with no sender to answer (R389, R426; notes/assumptions/17.md). -/
def mailboxesReset (s : State) : State :=
  let msg := moverCommand s
  let lost := s.jante.pend.filter (fun p => decide (p.req.src < 16) && some p != msg)
  let s := lost.foldl loadLost s
  { s with jante := { s.jante with
      boxes := [], rung := s.jante.rung.filter (· == 16),
      exam := s.jante.exam.filter (fun r => r.src == 16),
      pend := (s.jante.pend.filter (fun p => !lost.contains p)).map (fun p =>
        if p.req.src < 16 then { p with req := { p.req with src := 17 } } else p) } }

/-- `PERST_N` falls: the link goes down, the port's registers, tables and map and the mailboxes take their reset values
(R372, R384, R389, R426). -/
def perst (s : State) : State :=
  let s := if s.cxl.up then cxlDown s else s
  let s := updSec (spdmReset s) (fun x => { x with doe := none, doeAbort := false, doeError := false })
  mailboxesReset { s with cxl := { cxlReset with nextId := s.cxl.nextId } }

def execPerstAssert (s : State) : Host.Outcome State Fault Refusal := .next { perst s with perst := true }

/-- The port trains with a width and a rate: 1 is 32 GT/s, 2 is 64 GT/s (R372, R384). -/
def perstRelease (s : State) (width rate : Nat) : State :=
  if (width = 4 ∨ width = 8 ∨ width = 16) ∧ (rate = 1 ∨ rate = 2) ∧ s.dev ≠ .off ∧ s.dev ≠ .standby then
    { s with perst := false, cxl := { s.cxl with up := true, rate := rate, width := width } }
  else { s with perst := false }

def execPerstRelease (width rate : Nat) (s : State) : Host.Outcome State Fault Refusal := .next (perstRelease s width rate)

end Sys2Proof.Machine
end

