-- ==== Sys2Proof/Machine/Chotin.lean ====
section
/-!
DEFINITION. The Chotin transport: frames, encryption and the replay window, acknowledgement and retransmission, time
samples, partners (spec/13_far_exchange.md R292, R293, R299-R312, spec/14_cipher_engine.md R327-R331).
-/

namespace Sys2Proof.Machine

/-! ### Partners and ports -/

def partnerEmpty : Partner :=
  { fid := 0, st := .left, port := 0, moved := false, failover := false, vlanOn := false, wt := 0, vlan := 0, pace := 0,
    udp := 0, mac := [], addr := [], seq := 0, high := 0, seen := [], epochs := [], switched := false, overlap := none,
    srtt := 0, rttvar := 0, rto := 25600000000, sampled := false, holdover := false, held := 0, maxRtt := 0, samples := [],
    theta := 0, delta := 0, timed := false, sends := [], recvs := [], given := none, bucket := 0, stamp := 0, hello := false,
    jumped := none }

def partnerOf (s : State) (e : Nat) : Partner := Tbl.get partnerEmpty s.far.partners e
def updFar (s : State) (f : Far → Far) : State := { s with far := f s.far }
def setPartner (s : State) (e : Nat) (p : Partner) : State := updFar s (fun x => { x with partners := Tbl.set x.partners e p })
def updPartner (s : State) (e : Nat) (f : Partner → Partner) : State := setPartner s e (f (partnerOf s e))

def setFarErr (s : State) (b : Nat) : State := updFar s (fun x => { x with err := setBit x.err b })

def portOf (s : State) (n : Nat) : FarPort := if n = 0 then s.far.port0 else s.far.port1
def updPort (s : State) (n : Nat) (f : FarPort → FarPort) : State :=
  updFar s (fun x => if n = 0 then { x with port0 := f x.port0 } else { x with port1 := f x.port1 })

/-- Entries in the table that are not LEFT. -/
def livePartners (s : State) : List (Nat × Partner) := s.far.partners.filter (fun e => e.2.st != .left)
def activePartners (s : State) : List (Nat × Partner) := s.far.partners.filter (fun e => e.2.st == .active)

def tickNow (s : State) : Nat := s.pwr.tick.toNat
/-- Ticks of a millisecond (R310). -/
def msTicks : Nat := 6400000

def badFrame (s : State) : State := updFar s (fun x => { x with badfrm := satInc 0xFF x.badfrm })

/-! ### Frames (R306, R327) -/

abbrev typeData : Nat := 1
abbrev typeSack : Nat := 2
abbrev typeProbe : Nat := 3
abbrev typeReply : Nat := 4
abbrev typeJoin : Nat := 5
abbrev typeBulk : Nat := 6
abbrev typeBulkEnd : Nat := 7
abbrev typeHello : Nat := 8
abbrev typeLeave : Nat := 9

/-- What a frame says beside its addresses, epoch and sequence number. -/
structure FrameBody where
  type : Nat
  flags : Nat
  round : Nat
  seg : Nat
  total : Nat
  body : List Byte
  deriving DecidableEq, Repr

def bareFrame (type : Nat) : FrameBody := ⟨type, 0, 0, 0, 0, []⟩

def headerOf (src dst epoch seq tick : Nat) (b : FrameBody) : List Byte :=
  natBytes 1 (0x10 + b.type) ++ natBytes 1 b.flags ++ natBytes 2 b.body.length ++ natBytes 2 src ++ natBytes 2 dst ++
    natBytes 2 epoch ++ natBytes 2 0 ++ natBytes 4 b.round ++ natBytes 8 seq ++ natBytes 4 b.seg ++ natBytes 4 b.total ++
    natBytes 8 tick ++ natBytes 8 0

/-- The nonce of a frame (R327). -/
def frameIv (h : List Byte) : List Byte := bytesAt h 4 2 ++ bytesAt h 8 2 ++ bytesAt h 16 8

def curEpoch (p : Partner) : Option Epoch := p.epochs.find? (fun e => e.st == .cur)

/-- The port a frame to the partner leaves by, and whether the partner moves to the other for it (R293). -/
def frameRoute (s : State) (p : Partner) : Option (Nat × Bool) :=
  let here := if p.moved then 1 - p.port else p.port
  if (portOf s here).up then some (here, p.moved)
  else if p.failover && (portOf s (1 - here)).up then some (1 - here, !p.moved)
  else none

/-- Bytes of an IPv6 address. -/
def ipBytes (a : BitVec 128) : List Byte := beBytes 16 a.toNat

/-- The headers a frame to the partner goes out under: the port's MAC and the next hop's, the partner's tag, address and
UDP port; the source port is UDPPORT of the configuration (notes/assumptions/35.md). -/
def wireTo (c : FarCfg) (port : Nat) (p : Partner) : Wire :=
  ⟨p.mac, bytesAt Config.macs (6 * port) 6, if p.vlanOn then some p.vlan else none, ipBytes (Config.farAddr port), p.addr, c.udpport, p.udp⟩

/-- A frame to partner `e`, encrypted under its CUR epoch. Without an epoch or a port, or at the last sequence number,
none leaves (R293, R306, R327). -/
def sendFrame (s : State) (e : Nat) (b : FrameBody) : State :=
  let p := partnerOf s e
  match s.far.cfg, curEpoch p, frameRoute s p with
  | some c, some k, some (port, moved) =>
    if 2 ^ 64 - 1 ≤ p.seq then setCipErr s 2
    else
      let seq := p.seq + 1
      let h := headerOf c.fid p.fid k.num seq (tickNow s) b
      let x := gcmSeal k.key (frameIv h) h b.body
      let s := setPartner s e { p with seq := seq, moved := moved }
      { s with out := .frame port (wireTo c port p) ⟨h, x.1, x.2⟩ :: s.out }
  | _, _, _ => s

/-! ### Sending under the bucket (R307-R309) -/

def segCount (n : Nat) : Nat := (n + 8191) / 8192

def segFrame (x : SendSel) (k : Nat) : FrameBody :=
  ⟨if x.bulk then typeBulk else typeData, b2n (k + 1 == segCount x.data.length), x.round, k, x.data.length,
   bytesAt x.data (8192 * k) 8192⟩

/-- Bytes a frame to the partner takes of its bucket: the Ethernet frame with its FCS (notes/assumptions/68.md). -/
def wireBytes (p : Partner) (n : Nat) : Nat := (if p.vlanOn then 18 else 14) + 40 + 8 + 48 + n + 16 + 4

/-- A bucket holds 16 frames of the longest kind, in units of 1/51,200 byte: one tick at 1 Mb/s (R309). -/
def bucketCap (p : Partner) : Nat := 16 * 51200 * wireBytes p 8192

/-- The bucket as it stands now, filled at PACE. -/
def bucketNow (s : State) (p : Partner) : Partner :=
  { p with bucket := min (bucketCap p) (p.bucket + p.pace * (tickNow s - p.stamp)), stamp := tickNow s }

/-- A selection three rounds old is not sent any more (R308). -/
def selLive (s : State) (x : SendSel) : Bool := x.bulk || decide (s.far.k < x.round + 3)

/-- The first segment of a partner's selections that `f` picks. -/
def pickSeg (f : SegTx → Bool) (xs : List SendSel) : Option (SendSel × Nat) :=
  xs.findSome? (fun x => (x.segs.find? f).map (fun g => (x, g.seg)))

/-- The segment a partner sends next: a retransmission before a new one (R309). -/
def nextSeg (s : State) (p : Partner) : Option (SendSel × Nat) :=
  let xs := p.sends.filter (selLive s)
  match pickSeg (·.due) xs with
  | some x => some x
  | none => pickSeg (fun g => g.sends == 0) xs

/-- A segment of a selection goes out, read from the send buffer by class 5. -/
def sendSeg (s : State) (e : Nat) (x : SendSel) (k : Nat) : State :=
  let s := if x.bulk then s else match s.far.cfg with
    | some c => meterRead s none 5 (c.sbuf + 8192 * k) (bytesAt x.data (8192 * k) 8192).length
    | none => s
  let s := sendFrame s e (segFrame x k)
  updPartner s e (fun p => { p with sends := p.sends.map (fun y =>
    if y.bulk = x.bulk ∧ y.round = x.round then
      { y with segs := y.segs.map (fun g => if g.seg = k then { g with last := tickNow s, sends := g.sends + 1, later := 0, due := false } else g) }
    else y) })

/-- What a partner has for its bucket: its body bytes, and how it goes out. A HELLO gives way to any segment. -/
def pacedNext (s : State) (e : Nat) (p : Partner) : Option (Nat × (State → State)) :=
  match nextSeg s p with
  | some (x, k) => some ((bytesAt x.data (8192 * k) 8192).length, fun s => sendSeg s e x k)
  | none => if p.hello then some (0, fun s => sendFrame s e (bareFrame typeHello)) else none

/-- A frame to the partner would leave by this port now. -/
def leavesBy (s : State) (port : Nat) (p : Partner) : Bool :=
  p.st != .left && s.far.cfg.isSome && (curEpoch p).isSome && decide (p.seq < 2 ^ 64 - 1) && ((frameRoute s p).map (·.1)) == some port

/-- The partners of a port in rotating order, after the one that sent last. -/
def portTurns (s : State) (port : Nat) : List (Nat × Partner) :=
  let t := if port = 0 then s.far.turn0 else s.far.turn1
  let xs := s.far.partners.filter (fun e => leavesBy s port e.2)
  xs.filter (fun e => decide (t < e.1)) ++ xs.filter (fun e => decide (e.1 ≤ t))

def setTurn (s : State) (port e : Nat) : State := updFar s (fun f => if port = 0 then { f with turn0 := e } else { f with turn1 := e })

/-- The next partner of a port with a frame its bucket can pay sends it. -/
def sendNext (s : State) (port : Nat) : List (Nat × Partner) → Option State
  | [] => none
  | (e, p) :: rest =>
    let p := bucketNow s p
    match pacedNext s e p with
    | none => sendNext s port rest
    | some (n, go) =>
      let cost := 51200 * wireBytes p n
      if p.bucket < cost then sendNext s port rest
      else some (setTurn (go (setPartner s e { p with bucket := p.bucket - cost, hello := false })) port e)

/-- A port sends what the buckets of its partners can pay. -/
def portPump (port : Nat) : Nat → State → State
  | 0, s => s
  | fuel + 1, s => match sendNext s port (portTurns s port) with
    | some s => portPump port fuel s
    | none => s

/-- Frames that wait for a bucket. -/
def pacedCount (s : State) : Nat :=
  (s.far.partners.map (fun e => (e.2.sends.map (fun x => x.segs.length)).sum + 1)).sum

/-- A partner with something to send is at the last sequence number (R327). -/
def seqEnded (s : State) : Bool :=
  s.far.partners.any (fun e => e.2.st != .left && decide (2 ^ 64 - 1 ≤ e.2.seq) && (pacedNext s e.1 e.2).isSome)

/-- Both ports send what they can. -/
def farPump (s : State) : State :=
  let s := portPump 1 (pacedCount s) (portPump 0 (pacedCount s) s)
  if seqEnded s then setCipErr s 2 else s

/-- A selection or anchor image is queued for a partner, and sent as its bucket allows. -/
def sendSel (s : State) (e : Nat) (bulk : Bool) (round : Nat) (data : List Byte) : State :=
  let n := segCount data.length
  let x : SendSel := ⟨bulk, round, data, (List.range n).map (fun k => ⟨k, 0, 0, 0, false⟩)⟩
  updPartner s e (fun p => { p with sends := p.sends.filter (fun y => y.bulk != bulk || y.round != round) ++ [x],
                                    given := if bulk then p.given else some round })

/-! ### Round-trip time (R308, R331) -/

def clampRto (n : Nat) : Nat := min 25600000000 (max msTicks n)

/-- The larger of SRTT and, in holdover, its value before (R299). -/
def guardRtt (p : Partner) : Nat := if p.holdover then max p.srtt p.held else p.srtt

/-- A round-trip sample in ticks, with gains of 1/8 and 1/4. -/
def rttSample (p : Partner) (r : Nat) : Partner :=
  let p := if p.sampled then
      { p with rttvar := (3 * p.rttvar + (if p.srtt < r then r - p.srtt else p.srtt - r)) / 4, srtt := (7 * p.srtt + r) / 8 }
    else { p with rttvar := r / 2, srtt := r, sampled := true }
  let p := { p with rto := clampRto (p.srtt + 4 * p.rttvar) }
  { p with maxRtt := max p.maxRtt (guardRtt p) }

/-! ### Acknowledgements (R307, R308) -/

/-- Segments received above CUM, as ranges of first and last. -/
def ackRanges (cum : Nat) (got : List Nat) : List (Nat × Nat) :=
  let top := got.foldl max 0
  ((List.range (top + 1)).foldl (fun (acc : List (Nat × Nat)) k =>
    if k < cum ∨ !got.contains k then acc
    else match acc with
      | (a, b) :: rest => if b + 1 = k then (a, k) :: rest else (k, k) :: acc
      | [] => [(k, k)]) []).reverse

def cumOf (got : List Nat) : Nat := ((List.range (got.length + 1)).find? (fun k => !got.contains k)).getD got.length

/-- The body of a SACK; the places of its fields are the model's (notes/assumptions/34.md). -/
def sackBody (r : RecvSel) : List Byte :=
  let cum := cumOf r.got
  let rs := (ackRanges cum r.got).take 8
  natBytes 4 r.round ++ natBytes 4 cum ++ natBytes 1 rs.length ++ natBytes 1 (b2n r.closed) ++ natBytes 2 0 ++
    rs.flatMap (fun x => natBytes 4 x.1 ++ natBytes 4 x.2)

/-- A SACK for one selection; nothing of it is unacknowledged then. -/
def sendSack (s : State) (e : Nat) (r : RecvSel) : State :=
  let s := sendFrame s e { bareFrame typeSack with round := r.round, flags := 0, body := sackBody r }
  updPartner s e (fun p => { p with recvs := p.recvs.map (fun x => if x.bulk = r.bulk ∧ x.round = r.round then { x with unacked := 0 } else x) })

/-- One segment under a SACK: acknowledged, or reported late three times, or left. -/
def ackSeg (cum : Nat) (rs : List (Nat × Nat)) (g : SegTx) : Option SegTx :=
  let acked := decide (g.seg < cum) || rs.any (fun r => decide (r.1 ≤ g.seg) && decide (g.seg ≤ r.2))
  let passed := decide (g.seg < cum) || rs.any (fun r => decide (g.seg < r.2))
  if acked then none else some (if passed then { g with later := g.later + 1 } else { g with later := 0 })

/-- A segment three SACKs have passed over is to be sent again; one in flight at a discontinuity waits for its RTO
(R308, R311). -/
def lateSeg (p : Partner) (g : SegTx) : SegTx :=
  if 3 ≤ g.later ∧ !p.jumped.any (fun t => decide (g.last ≤ t)) then { g with later := 0, due := true } else g

/-- A SACK reaches the sender: segments acknowledged, a sample from the last of those sent once, re-sends, and the end
of a selection that is acknowledged whole or closed. -/
def takeSack (s : State) (e : Nat) (body : List Byte) : State :=
  let p := partnerOf s e
  let round := natAt body 0 4
  let cum := natAt body 4 4
  let n := min 8 (natAt body 8 1)
  let closed := natAt body 9 1 == 1
  let rs := (List.range n).map (fun k => (natAt body (12 + 8 * k) 4, natAt body (16 + 8 * k) 4))
  match (p.sends.filter (fun x => x.round == round)).head? with
  | none => s
  | some x =>
    let kept := (x.segs.filterMap (ackSeg cum rs)).map (lateSeg p)
    let gone := x.segs.filter (fun g => !kept.any (fun k => k.seg == g.seg))
    let p := match (gone.filter (fun g => g.sends == 1)).getLast? with
      | some g => rttSample p (tickNow s - g.last)
      | none => p
    let ended := closed || kept.isEmpty
    let x' : SendSel := { x with segs := kept }
    let p := { p with sends := p.sends.filterMap (fun y =>
      if y.bulk = x.bulk ∧ y.round = x.round then (if ended then none else some x') else some y) }
    let s := setPartner s e p
    if ended then
      if x.bulk then
        let s := sendFrame s e { bareFrame typeBulkEnd with round := x.round }
        if s.far.partners.any (fun q => q.2.sends.any (·.bulk)) then s else updFar s (fun f => { f with pinned := none })
      else s
    else farPump s

/-! ### Time (R310, R311) -/

/-- The lowest-delay sample; the newest of equals. -/
def bestSample : List Sample → Option Sample
  | [] => none
  | x :: rest => match bestSample rest with
    | some y => if y.delay < x.delay then some y else some x
    | none => some x

/-- Eight fresh samples within 50 µs of one another. -/
def steady (xs : List Sample) : Bool :=
  decide (8 ≤ xs.length) && (xs.take 8).all (fun a => (xs.take 8).all (fun b => decide (a.delay - b.delay ≤ 320000)))

def estimate (p : Partner) : Partner :=
  match bestSample (p.samples.take 8) with
  | some x => { p with theta := x.offset, delta := x.delay, timed := true }
  | none => p

/-- A delay sample for a partner; `true` where it marks a discontinuity. -/
def timeSample (p : Partner) (x : Sample) (now : Nat) : Partner × Bool :=
  if p.holdover then
    let p := rttSample { p with samples := (x :: p.samples).take 8 } x.delay.toNat
    (if steady p.samples then estimate { p with holdover := false } else p, false)
  else if p.timed ∧ (320000 < x.delay - p.delta ∨ 320000 < p.delta - x.delay) then
    let d := x.delay.toNat
    let p := { p with holdover := true, jumped := some now, held := p.srtt, samples := [], srtt := d, rttvar := d / 2, sampled := true,
                      rto := clampRto (d + 4 * (d / 2)) }
    ({ p with maxRtt := max p.maxRtt (guardRtt p) }, true)
  else (rttSample (estimate { p with samples := (x :: p.samples).take 8 }) x.delay.toNat, false)

/-! ### Receiving (R306, R328) -/

/-- The header's fields beside those of `FrameBody`. -/
def frameType (f : Frame) : Nat := natAt f.header 0 1 % 16
def frameBodyOf (f : Frame) (body : List Byte) : FrameBody :=
  ⟨frameType f, natAt f.header 1 1, natAt f.header 12 4, natAt f.header 24 4, natAt f.header 28 4, body⟩

/-- Body bytes a frame of its type has (R306). -/
def bodyFits (f : Frame) : Bool :=
  let n := f.body.length
  match frameType f with
  | 1 | 6 => n == min 8192 (natAt f.header 28 4 - 8192 * natAt f.header 24 4) && n != 0
  | 2 => decide (12 ≤ n) && decide (n ≤ 76)
  | 4 => n == 24
  | _ => n == 0

/-- The header breaks the table: version, reserved fields, type, length, or the place of a segment. -/
def headerBad (f : Frame) : Bool :=
  natAt f.header 0 1 / 16 != 1 || frameType f == 0 || decide (9 < frameType f) || natAt f.header 10 2 != 0 ||
    natAt f.header 40 8 != 0 || decide (3 < natAt f.header 1 1) || natAt f.header 2 2 != f.body.length ||
    decide (8192 < f.body.length) || !bodyFits f

/-- The entry a frame comes from (R306). -/
def frameFrom (s : State) (f : Frame) : Option Nat :=
  (s.far.partners.find? (fun e => e.2.st != .left && e.2.fid == natAt f.header 4 2)).map (·.1)

/-- The frame is for this device and from a partner, in a good header. -/
def frameSender (s : State) (f : Frame) : Option Nat :=
  match s.far.cfg with
  | none => none
  | some c => if headerBad f ∨ natAt f.header 6 2 ≠ c.fid then none else frameFrom s f

/-- The sequence number is fresh: above the highest less 4,096 and not seen (R328). -/
def seqFresh (p : Partner) (q : Nat) : Bool := decide (p.high < q + 4096) && !p.seen.contains q

/-- Port decryption and the three tests of R328: the partner and the body of a frame that passes. -/
def openFrame (s : State) (f : Frame) : State × Option (Nat × List Byte) :=
  match frameSender s f with
  | none => (badFrame s, none)
  | some e =>
    let p := partnerOf s e
    let q := natAt f.header 16 8
    match p.epochs.find? (fun k => k.num == natAt f.header 8 2) with
    | none => (updCip s (fun c => { c with nokey := satInc 0x3FF c.nokey }), none)
    | some k =>
      match gcmOpen k.key (frameIv f.header) f.header f.body f.tag with
      | none => (updCip s (fun c => { c with tagfail := satInc 0xFFF c.tagfail }), none)
      | some body =>
        let begins := p.switched && k.st == .cur
        let p := { p with switched := p.switched && !begins,
                          overlap := if begins then some (tickNow s + max (2 * p.maxRtt) (2 * msTicks)) else p.overlap }
        if !seqFresh p q then (updCip (setPartner s e p) (fun c => { c with replay := satInc 0x3FF c.replay }), none)
        else
          let high := max p.high q
          (setPartner s e { p with high := high, seen := (q :: p.seen).filter (fun n => decide (high < n + 4096)) }, some (e, body))

/-- The end of the overlap: the OLD epoch is erased (R331). -/
def overlapEnd (s : State) (e : Nat) : State :=
  let p := partnerOf s e
  match p.overlap with
  | some t => if t ≤ tickNow s then setPartner s e { p with overlap := none, epochs := p.epochs.filter (fun k => k.st != .old) } else s
  | none => s

def execEpochOverlapEnd (e : Nat) (s : State) : Host.Outcome State Fault Refusal :=
  .next (if clocksRun s.dev then overlapEnd s e else s)

/-- STANDBY and a loss of core power erase key slots, epoch keys and contexts (R321). -/
def keysErase (s : State) : State :=
  updFar (cipErase s) (fun f => { f with partners := f.partners.map (fun e =>
    (e.1, { e.2 with epochs := [], switched := false, overlap := none })) })

/-! ### Timers (R304, R306-R308, R310) -/

/-- A SACK for every selection of the partner with segments not yet acknowledged. -/
def sackTimer (s : State) (e : Nat) : State :=
  ((partnerOf s e).recvs.filter (fun r => r.unacked != 0)).foldl (fun s r => sendSack s e r) s

def execSackTimer (e : Nat) (s : State) : Host.Outcome State Fault Refusal :=
  .next (if clocksRun s.dev then sackTimer s e else s)

/-- A segment was sent, is not queued again, and RTO has passed since. -/
def rtoPassed (s : State) (p : Partner) (g : SegTx) : Bool :=
  g.sends != 0 && !g.due && decide (g.last + p.rto ≤ tickNow s)

/-- The RTO of segment `k` of a selection passes: it is to be sent again, and the partner's RTO doubles. -/
def rtoExpiry (s : State) (e k : Nat) : State :=
  let p := partnerOf s e
  match p.sends.find? (fun x => selLive s x && x.segs.any (fun g => g.seg == k && rtoPassed s p g)) with
  | none => s
  | some x =>
    farPump (setPartner s e { p with
      rto := min 25600000000 (2 * p.rto),
      sends := p.sends.map (fun y => if y.bulk = x.bulk ∧ y.round = x.round then
        { y with segs := y.segs.map (fun g => if g.seg = k then { g with due := true } else g) } else y) })

def execRtoExpiry (e k : Nat) (s : State) : Host.Outcome State Fault Refusal :=
  .next (if clocksRun s.dev then rtoExpiry s e k else s)

def probeTimer (s : State) : State := (activePartners s).foldl (fun s e => sendFrame s e.1 (bareFrame typeProbe)) s

def execProbeTimer (s : State) : Host.Outcome State Fault Refusal :=
  .next (if clocksRun s.dev then probeTimer s else s)

/-- A HELLO is due, unless another frame is (R306). -/
def helloTimer (s : State) (e : Nat) : State :=
  let p := partnerOf s e
  if p.st = .left ∨ (nextSeg s p).isSome then s else farPump (setPartner s e { p with hello := true })

def execHelloTimer (e : Nat) (s : State) : Host.Outcome State Fault Refusal :=
  .next (if clocksRun s.dev then helloTimer s e else s)

/-! ### Far ports and PPS (R292, R293, R312) -/

/-- What SELFTEST will say of a far port: in BOOTING one that does not come up has failed (R368). -/
def portTested (s : State) (n code : Nat) : State :=
  if s.dev = .booting then { s with folio := { s.folio with portTest := Tbl.set s.folio.portTest n code } } else s

def execFarPortUp (n : Fin 2) (s : State) : Host.Outcome State Fault Refusal :=
  .next (if clocksRun s.dev then farPump (portTested (updPort s n (fun p => { p with up := true })) n 0) else s)

def execFarPortDown (n : Fin 2) (s : State) : Host.Outcome State Fault Refusal :=
  .next (portTested (updPort s n (fun p => { p with up := false })) n 1)

def dropFrame (s : State) (n : Nat) : State := if (portOf s n).up then updPort s n (fun p => { p with drop := satInc 0xFFFF p.drop }) else s

def execPauseFrame (port : Fin 2) (s : State) : Host.Outcome State Fault Refusal :=
  .next (if clocksRun s.dev then dropFrame s port else s)

def execFarPortDiscard (port : Fin 2) (s : State) : Host.Outcome State Fault Refusal :=
  .next (if clocksRun s.dev then dropFrame s port else s)

/-- A Neighbor Advertisement in answer to a solicitation of the port's own address (notes/assumptions/35.md). -/
def ndAnswer (s : State) (n : Nat) (target : BitVec 128) : State :=
  if !(portOf s n).up || target != Config.farAddr n then s
  else
    let mac := bytesAt Config.macs (6 * n) 6
    { s with out := .packet n ([136#8, 0#8] ++ natBytes 2 0 ++ [0x60#8, 0#8, 0#8, 0#8] ++ ipBytes target ++ [2#8, 1#8] ++ mac) :: s.out }

def execNeighborSolicitation (port : Fin 2) (target : BitVec 128) (s : State) : Host.Outcome State Fault Refusal :=
  .next (if clocksRun s.dev then ndAnswer s port target else s)

/-- An Echo Reply that carries the request's identifier, sequence number and data; one for another address is none of
the port's. -/
def echo (s : State) (n : Nat) (dst : BitVec 128) (data : List Byte) : State :=
  if !(portOf s n).up || dst != Config.farAddr n then s else { s with out := .packet n ([129#8, 0#8] ++ natBytes 2 0 ++ data) :: s.out }

def execEchoRequest (port : Fin 2) (dst : BitVec 128) (data : List Byte) (s : State) : Host.Outcome State Fault Refusal :=
  .next (if clocksRun s.dev then echo s port dst data else s)

/-- An edge of `PPS_IN` in tick `sub` of the present REFCLK period is latched and counted (R312, R456, R458). -/
def ppsEdge (s : State) (sub : Nat) : State :=
  let t := s.pwr.tick + BitVec.ofNat 64 (if s.pwr.refclk then sub else 0)
  let fast := s.far.ppsSeen && decide ((t - s.far.ppsTick).toNat < 100 * msTicks)
  updFar s (fun f => { f with ppsTick := t, ppsSeen := true, edges := (f.edges + 1) % 65536,
                              fast := if fast then satInc 0xFFFF f.fast else f.fast })

/-- The edge is latched in HALTED too, where a reference clock that stopped has led (R458). -/
def execPpsEdge (sub : Fin 64) (s : State) : Host.Outcome State Fault Refusal :=
  .next (if regsUp s then ppsEdge s sub else s)

end Sys2Proof.Machine
end

