-- ==== Sys2Proof/Machine/FarRound.lean ====
section
/-!
DEFINITION. Far rounds: selection, contributions, closing and applying, joining late, and the frames that carry them
(spec/13_far_exchange.md R294-R313).
-/

namespace Sys2Proof.Machine

/-! ### Far groups (R294) -/

/-- A far group with its update group. -/
structure FarG where
  p : Nat
  gi : Nat
  base : Nat
  g : UGroup
  deriving DecidableEq, Repr

/-- Enabled far groups in ascending order of partition and group; a partition under reset has the groups it had. -/
def farGroups (s : State) : List FarG :=
  (List.range 8).flatMap (fun p => (Tbl.get [] s.far.groups p).filterMap (fun e =>
    if !e.2.en then none else (groupAt (keptUpd s p) e.1).map (fun g => ⟨p, e.1, e.2.base, g⟩)))

/-- Partitions of the set the federation counts steps by. -/
def farParts (s : State) (c : FarCfg) : List Nat :=
  match (setOf s c.set).cfg with
  | some x => (List.range 8).filter (fun p => x.parts.testBit p)
  | none => []

def fparOf (s : State) (p : Nat) : Bool := Tbl.get false s.far.fpar p

/-- Every partition of PARTS stands at the step, its set IDLE (R221); a partition under reset stands where it stood. -/
def farAtStep (s : State) (c : FarCfg) (step : Nat) : Bool :=
  !(farParts s c).isEmpty && (farParts s c).all (fun p =>
    (usetOf (keptUpd s p) c.set).step.toNat == step && (usetOf (keptUpd s p) c.set).st == .idle)

/-- STEP of the set, as its first partition holds it. -/
def farStep (s : State) (c : FarCfg) : Nat := ((farParts s c).head?.map (fun p => (usetOf (keptUpd s p) c.set).step.toNat)).getD 0

/-! ### Planes of a far state block -/

/-- A plane of chunk `n`: 0 and 1 the anchor copies, 2 and 3 the residual copies, 4 the carry, 5 the merged delta. -/
def planeBase (x : FarG) (plane n : Nat) : Nat := x.base + plane * 4 * paddedCount x.g + 16384 * n

/-- Whole tiles written with their entries, by class 5 (R147, R297). -/
def farWrite (s : State) (a : Nat) (bs : List Byte) : State :=
  sealAll (devWrite s 5 a bs) 5 (tilesOf s a bs.length)

/-- Tiles a piece of a buffer fills are written with their entries (R147). -/
def farPut (s : State) (a : Nat) (bs : List Byte) : State := sealWhole (devWrite s 5 a bs) 5 a bs.length

/-- Parameters of a chunk that are there. -/
def chunkCount (g : UGroup) (n : Nat) : Nat := min 4096 (g.count - 4096 * n)

def farSlot (s : State) (c : FarCfg) (x : FarG) (other : Bool) : Nat := slotBase (usetOf (updOf s x.p) c.set) x.g other
def farStage (s : State) (c : FarCfg) (x : FarG) (other : Bool) : Nat := stageAt (usetOf (updOf s x.p) c.set) x.g other

/-- Reads of far planes are metered under class 5 and of slots under class 3, whole tiles as they are verified. -/
def meterFar (s : State) (cls : Nat) (rs : List (Nat × Nat)) : State := rs.foldl (fun s r => meterVerify s none cls r.1 r.2) s

/-- Every chunk of every enabled far group. -/
def farChunks (s : State) : List (FarG × Nat) := (farGroups s).flatMap (fun x => (List.range (chunksOfGroup x.g)).map (fun n => (x, n)))

/-- A far tile fails: its cause, and `MEM_ERR.UE` where the read met poison (R313, R473). -/
def farFails (s : State) (p : Nat) (f : UFail) : State :=
  match f with
  | .check => setFarErr s 1
  | .poison a => setFarErr (memError s p errUe a false) 1

/-! ### SELECT (R295-R297) -/

def expField (code : Nat) : Nat := code / 2 ^ 23 % 256

/-- Slot P of a far group at STEP kH, whatever commits since (R295). -/
def selSlot (s : State) (x : FarG) : Nat := if Tbl.get false s.far.selParity x.p then x.g.sbase1 else x.g.sbase0

/-- d of every parameter of a chunk, with e. -/
def deltasOf (s : State) (x : FarG) (n : Nat) : Except UFail (List (Val × Val)) := do
  let w ← updRead s (selSlot s x + 16384 * n) 16384
  let a ← updRead s (planeBase x (b2n (fparOf s x.p)) n) 16384
  let e ← updRead s (planeBase x (2 + b2n (fparOf s x.p)) n) 16384
  return (((fp32s 4096 w).zip ((fp32s 4096 a).zip (fp32s 4096 e))).take (chunkCount x.g n)).map (fun t =>
    (rneF32 (valAdd (valSub t.1 t.2.1) t.2.2), t.2.2))

structure SelChunk where
  x : FarG
  n : Nat
  ds : List (Val × Val)
  deriving DecidableEq, Repr

def selChunks (s : State) : List (FarG × Nat) → Except (Nat × UFail) (List SelChunk)
  | [] => .ok []
  | (x, n) :: rest =>
    match deltasOf s x n with
    | .error f => .error (x.p, f)
    | .ok ds => match selChunks s rest with
      | .error f => .error f
      | .ok out => .ok (⟨x, n, ds⟩ :: out)

/-- E* of a round: the smallest exponent field whose parameters fit the budget (R296). -/
def eStar (budget : Nat) (codes : List Nat) : Nat :=
  let hist := codes.foldl (fun (h : List Nat) d => h.set (expField d) (h.getD (expField d) 0 + 1)) (List.replicate 256 0)
  ((List.range 254).find? (fun k => decide (4 * (hist.drop (k + 1)).sum ≤ budget))).elim 255 (· + 1)

/-- The walk of the second pass: bytes used, whether selecting has stopped, and the flags so far. -/
structure SelWalk where
  used : Nat
  stop : Bool
  first : Bool
  flags : List Bool
  deriving DecidableEq, Repr

def selStep (budget es : Nat) (w : SelWalk) (code : Nat) : SelWalk :=
  let need := 4 + (if w.first then 8 else 0)
  if decide (es ≤ expField code) && expField code != 255 && !w.stop then
    if w.used + need ≤ budget then ⟨w.used + need, false, false, true :: w.flags⟩
    else ⟨w.used, true, w.first, false :: w.flags⟩
  else ⟨w.used, w.stop, w.first, false :: w.flags⟩

/-- What a chunk writes and selects: new residuals, carries, and entries by index. -/
structure SelOut where
  res : List Val
  carry : List Val
  entries : List (Nat × Nat)
  deriving DecidableEq, Repr

def selOut (ds : List (Val × Val)) (flags : List Bool) : SelOut :=
  let rows := (ds.zip flags).zipIdx.map (fun t =>
    let d := t.1.1.1
    let s := bf16Of d
    (if t.1.2 then rneF32 (valSub d (bf16Val s)) else d, rneF32 (valSub t.1.1.2 d), if t.1.2 then some (t.2, s) else none))
  ⟨rows.map (·.1), rows.map (·.2.1), rows.filterMap (·.2.2)⟩

def padVals (n : Nat) (vs : List Val) : List Val := vs ++ List.replicate (n - vs.length) valZero

def entryBytes (e : Nat × Nat) : List Byte := natBytes 4 (e.1 * 2 ^ 20 + e.2)

def chunkRecord (p gi n : Nat) (es : List (Nat × Nat)) : List Byte :=
  natBytes 8 (p * 2 ^ 61 + gi * 2 ^ 53 + n * 2 ^ 37 + es.length * 2 ^ 24) ++ es.flatMap entryBytes

/-- The second pass over the chunks: residuals, carries and zeros written, records collected. -/
def selPass (budget es : Nat) : List SelChunk → SelWalk → State → List Byte → Nat → State × List Byte × Nat
  | [], _, s, bs, n => (s, bs, n)
  | c :: rest, w, s, bs, n =>
    let w := (c.ds.map (fun d => fp32Of d.1)).foldl (selStep budget es) { w with first := true, flags := [] }
    let o := selOut c.ds w.flags.reverse
    let s := farWrite s (planeBase c.x (3 - b2n (fparOf s c.x.p)) c.n) (fp32Bytes (padVals 4096 o.res))
    let s := farWrite s (planeBase c.x 4 c.n) (fp32Bytes (padVals 4096 o.carry))
    let s := farWrite s (planeBase c.x 5 c.n) (List.replicate 16384 0#8)
    if o.entries.isEmpty then selPass budget es rest w s bs n
    else selPass budget es rest w s (bs ++ chunkRecord c.x.p c.x.gi c.n o.entries) (n + 1)

/-- The round is void: it sends nothing and flips nothing; the next one follows (R313). -/
def farVoid (s : State) (b : Nat) : State :=
  raiseVector (setFarErr (updFar s (fun f => { f with phase := .none, void := true, k := f.k + 1, sel := [] })) b) 19

/-- The commit that brings STEP to kH starts SELECT of round k (R295); a step that stood when the exchange was enabled
starts none (R314). -/
def farSelect (s : State) : State :=
  match s.far.cfg with
  | none => s
  | some c =>
    let step := farStep s c
    let k := step / c.h
    if !s.far.en || s.far.phase != .none || c.h == 0 || step == s.far.enStep || !farAtStep s c step || step % c.h != 0 || decide (k < s.far.k) then s
    else updFar s (fun f => { f with phase := .select, k := k, begun := true, tsnap := tickNow s, void := false,
                                     selParity := (farParts s c).map (fun p => (p, (usetOf (keptUpd s p) c.set).parity)), terms := [], applied := [] })

def execFarSelect (s : State) : Host.Outcome State Fault Refusal := .next (if clocksRun s.dev then farSelect s else s)

/-! ### Contributions (R299, R300, R307) -/

/-- K of R300: the open round, or the last closed round plus one. -/
def farK (s : State) : Nat := if s.far.phase = .opened then s.far.k else s.far.next

def ageOf (s : State) (round : Nat) : Int := (farK s : Int) - (round : Int)

/-- The age is accepted, with the discounts configured (R300). -/
def ageOk (c : FarCfg) (a : Int) : Bool :=
  decide (-1 ≤ a) && decide (a ≤ 2) && !(a == 1 && c.disc1 == 0) && !(a == 2 && c.disc2 == 0)

def recvDone (r : RecvSel) : Bool := r.got.length == segCount r.total

/-- A contribution held: complete and neither merged nor refused. -/
def isHeld (r : RecvSel) : Bool := !r.bulk && !r.closed && recvDone r

/-- Held contributions with their partner entries. -/
def heldContribs (s : State) : List (Nat × Partner × RecvSel) :=
  (livePartners s).flatMap (fun e => (e.2.recvs.filter isHeld).map (fun r => (e.1, e.2, r)))

def setRecv (s : State) (e : Nat) (r : RecvSel) : State :=
  updPartner s e (fun p => { p with recvs := p.recvs.map (fun x => if x.bulk = r.bulk ∧ x.round = r.round then r else x) })

def countLate (s : State) : State := updFar s (fun f => { f with stale := satInc 0xFF f.stale })
def countBadSel (s : State) : State := updFar s (fun f => { f with badsel := satInc 0xFF f.badsel })

/-- A contribution refused, by age or as a whole. -/
def refuseStale (s : State) (e : Nat) (r : RecvSel) : State := countLate (setRecv s e { r with closed := true })
def refuseSel (s : State) (e : Nat) (r : RecvSel) : State := countBadSel (setRecv s e { r with closed := true })

/-- Held contributions that the advance of K makes too old (R300). -/
def ageOut (s : State) (c : FarCfg) : State :=
  ((heldContribs s).filter (fun h => !ageOk c (ageOf s h.2.2.round))).foldl (fun s h => refuseStale s h.1 h.2.2) s

/-- Where the bytes of a contribution lie in the receive buffer (R315; notes/assumptions/36.md). -/
def recvBase (c : FarCfg) (e round : Nat) : Nat := c.rbuf + 4 * c.budget * (e - 1) + round % 4 * c.budget

/-! ### Closing (R299, R301) -/

/-- One chunk record of a selection. -/
structure SelRecord where
  p : Nat
  gi : Nat
  n : Nat
  entries : List (Nat × Nat)
  deriving DecidableEq, Repr

def entriesOf : Nat → List Byte → Option (List (Nat × Nat))
  | 0, _ => some []
  | k + 1, bs =>
    let w := natAt bs 0 4
    if w / 2 ^ 16 % 16 ≠ 0 then none
    else (entriesOf k (bs.drop 4)).map (fun es => (w / 2 ^ 20, w % 2 ^ 16) :: es)

/-- The chunk records of a selection after its prefix; none where the layout is broken (R296). -/
def selRecords : Nat → List Byte → Option (List SelRecord)
  | 0, bs => if bs.isEmpty then some [] else none
  | k + 1, bs =>
    let h := natAt bs 0 8
    let n := h / 2 ^ 24 % 2 ^ 13
    if bs.length < 8 + 4 * n ∨ n = 0 ∨ 4096 < n ∨ h % 2 ^ 24 ≠ 0 then none
    else
      match entriesOf n (bs.drop 8), selRecords k (bs.drop (8 + 4 * n)) with
      | some es, some rs =>
        if ascending (es.map (·.1)) then some (⟨h / 2 ^ 61, h / 2 ^ 53 % 2 ^ 8, h / 2 ^ 37 % 2 ^ 16, es⟩ :: rs) else none
      | _, _ => none

def recordKey (r : SelRecord) : Nat := r.p * 2 ^ 24 + r.gi * 2 ^ 16 + r.n

/-- A selection in its layout, each chunk one of an enabled far group (R296, R301). -/
def selectionOf (s : State) (fid round : Nat) (bs : List Byte) : Option (List SelRecord) :=
  if natAt bs 0 4 ≠ round % 2 ^ 32 ∨ natAt bs 8 2 ≠ fid ∨ natAt bs 14 2 ≠ 0 then none
  else
    match selRecords (natAt bs 10 4) (bs.drop 16) with
    | none => none
    | some rs =>
      if ascending (rs.map recordKey) && rs.all (fun r => (farGroups s).any (fun x =>
          x.p == r.p && x.gi == r.gi && decide (r.n < chunksOfGroup x.g) && r.entries.all (fun e => decide (e.1 < chunkCount x.g r.n))))
      then some rs else none

/-- The merge factor of a contribution by age, in units of 1/16,777,216 (R300). -/
def mergeFactor (c : FarCfg) (wt : Nat) (a : Int) : Nat :=
  wt * (if a = 1 then c.disc1 else if a = 2 then c.disc2 else 256)

/-- Terms in ascending order of sender and round. -/
def insertTerm (t : FarTerm) : List FarTerm → List FarTerm
  | [] => [t]
  | x :: rest => if t.fid < x.fid ∨ (t.fid = x.fid ∧ t.round < x.round) then t :: x :: rest else x :: insertTerm t rest

/-- Held contributions that a close takes: of ages 0 to 2 against the round that closes (R299, R301). -/
def closing (s : State) : List (Nat × Partner × RecvSel) := 
  (heldContribs s).filter (fun h => decide (h.2.2.round ≤ s.far.k) && decide (s.far.k ≤ h.2.2.round + 2))

/-- The contributions a close takes, in the order of R301, with this device's own selection; those broken are refused. -/
def gatherTerms (s : State) (c : FarCfg) : State × List FarTerm :=
  let own : FarTerm := ⟨c.fid, s.far.k, none, 256 * c.wself, s.far.sel⟩
  (closing s).foldl
    (fun (acc : State × List FarTerm) h =>
      let a := recvBase c h.1 h.2.2.round
      let s := meterRead acc.1 none 5 a h.2.2.total
      let bs := devRead s a h.2.2.total
      match selectionOf s h.2.1.fid h.2.2.round bs with
      | some _ => (s, insertTerm ⟨h.2.1.fid, h.2.2.round, some h.1, mergeFactor c h.2.1.wt ((s.far.k : Int) - h.2.2.round), bs⟩ acc.2)
      | none => (refuseSel s h.1 h.2.2, acc.2)) (s, [own])

/-- One term added to the merged deltas of a chunk. -/
def addTerm (s : State) (x : FarG) (n : Nat) (vs : List Val) (t : FarTerm) : List Val :=
  match (selectionOf s t.fid t.round t.data).bind (fun rs => rs.find? (fun r => r.p == x.p && r.gi == x.gi && r.n == n)) with
  | none => vs
  | some r => r.entries.foldl (fun vs e =>
      vs.set e.1 (rneF32 (valAdd (vs.getD e.1 valZero) (valMul (bf16Val e.2) (.fin false t.factor (2 ^ 24)))))) vs

/-- The terms summed into plane D; a repeat starts from zeros (R301, R313). -/
def sumPlanes (again : Bool) (ts : List FarTerm) : List (FarG × Nat) → State → Except (Nat × UFail) State
  | [], s => .ok s
  | (x, n) :: rest, s =>
    match (if again then .ok (List.replicate 16384 0#8) else updRead s (planeBase x 5 n) 16384) with
    | .error f => .error (x.p, f)
    | .ok bs => sumPlanes again ts rest (farWrite s (planeBase x 5 n) (fp32Bytes (ts.foldl (addTerm s x n) (fp32s 4096 bs))))

def quorumOf (s : State) (c : FarCfg) : Nat :=
  max c.qmin ((c.qfrac * (1 + (activePartners s).length) + 255) / 256)

/-- Fresh contributions held. -/
def freshCount (s : State) : Nat := ((heldContribs s).filter (fun h => h.2.2.round == s.far.k)).length

def guardTicks (s : State) (c : FarCfg) : Nat :=
  max (c.guardMin * msTicks) (2 * ((activePartners s).map (fun e => guardRtt e.2)).foldl max 0)

/-- A close or an apply that met a bad tile or a fenced partition stops the far exchange, the round CLOSED (R313, R420). -/
def farStop (s : State) : State := updFar s (fun f => { f with phase := .closed, stopped := true, en := false })

/-- The planes D a close sums into, as ranges. -/
def sumRanges (xs : List (FarG × Nat)) : List (Nat × Nat) := xs.map (fun e => (planeBase e.1 5 e.2, 16384))

/-- The sum of a close; it is made again from its terms after a failure. -/
def closeSum (s : State) (again : Bool) : State :=
  let xs := farChunks s
  if !xs.all (fun e => partActive s e.1.p) then farStop s
  else
    match sumPlanes again s.far.terms xs (if again then s else meterFar s 5 (sumRanges xs)) with
    | .error (p, f) => farStop (farFails s p f)
    | .ok s => s

/-- The contributions are summed and released, and SACKs show CLOSED (R301, R307). Where they lie in a partition that is not
ACTIVE the exchange stops, the round CLOSED, and they stay held (R420). -/
def closeTake (s : State) (c : FarCfg) (again : Bool) : State :=
  if !(closing s).isEmpty && !partActive s (hbmPart c.rbuf) then farStop s
  else
    let (s, ts) := gatherTerms s c
    let s := updFar s (fun f => { f with terms := ts })
    let s := ts.foldl (fun s t => match t.entry with
      | some e => updPartner s e (fun p => { p with recvs := p.recvs.map (fun r =>
          if !r.bulk ∧ r.round = t.round then { r with closed := true } else r) })
      | none => s) s
    let s := ts.foldl (fun s t => match t.entry with
      | some e => match (partnerOf s e).recvs.find? (fun r => !r.bulk && r.round == t.round) with
        | some r => sendSack s e r
        | none => s
      | none => s) s
    closeSum s again

/-- The round closes (R299). -/
def farClose (s : State) (c : FarCfg) (forced : Bool) : State :=
  let s := updFar s (fun f => { f with phase := .closed, forced := forced, next := f.k + 1, terms := [], stopped := false })
  apart (if forced then raiseVector s 19 else s) 5 (fun s => closeTake s c false)

/-- What a close reads and writes (R376): the contributions held, and the planes D. -/
def closeRanges (s : State) (c : FarCfg) : List (Nat × Nat) × List (Nat × Nat) :=
  ((closing s).map (fun h => (recvBase c h.1 h.2.2.round, h.2.2.total)), withEntries s (sumRanges (farChunks s)))

/-- Conditions 1 and 2 of R299. -/
def closeDue (s : State) (c : FarCfg) : Bool :=
  s.far.phase == .opened &&
    ((activePartners s).all (fun e => e.2.recvs.any (fun r => isHeld r && r.round == s.far.k)) ||
      (decide (s.far.tsnap + c.deadline * msTicks + guardTicks s c ≤ tickNow s) && decide (quorumOf s c ≤ freshCount s + 1)))

/-- Host lines hold the close back until they have come home. -/
def tryClose (s : State) : State :=
  match s.far.cfg with
  | none => s
  | some c =>
    if !closeDue s c then s
    else
      match hostHolds s (closeRanges s c).1 (closeRanges s c).2 with
      | some s => s
      | none => farClose s c false

def execFarDeadline (s : State) : Host.Outcome State Fault Refusal := .next (if clocksRun s.dev then tryClose s else s)

/-! ### Opening (R297) -/

/-- The selection of the round goes to a partner, once. -/
def giveSelection (s : State) (e : Nat) : State :=
  if s.far.phase = .opened ∧ (partnerOf s e).given ≠ some s.far.k then sendSel s e false s.far.k s.far.sel else s

/-- The round opens: old selections are given up, the new one is sent to every ACTIVE partner. -/
def farOpen (s : State) (c : FarCfg) : State :=
  let s := updFar s (fun f => { f with phase := .opened, partners := f.partners.map (fun e =>
    (e.1, { e.2 with sends := e.2.sends.filter (selLive s) })) })
  let s := ageOut s c
  tryClose (farPump ((activePartners s).foldl (fun s e => giveSelection s e.1) s))

def selectRanges (s : State) (c : FarCfg) : List (Nat × Nat) × List (Nat × Nat) :=
  let cs := farChunks s
  (cs.flatMap (fun e => [(selSlot s e.1 + 16384 * e.2, 16384), (planeBase e.1 (b2n (fparOf s e.1.p)) e.2, 16384),
      (planeBase e.1 (2 + b2n (fparOf s e.1.p)) e.2, 16384)]),
   (c.sbuf, c.budget) :: cs.flatMap (fun e => [(planeBase e.1 (3 - b2n (fparOf s e.1.p)) e.2, 16384),
      (planeBase e.1 4 e.2, 16384), (planeBase e.1 5 e.2, 16384)]))

/-- Both passes end on every partition (R296, R297). -/
def selectComplete (s : State) : State :=
  match s.far.cfg with
  | none => s
  | some c =>
    if s.far.phase ≠ .select then s
    else if !(farParts s c).all (partActive s) then farVoid s 2
    else
      let (rd, wr) := selectRanges s c
      match hostHolds s rd wr with
      | some s => s
      | none =>
        let s := meterFar (meterFar s 5 rd) 5 rd
        match selChunks s (farChunks s) with
        | .error (p, f) => farVoid (farFails s p f) 1
        | .ok cs =>
          if cs.any (fun x => x.ds.any (fun d => !valIsFinite d.1)) then farVoid s 0
          else
            let es := eStar c.budget (cs.flatMap (fun x => x.ds.map (fun d => fp32Of d.1)))
            let (s, body, n) := selPass c.budget es cs ⟨16, false, true, []⟩ s [] 0
            let sel := natBytes 4 s.far.k ++ natBytes 4 (s.far.k * c.h) ++ natBytes 2 c.fid ++ natBytes 4 n ++ natBytes 2 0 ++ body
            farOpen (updFar (farPut s c.sbuf sel) (fun f => { f with sel := sel })) c

def execFarSelectComplete (s : State) : Host.Outcome State Fault Refusal :=
  .next (if clocksRun s.dev then selectComplete s else s)

/-! ### The apply (R302, R303) -/

/-- The parameters of one chunk moved: master, working copy and anchor. The counts of the working copy's conversion go to no census
record, whatever CENSUS of the group's CCW is (DESIGN CHOICE, notes/assumptions/69.md). -/
def farApplyChunk (s : State) (c : FarCfg) (x : FarG) (n : Nat) (step : W32) : Except UFail State := do
  let w ← updRead s (farSlot s c x false + 16384 * n) 16384
  let a ← updRead s (planeBase x (b2n (fparOf s x.p)) n) 16384
  let k ← updRead s (planeBase x 4 n) 16384
  let d ← updRead s (planeBase x 5 n) 16384
  let u := updOf s x.p
  let ds := fp32s 4096 d
  let ms := padVals 4096 ((((fp32s 4096 w).zip (ds.zip (fp32s 4096 k))).take (chunkCount x.g n)).map (fun t =>
    rneF32 (valAdd (valAdd t.1 t.2.1) t.2.2)))
  let as := padVals 4096 ((((fp32s 4096 a).zip ds).take (chunkCount x.g n)).map (fun t => rneF32 (valAdd t.1 t.2)))
  let nb := copyBytes x.g.ccw
  let copy : RowOut := match convOfWord x.g.ccw with
    | some cv => storeRow { cv with split := false } (u.seedHi ++ u.seedLo) step (wrefOf s x.p) (srAddr 3 x.g.gkey (nb * n)) 0 ms
    | none => ⟨[], []⟩
  let s := updWrite s (farSlot s c x true + 16384 * n) (fp32Bytes ms)
  let s := devWrite s 3 (farStage s c x true + nb * n) (copy.bytes.map (·.2))
  return farWrite s (planeBase x (1 - b2n (fparOf s x.p)) n) (fp32Bytes as)

/-- A far group applied: its moments copied, its chunks moved, the tiles of its stage sealed. -/
def applyGroup (s : State) (c : FarCfg) (x : FarG) (step : W32) : Except UFail State := do
  let m := (ruleAt (updOf s x.p) x.g).mom
  let off := codesOff x.g 0
  let len := slotBytes x.g m - off
  let old ← updRead s (farSlot s c x false + off) len
  let s := updWrite s (farSlot s c x true + off) old
  let s ← (List.range (chunksOfGroup x.g)).foldlM (fun s n => farApplyChunk s c x n step) s
  return sealAll s 3 (tilesOf s (farStage s c x true) (stageBytes x.g))

/-- The far record a partition's apply writes (R303). -/
def farRecord (seq round : Nat) (fpar : Bool) (appSeq : Nat) : List Byte :=
  let body := natBytes 8 seq ++ natBytes 4 round ++ natBytes 1 (b2n fpar) ++ natBytes 3 0 ++ natBytes 8 appSeq ++ List.replicate 36 0#8
  body ++ natBytes 4 (crc32c body)

/-- The commit record of R225 with SEQ + 1 and the parity of set `k` flipped. -/
def applyRecord (u : Upd) (k : Nat) : List Byte :=
  let par := (List.range 64).foldl (fun n i => n + (if (usetOf u i).parity != (i == k) then 2 ^ i else 0)) 0
  let body := natBytes 8 (u.seq + 1) ++ natBytes 8 par ++ (List.range 64).flatMap (fun i => natBytes 4 (usetOf u i).step.toNat) ++
    List.replicate 236 0#8
  body ++ natBytes 4 (crc32c body)

/-- The commit record is written and the parity of the set flips. -/
def flipParity (s : State) (p k : Nat) : State :=
  let u := updOf s p
  let s := hbmWrite s 3 (recordAddr u) (applyRecord u k)
  let u := updOf s p
  let us := usetOf u k
  setUpd s p (setUset { u with seq := u.seq + 1 } k { us with parity := !us.parity })

/-- Reads of an apply: slot P by class 3, and the anchor, K and D by class 5 (R143). -/
def meterApply (s : State) (c : FarCfg) (xs : List FarG) : State :=
  let slots := xs.map (fun x => (farSlot s c x false, slotBytes x.g (ruleAt (updOf s x.p) x.g).mom))
  let planes := xs.flatMap (fun x => [b2n (fparOf s x.p), 4, 5].map (fun k => (planeBase x k 0, 4 * paddedCount x.g)))
  meterFar (meterFar s 3 slots) 5 planes

/-- The apply of one partition: far record first, then the commit record; FPAR and P change (R302). -/
def applyPart (s : State) (c : FarCfg) (p : Nat) (step : W32) : Except UFail State := do
  let xs := (farGroups s).filter (fun x => x.p == p)
  let s ← xs.foldlM (fun s x => applyGroup s c x step) (meterApply s c xs)
  let seq := Tbl.get 0 s.far.recSeq p + 1
  let fp := !fparOf s p
  let s := hbmWrite s 5 (p * hbmWindow + c.frec + 4096 * (seq % 2)) (farRecord seq s.far.k fp ((updOf s p).seq + 1))
  let s := flipParity s p c.set
  return updFar s (fun f => { f with fpar := Tbl.set f.fpar p fp, recSeq := Tbl.set f.recSeq p seq,
                                     recRound := Tbl.set f.recRound p f.k, applied := f.applied ++ [p] })

/-- The apply is complete on every partition: TOKEN is posted and the next round may come. -/
def applyDone (s : State) (c : FarCfg) : State :=
  if (farParts s c).all (fun p => s.far.applied.contains p) then
    raiseVector (sendPost (updFar s (fun f => { f with phase := .none, k := f.k + 1, terms := [], applied := [], sel := [] })) .farx false
      c.token) 19
  else s

/-- The apply on the partitions that have not made it; one that is not ACTIVE stops it (R313, R420). -/
def applyAll (c : FarCfg) (step : W32) : List Nat → State → State
  | [], s => applyDone s c
  | p :: rest, s =>
    if !partActive s p then farStop s
    else
    match applyPart s c p step with
    | .ok s => applyAll c step rest s
    | .error f => farStop (farFails s p f)

/-- The pinned copy is about to be overwritten: the pull ends STALE (R305). -/
def staleJoins (s : State) : State :=
  let s := ((livePartners s).filter (fun e => e.2.sends.any (·.bulk))).foldl (fun s e =>
    let s := sendFrame s e.1 { bareFrame typeBulkEnd with flags := 2, round := (s.far.pinned.map (·.2)).getD 0 }
    updPartner s e.1 (fun p => { p with sends := p.sends.filter (fun x => !x.bulk) })) s
  updFar s (fun f => { f with pinned := none })

def applyRanges (s : State) (c : FarCfg) : List (Nat × Nat) × List (Nat × Nat) :=
  ((farGroups s).map (fun x => (farSlot s c x false, slotBytes x.g (ruleAt (updOf s x.p) x.g).mom)) ++
    (farGroups s).map (fun x => (x.base, 24 * paddedCount x.g)),
   withEntries s ((farGroups s).flatMap (fun x => [(farSlot s c x true, slotBytes x.g (ruleAt (updOf s x.p) x.g).mom),
     (farStage s c x true, stageBytes x.g), (planeBase x (1 - b2n (fparOf s x.p)) 0, 4 * paddedCount x.g)])) ++
   (farParts s c).flatMap (fun p => [(recordAddr (updOf s p), 512),
     (p * hbmWindow + c.frec + 4096 * ((Tbl.get 0 s.far.recSeq p + 1) % 2), 64)]))

/-- The commit that brings STEP to kH + LAG closes an open round, and the apply is made (R299, R302). -/
def farApply (s : State) : State :=
  match s.far.cfg with
  | none => s
  | some c =>
    let step := s.far.k * c.h + c.lag
    if !farAtStep s c step || !(s.far.phase == .opened || s.far.phase == .closed || s.far.phase == .applying) || s.far.stopped then s
    else
      match (if s.far.phase = .opened then hostHolds s (closeRanges s c).1 (closeRanges s c).2 else none) with
      | some s => s
      | none =>
        let s := if s.far.phase = .opened then farClose s c (decide (freshCount s + 1 < quorumOf s c)) else s
        if s.far.stopped then s
        else
          let s := updFar s (fun f => { f with phase := .applying })
          let todo := (farParts s c).filter (fun p => !s.far.applied.contains p)
          let (rd, wr) := applyRanges s c
          match hostHolds s rd wr with
          | some s => s
          | none =>
            let stale := match s.far.pinned, todo.head? with
              | some (copy, _), some p => copy != fparOf s p
              | _, _ => false
            applyAll c (BitVec.ofNat 32 step) todo (if stale then staleJoins s else s)

def execFarApply (s : State) : Host.Outcome State Fault Refusal := .next (if clocksRun s.dev then farApply s else s)

/-- The round stopped under R313 is closed and applied again from its inputs: the terms of its close, or, where it stopped before it
took any, the contributions held. -/
def farRepeat (s : State) : State :=
  let s := updFar s (fun f => { f with stopped := false })
  farApply (match s.far.cfg with
    | some c => if s.far.terms.isEmpty then closeTake s c true else closeSum s true
    | none => s)

/-- What the repeat reads and writes. -/
def repeatRanges (s : State) : List (Nat × Nat) × List (Nat × Nat) :=
  match s.far.cfg with
  | none => ([], [])
  | some c =>
    if s.far.stopped then ((closeRanges s c).1 ++ (applyRanges s c).1, (closeRanges s c).2 ++ (applyRanges s c).2) else ([], [])

/-! ### Joining late (R305) -/

/-- The anchor image: copy `copy` of every far group, in order. -/
def anchorImage (s : State) (copy : Bool) : List (FarG × Nat) → Except (Nat × UFail) (List Byte)
  | [] => .ok []
  | (x, n) :: rest =>
    match updRead s (planeBase x (b2n copy) n) 16384, anchorImage s copy rest with
    | .ok bs, .ok more => .ok (bs ++ more)
    | .error f, _ => .error (x.p, f)
    | _, .error f => .error f

/-- The copy to pin, and the round it stands after: of the first partition whose apply is still to come. -/
def pinCopy (s : State) (c : FarCfg) : Bool × Nat :=
  match s.far.pinned with
  | some x => x
  | none =>
    let p := ((farParts s c).find? (fun p => !s.far.applied.contains p)).getD 0
    (fparOf s p, Tbl.get 0 s.far.recRound p)

/-- JOIN_REQ at a donor: the copy is pinned and sent in BULK frames. A donor that cannot read its anchor sends nothing
(notes/assumptions/47.md). -/
def joinReq (s : State) (e : Nat) : State :=
  match s.far.cfg with
  | none => s
  | some c =>
    let (copy, r) := pinCopy s c
    if !(farGroups s).all (fun x => partActive s x.p) then s
    else
    match hostHolds s (verifySpans s ((farGroups s).map (fun x => (planeBase x (b2n copy) 0, 4 * paddedCount x.g)))) [] with
    | some s => s
    | none =>
    match anchorImage s copy (farChunks s) with
    | .error (p, f) => farFails s p f
    | .ok bs =>
      if bs.isEmpty then sendFrame s e { bareFrame typeBulkEnd with round := r }
      else
        let s := meterFar s 5 ((farGroups s).map (fun x => (planeBase x (b2n copy) 0, 4 * paddedCount x.g)))
        farPump (sendSel (updFar s (fun f => { f with pinned := some (copy, r) })) e true r bs)

/-- The place of a segment of the anchor image: copy 0 of its far group. -/
def imagePlace : List FarG → Nat → Option Nat
  | [], _ => none
  | x :: rest, off => if off < 4 * paddedCount x.g then some (x.base + off) else imagePlace rest (off - 4 * paddedCount x.g)

def imageBytes (s : State) : Nat := ((farGroups s).map (fun x => 4 * paddedCount x.g)).sum

/-- A segment noted in its record; a SACK goes out after every 64 (R307). -/
def noteSeg (s : State) (e : Nat) (r : RecvSel) (seg : Nat) : State :=
  let got := if r.closed ∨ r.got.contains seg then r.got else r.got ++ [seg]
  let r := { r with got := got, unacked := r.unacked + 1 }
  let s := setRecv s e r
  if 64 ≤ r.unacked then sendSack s e r else s

def recvOf (s : State) (e : Nat) (bulk : Bool) (round : Nat) : Option RecvSel :=
  (partnerOf s e).recvs.find? (fun r => r.bulk == bulk && r.round == round)

def addRecv (s : State) (e : Nat) (r : RecvSel) : State := updPartner s e (fun p => { p with recvs := p.recvs ++ [r] })

/-- A BULK frame at a joiner. -/
def bulkSeg (s : State) (e : Nat) (b : FrameBody) : State :=
  match s.far.join with
  | none => s
  | some j =>
    if j.entry ≠ e ∨ s.far.phase ≠ .joining then s
    else if b.total ≠ imageBytes s then badFrame s
    else
      let s := if (recvOf s e true b.round).isSome then s
        else addRecv (updPartner s e (fun p => { p with recvs := p.recvs.filter (fun r => !r.bulk) })) e ⟨true, b.round, b.total, [], 0, false, []⟩
      let s := updFar s (fun f => { f with join := some { j with round := b.round, total := b.total } })
      match recvOf s e true b.round, imagePlace (farGroups s) (8192 * b.seg) with
      | some r, some a =>
        if r.got.contains b.seg then noteSeg s e r b.seg
        else
          match hostHolds s [] [(a, b.body.length)] with
          | some s => s
          | none => if (tilesOf s a b.body.length).isEmpty then s else noteSeg (farPut s a b.body) e r b.seg
      | _, _ => s

/-- BULK_END at a joiner: with STALE the request is repeated, three times at most. -/
def bulkEnd (s : State) (e : Nat) (stale : Bool) : State :=
  match s.far.join with
  | none => s
  | some j =>
    if j.entry ≠ e ∨ !stale then s
    else
      let s := updPartner s e (fun p => { p with recvs := p.recvs.filter (fun r => !r.bulk) })
      if 3 ≤ j.repeats then updFar s (fun f => { f with join := some { j with failed := true } })
      else sendFrame (updFar s (fun f => { f with join := some { j with repeats := j.repeats + 1, round := 0, total := 0 } })) e (bareFrame typeJoin)

/-- The anchor is whole: residuals zeroed, FPAR 0, the next round r + 1, TOKEN posted; or the third repeat has failed.
The anchor stands after round r here too. -/
def joinComplete (s : State) : State :=
  match s.far.join, s.far.cfg with
  | some j, some c =>
    if s.far.phase ≠ .joining then s
    else if j.failed then
      finishPend (setFarErr (updFar s (fun f => { f with phase := .none, join := none })) 3) (pendOp 0x0605) .timeout []
    else
      match (partnerOf s j.entry).recvs.find? (fun r => r.bulk && r.round == j.round) with
      | none => s
      | some r =>
        if !recvDone r then s
        else
        match hostHolds s [] (withEntries s ((farGroups s).map (fun x => (planeBase x 2 0, 8 * paddedCount x.g)))) with
        | some s => s
        | none =>
          let s := (farChunks s).foldl (fun s e => farWrite (farWrite s (planeBase e.1 2 e.2) (List.replicate 16384 0#8))
            (planeBase e.1 3 e.2) (List.replicate 16384 0#8)) s
          let s := updFar s (fun f => { f with
            phase := .none, join := none, fpar := [], k := j.round + 1, next := j.round + 1,
            recRound := (farParts s c).foldl (fun t p => Tbl.set t p j.round) f.recRound })
          let s := updPartner s j.entry (fun p => { p with recvs := p.recvs.filter (fun r => !r.bulk) })
          finishPend (sendPost s .farx false c.token) (pendOp 0x0605) .ok []
  | _, _ => s

def execFarJoinComplete (s : State) : Host.Outcome State Fault Refusal :=
  .next (if clocksRun s.dev then joinComplete s else s)

/-! ### Frames received (R304-R310) -/

/-- The round of a contribution has its place in the receive buffer (R315). -/
def hasPlace (s : State) (round : Nat) : Bool := decide (-1 ≤ ageOf s round) && decide (ageOf s round ≤ 2)

/-- A contribution is complete: one of an age not accepted is refused, and segments that came early are put into the
receive buffer (R300). -/
def recvWhole (s : State) (c : FarCfg) (e : Nat) (r : RecvSel) : State :=
  if !recvDone r || r.closed then s
  else if !ageOk c (ageOf s r.round) then refuseStale s e r
  else setRecv (r.early.foldl (fun s x => farPut s (recvBase c e r.round + 8192 * x.1) x.2) s) e { r with early := [] }

/-- A segment taken in, and the contribution judged when it is the last. -/
def takeSeg (s : State) (c : FarCfg) (e : Nat) (r : RecvSel) (seg : Nat) : State :=
  let s := noteSeg s e r seg
  match recvOf s e false r.round with
  | some r => recvWhole s c e r
  | none => s

/-- A new DATA segment is stored: in its place, or early, or nowhere where its age can be accepted no more
(R300, R307, R315; notes/assumptions/36.md). -/
def storeSeg (s : State) (c : FarCfg) (e : Nat) (r : RecvSel) (b : FrameBody) : State :=
  let a := recvBase c e b.round + 8192 * b.seg
  if ageOf s b.round < -1 then takeSeg s c e { r with early := Tbl.set r.early b.seg b.body } b.seg
  else if !hasPlace s b.round then takeSeg s c e r b.seg
  else
    match hostHolds s [] [(a, b.body.length)] with
    | some s => s
    | none => if (tilesOf s a b.body.length).isEmpty then s else takeSeg (farPut s a b.body) c e r b.seg

/-- A DATA frame: a segment of a contribution; a length that breaks the layout refuses it whole (R300, R301, R307). -/
def dataSeg (s : State) (e : Nat) (b : FrameBody) : State :=
  match s.far.cfg with
  | none => s
  | some c =>
    let s := if (recvOf s e false b.round).isSome then s else addRecv s e ⟨false, b.round, b.total, [], 0, false, []⟩
    match recvOf s e false b.round with
    | none => s
    | some r =>
      if r.closed || r.got.contains b.seg then noteSeg s e r b.seg
      else if b.total ≠ r.total ∨ c.budget < b.total ∨ b.total < 16 then noteSeg (refuseSel s e r) e { r with closed := true } b.seg
      else tryClose (storeSeg s c e r b)

/-- Any authenticated frame makes a JOINING or SILENT partner ACTIVE (R304). -/
def wakePartner (s : State) (e : Nat) : State :=
  let p := partnerOf s e
  if p.st = .joining ∨ p.st = .silent then farPump (giveSelection (setPartner s e { p with st := .active }) e) else s

/-- No pull is under way any more: no anchor copy stays pinned (R305). -/
def unpin (s : State) : State :=
  if (livePartners s).any (fun e => e.2.sends.any (·.bulk)) then s else updFar s (fun f => { f with pinned := none })

/-- A partner leaves: its contributions are discarded and sending stops (R304, R308). -/
def partnerLeft (s : State) (e : Nat) : State :=
  tryClose (unpin (updPartner s e (fun p => { p with st := .left, sends := [], recvs := [] })))

def probeReply (s : State) (e : Nat) (tx : Nat) : State :=
  let t := natBytes 8 (tickNow s)
  sendFrame s e { bareFrame typeReply with body := natBytes 8 tx ++ t ++ t }

/-- The sample of a PROBE_REPLY (R310), with the offset as the rule writes it. -/
def sampleOf (body : List Byte) (now : Nat) : Sample :=
  let t1 : Int := natAt body 0 8
  let t2 : Int := natAt body 8 8
  let t3 : Int := natAt body 16 8
  let t4 : Int := now
  ⟨(t4 - t1) - (t3 - t2), ((t2 - t1) - (t3 - t4)) / 2⟩

def takeReply (s : State) (e : Nat) (body : List Byte) : State :=
  let x := timeSample (partnerOf s e) (sampleOf body (tickNow s)) (tickNow s)
  let s := setPartner s e x.1
  if x.2 then updFar s (fun f => { f with disc := satInc 0xFF f.disc }) else s

/-- What a frame that passed the port does. -/
def frameTake (s : State) (e : Nat) (tx : Nat) (b : FrameBody) : State :=
  match b.type with
  | 1 => dataSeg s e b
  | 2 => takeSack s e b.body
  | 3 => probeReply s e tx
  | 4 => takeReply s e b.body
  | 5 => joinReq s e
  | 6 => bulkSeg s e b
  | 7 => bulkEnd s e (b.flags / 2 % 2 == 1)
  | 9 => partnerLeft s e
  | _ => s

/-- A frame of type `t` at a port: opened, its partner woken, its effect made. -/
def frameIn (t : Nat) (port : Nat) (f : Frame) (s : State) : State :=
  if !clocksRun s.dev || !(portOf s port).up || frameType f != t then s
  else
    let x := openFrame s f
    match x.2 with
    | none => x.1
    | some (e, body) => frameTake (wakePartner x.1 e) e (natAt f.header 32 8) (frameBodyOf f body)

def execChotinData (port : Fin 2) (f : Frame) (s : State) : Host.Outcome State Fault Refusal := .next (clocked s (frameIn typeData port f s))
def execChotinSack (port : Fin 2) (f : Frame) (s : State) : Host.Outcome State Fault Refusal := .next (clocked s (frameIn typeSack port f s))
def execChotinProbe (port : Fin 2) (f : Frame) (s : State) : Host.Outcome State Fault Refusal := .next (clocked s (frameIn typeProbe port f s))
def execChotinProbeReply (port : Fin 2) (f : Frame) (s : State) : Host.Outcome State Fault Refusal :=
  .next (clocked s (frameIn typeReply port f s))
def execChotinJoinReq (port : Fin 2) (f : Frame) (s : State) : Host.Outcome State Fault Refusal := .next (clocked s (frameIn typeJoin port f s))
def execChotinBulk (port : Fin 2) (f : Frame) (s : State) : Host.Outcome State Fault Refusal := .next (clocked s (frameIn typeBulk port f s))
def execChotinBulkEnd (port : Fin 2) (f : Frame) (s : State) : Host.Outcome State Fault Refusal :=
  .next (clocked s (frameIn typeBulkEnd port f s))
def execChotinHello (port : Fin 2) (f : Frame) (s : State) : Host.Outcome State Fault Refusal := .next (clocked s (frameIn typeHello port f s))
def execChotinLeave (port : Fin 2) (f : Frame) (s : State) : Host.Outcome State Fault Refusal := .next (clocked s (frameIn typeLeave port f s))

/-- A frame of a reserved type, for another device, from no partner or with a bad header (R306). -/
def reservedFrame (port : Nat) (f : Frame) (s : State) : State :=
  if clocksRun s.dev && (portOf s port).up && (frameSender s f).isNone then badFrame s else s

def execChotinReservedFrame (port : Fin 2) (f : Frame) (s : State) : Host.Outcome State Fault Refusal :=
  .next (clocked s (reservedFrame port f s))

/-- No authenticated frame for SILENCE ms (R304). -/
def silence (s : State) (e : Nat) : State :=
  let p := partnerOf s e
  if p.st = .joining ∨ p.st = .active then tryClose (setPartner s e { p with st := .silent }) else s

def execSilenceTimeout (e : Nat) (s : State) : Host.Outcome State Fault Refusal :=
  .next (if clocksRun s.dev then silence s e else s)

/-- A period of the reference clock with no command waiting: the stream cycle counter runs through its span (R185), and what
waits for a bucket goes out as it fills (R309; notes/assumptions/6.md). -/
def idlePeriod (s : State) : State :=
  let s := clockPeriod (spanPeriod s)
  if clocksRun s.dev then farPump s else s

/-! ### Fences and restoration (R303, R313) -/

/-- A partition reset during SELECT voids the round. -/
def fenceFar (s : State) : State := if s.far.phase = .select then farVoid s 2 else s

/-- The copy of a far record to take: its CHECK is good and its SEQ is the higher. -/
def goodFarRecord (s : State) (a : Nat) : Option (List Byte) :=
  let copy (n : Nat) : Option (List Byte) :=
    let bs := hbmRead s (a + 4096 * n) 64
    if crc32c (bs.take 60) = natAt bs 60 4 then some bs else none
  match copy 0, copy 1 with
  | some a, some b => some (if natAt b 0 8 < natAt a 0 8 then a else b)
  | some a, none => some a
  | none, o => o

/-- Reading the two copies of a far record is metered (R143). -/
def meterFarRecord (s : State) (a : Nat) : State := meterHbm (meterHbm s none 5 false a 64) none 5 false (a + 4096) 64

/-- FPAR, SEQ and ROUND of a partition from its far record; a commit record the apply had not written is written (R303). -/
def farRestore (s : State) (p : Nat) : State :=
  match s.far.cfg with
  | none => s
  | some c =>
    let s := meterFarRecord s (p * hbmWindow + c.frec)
    match goodFarRecord s (p * hbmWindow + c.frec) with
    | none => s
    | some bs =>
      let s := if natAt bs 16 8 = (updOf s p).seq + 1 then flipParity s p c.set else s
      updFar s (fun f => { f with fpar := Tbl.set f.fpar p (natAt bs 12 1 == 1), recSeq := Tbl.set f.recSeq p (natAt bs 0 8),
                                  recRound := Tbl.set f.recRound p (natAt bs 8 4) })

/-- Jante gives a partition its `FAR_FREC` again (R316, R427). -/
def frecRestore (s : State) (p : Nat) : State :=
  match s.far.cfg with
  | none => s
  | some c => updFar s (fun f => { f with frec := Tbl.set f.frec p (p * hbmWindow + c.frec) })

end Sys2Proof.Machine
end

