-- ==== Sys2Proof/Machine/Bindery.lean ====
section
/-!
DEFINITION. The Bindery: clip tables, decoded pictures, the patch emitter, the shuffle, pieces and jobs
(spec/15_bindery.md R334-R355).
-/

namespace Sys2Proof.Machine

def updBnd (s : State) (f : Bnd → Bnd) : State := { s with bnd := f s.bnd }
def setBndRun (s : State) (r : BndRun) : State := updBnd s (fun b => { b with run := some r })
def setBndErr (s : State) (n : Nat) : State := updBnd s (fun b => { b with err := setBit b.err n })

/-! ### Job descriptors (R353) -/

def jobOf (num : Nat) (bs : List Byte) : BndJob :=
  { num := num, ctab := natAt bs 0 8, n := natAt bs 8 4, epoch := BitVec.ofNat 32 (natAt bs 12 4),
    key := BitVec.ofNat 64 (natAt bs 16 8), firstMb := natAt bs 24 4, nmb := natAt bs 28 4, b := natAt bs 32 1,
    p := natAt bs 33 1, t := natAt bs 34 1, ycc := (natAt bs 35 1).testBit 0, loadLoop := (natAt bs 35 1).testBit 1,
    ccw := natAt bs 36 2, sreg := natAt bs 38 1, lreg := natAt bs 39 1, token := natAt bs 40 1, nbuf := natAt bs 41 1,
    maxRows := natAt bs 44 4, buf := natAt bs 48 8, step := BitVec.ofNat 32 (natAt bs 56 4) }

/-- Elements of a row, and its bytes by destination (R342). -/
def rowElems (j : BndJob) : Nat := 3 * j.p * j.p * j.t
def jobFmt (j : BndJob) : Option Fmt := (convOfWord j.ccw).map (·.dst)
def jobRowB (j : BndJob) : Nat :=
  match jobFmt j with
  | some .bf16 => 2 * rowElems j
  | some .g4 => 18 * ((rowElems j + 31) / 32)
  | _ => rowElems j

/-- Bytes from one buffer to the next (R349). -/
def jobStride (j : BndJob) : Nat := roundTile (4096 + j.maxRows * jobRowB j)

/-- The control word keeps R38 and R346. -/
def jobCcwOk (ccw : Nat) : Bool :=
  match convOfWord ccw with
  | some c => c.dst == .bf16 || c.dst == .e4m3 || c.dst == .g4
  | none => false

/-! ### The shuffle (R347) -/

/-- Bits of a half: the width is the smallest even one that holds n, and at least 2. -/
def halfBits (n : Nat) : Nat := ((List.range 17).find? (fun h => h != 0 && decide (n ≤ 2 ^ (2 * h)))).getD 16

def roundKey (j : BndJob) (r : Nat) : W64 := srMix (srMix (j.key ^^^ j.epoch.setWidth 64) ^^^ BitVec.ofNat 64 (r + 1))

def shuffleMix (j : BndJob) (h r x : Nat) : Nat := (srMix (roundKey j r ^^^ BitVec.ofNat 64 x)).toNat % 2 ^ h

/-- The inverse of the four rounds. -/
def shuffleInv (j : BndJob) (h y : Nat) : Nat :=
  let x := [3, 2, 1, 0].foldl (fun (x : Nat × Nat) r => (x.2 ^^^ shuffleMix j h r x.1, x.1)) (y >>> h, y % 2 ^ h)
  x.1 <<< h ||| x.2

/-- The four rounds forward. -/
def shuffleFwd (j : BndJob) (h x : Nat) : Nat :=
  let y := [0, 1, 2, 3].foldl (fun (x : Nat × Nat) r => (x.2, x.1 ^^^ shuffleMix j h r x.2)) (x >>> h, x % 2 ^ h)
  y.1 <<< h ||| y.2

def walk (f : Nat → Nat) (n : Nat) : Nat → Nat → Nat
  | 0, x => x
  | fuel + 1, x => if n ≤ x then walk f n fuel (f x) else x

/-- The sample at a position. -/
def sampleAt (j : BndJob) (q : Nat) : Nat :=
  let h := halfBits j.n
  walk (shuffleInv j h) j.n (2 ^ (2 * h)) (shuffleInv j h q)

/-- The position of a sample. -/
def posAt (j : BndJob) (i : Nat) : Nat :=
  let h := halfBits j.n
  walk (shuffleFwd j h) j.n (2 ^ (2 * h)) (shuffleFwd j h i)

/-! ### Clip entries (R338) -/

structure Clip where
  es : Nat
  len : Nat
  codec : Nat
  colour : Nat
  lumaF : Nat
  chromaF : Nat
  csite : Nat
  x0 : Nat
  y0 : Nat
  cw : Nat
  ch : Nat
  ow : Nat
  oh : Nat
  start : Nat
  fstep : Nat
  frames : Nat
  id : List Byte
  deriving DecidableEq, Repr

def clipOf (bs : List Byte) : Clip :=
  { es := natAt bs 0 8, len := natAt bs 8 4, codec := natAt bs 12 1, colour := natAt bs 13 1, lumaF := natAt bs 14 1 % 16,
    chromaF := natAt bs 14 1 / 16, csite := natAt bs 15 1, x0 := natAt bs 16 2, y0 := natAt bs 18 2, cw := natAt bs 20 2,
    ch := natAt bs 22 2, ow := natAt bs 24 2, oh := natAt bs 26 2, start := natAt bs 28 4, fstep := natAt bs 32 2,
    frames := natAt bs 34 2, id := bytesAt bs 40 8 }

def entryBad (s : State) (j : BndJob) (bs : List Byte) : Bool :=
  let c := clipOf bs
  c.ow == 0 || c.oh == 0 || c.ow % j.p != 0 || c.oh % j.p != 0 || c.frames == 0 || c.frames % j.t != 0 || c.fstep == 0 ||
    c.codec == 0 || decide (4 < c.codec) || decide (7 < c.colour) || decide (3 < c.lumaF) || decide (3 < c.chromaF) ||
    decide (2 < c.csite) || c.len == 0 || natAt bs 36 4 != 0 || (bs.drop 48).any (· != 0#8) || !usableHbm s c.es c.len

/-- Grid of a clip: columns, rows and depth in patches. -/
def clipGrid (j : BndJob) (c : Clip) : Nat × Nat × Nat := (c.ow / j.p, c.oh / j.p, c.frames / j.t)

def clipRows (s : State) (j : BndJob) (bs : List Byte) : Nat :=
  if entryBad s j bs then 0 else let g := clipGrid j (clipOf bs); g.1 * g.2.1 * g.2.2

def entryAt (r : BndRun) (q : Nat) : List Byte := Tbl.get [] r.entries q
def rowsAt (s : State) (r : BndRun) (q : Nat) : Nat := clipRows s r.job (entryAt r q)

/-! ### Pieces (R348, R349) -/

structure Piece where
  g : Nat
  mb : Nat
  idx : Nat
  count : Nat
  rows : Nat
  prows : Nat
  row0 : Nat
  deriving DecidableEq, Repr

/-- Positions of the `i`-th micro-batch of the job. -/
def mbPositions (r : BndRun) (i : Nat) : List Nat := (List.range r.job.b).map (fun k => (r.job.firstMb + i) * r.job.b + k)

def mbRows (s : State) (r : BndRun) (i : Nat) : Nat := ((mbPositions r i).map (rowsAt s r)).sum

/-- The pieces of a micro-batch, the first of them piece `g` of the job. -/
def mbPieces (j : BndJob) (mb rows g : Nat) : List Piece :=
  if rows = 0 then [⟨g, mb, 0, 1, 0, 1, 0⟩]
  else
    let n := (rows + j.maxRows - 1) / j.maxRows
    (List.range n).map (fun k => ⟨g + k, mb, k, n, rows, min j.maxRows (rows - k * j.maxRows), k * j.maxRows⟩)

/-- The pieces of every micro-batch whose entries are read. -/
def piecesOf (s : State) (r : BndRun) : List Piece :=
  (List.range r.mbs).foldl (fun ps i => ps ++ mbPieces r.job (r.job.firstMb + i) (mbRows s r i) ps.length) []

def bufAt (j : BndJob) (g : Nat) : Nat := j.buf + g % j.nbuf * jobStride j
def patchAddr (j : BndJob) (g row : Nat) : Nat := bufAt j g + 4096 + row * jobRowB j

/-- The rows of the clip at a position, as the piece and the row within it, in the order of R342. -/
def clipPlaces (s : State) (r : BndRun) (q : Nat) : List (Nat × Nat) :=
  let mb := q / r.job.b
  let first := ((List.range (q % r.job.b)).map (fun k => rowsAt s r (mb * r.job.b + k))).sum
  match (piecesOf s r).find? (fun p => p.mb == mb) with
  | none => []
  | some p => (List.range (rowsAt s r q)).map (fun k => (p.g + (first + k) / r.job.maxRows, (first + k) % r.job.maxRows))

def clipState (r : BndRun) (q : Nat) : ClipSt := Tbl.get .waiting r.clips q
def clipFailed (c : ClipSt) : Bool := c == .failed || c == .failedGrain
def clipGrain (c : ClipSt) : Bool := c == .grain || c == .failedGrain
def clipOver (c : ClipSt) : Bool := c == .done || c == .grain || clipFailed c

/-! ### Ending and starting jobs (R354) -/

/-- A job begins: nothing read, claimed or handed off. -/
def runBegin (j : BndJob) : BndRun :=
  let rc (d : Nat) : Option CRec :=
    if j.ccw.testBit 4 then some ⟨3, j.num, j.ccw / 2 ^ 11 % 32, 0xC0 + d, false, j.step.toNat, 0, 0, 0, 0, histZero⟩ else none
  { job := j, mbs := 0, entries := [], clips := [], claimed := 0, written := [], handed := 0, released := false,
    rec0 := rc 0, rec1 := rc 1, stopping := false, stores := [] }

/-- The next job of the queue starts; one whose buffers lie in a partition that is not ACTIVE stops at once (R355). -/
def startJobs : Nat → State → State
  | 0, s => s
  | fuel + 1, s =>
    match s.bnd.run, s.bnd.queue with
    | none, j :: rest =>
      let s := updBnd s (fun b => { b with queue := rest, lastJob := j.num, mbCount := 0 })
      if partActive s (hbmPart j.buf) then setBndRun s (runBegin j)
      else startJobs fuel (raiseVector (setBndErr s 2) 21)
    | _, _ => s

/-- The running job is over: its lanes are free, vector 21 is raised and the next job starts. -/
def endJob (s : State) : State :=
  let s := raiseVector (updBnd s (fun b => { b with run := none, lanes := [] })) 21
  startJobs s.bnd.queue.length s

/-- A stop in the way of BND_JOB_STOP, with its cause in `BND_ERR`. -/
def stopJob (s : State) (b : Nat) : State := endJob (setBndErr s b)

/-- The end of BND_JOB_STOP: every running clip is abandoned. -/
def jobStopped (s : State) : State :=
  match s.bnd.run with
  | some r => if r.stopping then finishPend (endJob s) (pendOp 0x0805) .ok [] else s
  | none => s

def execBndJobStopComplete (s : State) : Host.Outcome State Fault Refusal :=
  .next (if clocksRun s.dev then jobStopped s else s)

/-- A record whose ring partition is not ACTIVE is tested and not written (R355). -/
def jobRecord (s : State) (p : Nat) (r : CRec) : State :=
  if partActive s p then pushCensus s p r
  else
    let x := censusOf s p
    if crosses x r then crossing s p r (if bitAt x.cthr1 31 then vetoSets s r.step else []) else s

/-- The last piece has been handed off: the census records are written and the next job starts (R354). -/
def jobComplete (s : State) : State :=
  match s.bnd.run with
  | none => s
  | some r =>
    if r.stopping || r.mbs != r.job.nmb || r.handed != (piecesOf s r).length then s
    else
      let s := match r.rec0 with | some x => jobRecord s 0 x | none => s
      let s := match r.rec1 with | some x => jobRecord s 4 x | none => s
      endJob s

def execJobComplete (s : State) : Host.Outcome State Fault Refusal := .next (if clocksRun s.dev then jobComplete s else s)

/-! ### Claiming buffers (R350) -/

/-- The entries of the next micro-batch are read; one that meets poison is a bad entry (R348, R473). -/
def readEntries (s : State) (r : BndRun) : State :=
  let qs := mbPositions r r.mbs
  let spots := qs.map (fun q => r.job.ctab + 64 * sampleAt r.job q)
  if spots.any (fun a => (devFault s a 64).isSome) then s
  else
    match hostHolds s (spots.map (fun a => (a, 64))) [] with
    | some s => s
    | none =>
      let step (acc : State × Tbl (List Byte)) (e : Nat × Nat) : State × Tbl (List Byte) :=
        match devPoisoned acc.1 e.2 64 with
        | some w => (memError acc.1 (hbmPart w) errUe w false, Tbl.set acc.2 e.1 (List.replicate 64 0#8))
        | none => (acc.1, Tbl.set acc.2 e.1 (devRead acc.1 e.2 64))
      let x := (qs.zip spots).foldl step (spots.foldl (fun s a => meterRead s none 2 a 64) s, r.entries)
      let r := { r with mbs := r.mbs + 1, entries := x.2 }
      let bad := (qs.filter (fun q => entryBad s r.job (entryAt r q))).length
      updBnd (setBndRun x.1 r) (fun b => { b with cntBad := min 0xFF (b.cntBad + bad) })

/-- The next piece is claimed where buffer `j` is its own and free. -/
def claimNext (s : State) (j : Nat) : State :=
  match s.bnd.run with
  | none => s
  | some r =>
    if r.claimed % r.job.nbuf = j ∧ r.claimed < (piecesOf s r).length ∧ r.claimed < r.handed + r.job.nbuf then
      setBndRun s { r with claimed := r.claimed + 1 }
    else s

/-- A header is read: FILLED zero lets the handoff go on and the buffer be claimed; a bad tile stops the job. -/
def headerPoll (s : State) (j : Nat) : State :=
  match s.bnd.run with
  | none => s
  | some r =>
    let a := bufAt r.job j
    if r.stopping || decide (r.job.nbuf ≤ j) || (devFault s a 4096).isSome then s
    else
      match hostHolds s [(a, 4096)] [] with
      | some s => s
      | none =>
        match updRead s a 4096 with
        | .error .check => stopJob s 1
        | .error (.poison w) => stopJob (memError s (hbmPart w) errUe w false) 1
        | .ok bs =>
          let s := meterVerify s none 2 a 4096
          if natAt bs 0 4 ≠ 0 then s
          else
            let r := if r.handed ≠ 0 ∧ (r.handed - 1) % r.job.nbuf = j then { r with released := true } else r
            let s := setBndRun s r
            let s := if (piecesOf s r).length ≤ r.claimed ∧ r.mbs < r.job.nmb then readEntries s r else s
            claimNext s j

def execBufferHeaderPoll (j : Fin 16) (s : State) : Host.Outcome State Fault Refusal :=
  .next (if clocksRun s.dev then headerPoll s j else s)

/-! ### Lanes (R339, R340) -/

/-- The partition of a lane's frame store. -/
def lanePart (d : Nat) : Nat := 4 * (d / 16) + d % 16 / 4

/-- The clip that comes next: the first of the known positions that has rows and has not begun. -/
def nextClip (s : State) (r : BndRun) : Option Nat :=
  ((List.range r.mbs).flatMap (mbPositions r)).find? (fun q => rowsAt s r q != 0 && clipState r q == .waiting)

/-! ### What a decoded clip gives (R334-R346) -/

/-- The source frame of an output frame (R343). -/
def sourceFrame (c : Clip) (f : Nat) : Nat := c.start + f * c.fstep / 256

/-- The last picture the clip needs, and the bytes its lane reads of the range: what follows them is not read (R339). -/
def lastFrame (c : Clip) : Nat := sourceFrame c (c.frames - 1)
def usedBytes (c : Clip) (es : List Byte) : Nat := min c.len (Config.videoUsed c.codec es (lastFrame c))

/-- Why a clip fails (R336, R340). -/
inductive ClipFail where
  | syntaxBreach | excluded | absentReference | limit | crop | fsFull
  deriving DecidableEq, Repr

/-- The profile is one a lane decodes for its codec (R334); every other is excluded (R335). -/
def profileOk (codec : Nat) (p : Config.VideoProfile) : Bool :=
  match codec, p with
  | 1, .mpeg2Main => true
  | 2, .constrainedBaseline => true
  | 2, .h264Main => true
  | 2, .h264High => true
  | 3, .hevcMain => true
  | 3, .hevcMain10 => true
  | 3, .hevcStill => true
  | 4, .av1Main => true
  | _, _ => false

/-- Bit depth and chroma format are among those of R334. -/
def formatOk (codec : Nat) (f : Config.VideoFacts) : Bool :=
  match codec with
  | 1 => f.depth == 8 && f.chroma == 1
  | 2 => f.depth == 8 && (f.chroma == 0 || f.chroma == 1)
  | 3 => f.chroma == 1 && (f.depth == 8 || (f.profile == .hevcMain10 && (f.depth == 9 || f.depth == 10)))
  | _ => (f.chroma == 0 || f.chroma == 1) && (f.depth == 8 || f.depth == 10)

/-- The level limit of a codec, times ten (R334). -/
def levelMax (codec : Nat) : Nat := if codec = 1 then 40 else if codec = 2 then 52 else 51

/-- The picture keeps the sizes and the level of R334. -/
def withinLimits (codec : Nat) (f : Config.VideoFacts) : Bool :=
  decide (f.width ≤ 8192) && decide (f.height ≤ 4352) && decide (f.width * f.height ≤ 9437184) && decide (f.level ≤ levelMax codec)

/-- The range begins as R337 asks. -/
def startOk (codec : Nat) (f : Config.VideoFacts) : Bool :=
  f.form && f.headers && f.start == (if codec = 1 then .closedGop else if codec = 2 then .idr else if codec = 3 then .irap else .keyFrame)

/-! The level's maximum of the decoded picture buffer, from ITU-T H.264 and H.265 (PRESUMED, notes/assumptions/7.md). -/

/-- Macroblocks the buffer holds at a level of H.264. -/
def h264Mbs (level : Nat) : Nat :=
  if level ≤ 10 then 396 else if level ≤ 11 then 900 else if level ≤ 20 then 2376 else if level ≤ 21 then 4752
  else if level ≤ 30 then 8100 else if level ≤ 31 then 18000 else if level ≤ 32 then 20480 else if level ≤ 41 then 32768
  else if level ≤ 42 then 34816 else if level ≤ 50 then 110400 else 184320

/-- Luma samples of a picture at a level of HEVC. -/
def hevcLuma (level : Nat) : Nat :=
  if level ≤ 10 then 36864 else if level ≤ 20 then 122880 else if level ≤ 21 then 245760 else if level ≤ 30 then 552960
  else if level ≤ 31 then 983040 else if level ≤ 41 then 2228224 else 8912896

def levelDpb (codec level coded : Nat) : Nat :=
  if codec = 2 then min 16 (h264Mbs level / max 1 (coded / 256))
  else if 4 * coded ≤ hevcLuma level then 16 else if 2 * coded ≤ hevcLuma level then 12
  else if 4 * coded ≤ 3 * hevcLuma level then 8 else 6

/-- Frame-store bytes a picture takes, pictures kept, and what a clip needs (R340). -/
def pictureBytes (f : Config.VideoFacts) : Nat := roundTile (if f.depth = 8 then (3 * f.coded + 1) / 2 else 3 * f.coded)
def pictureRefs (codec : Nat) (f : Config.VideoFacts) : Nat :=
  if codec = 1 then 2 else if codec = 4 then 8 else f.dpb.getD (levelDpb codec f.level f.coded)
def storeNeed (codec : Nat) (f : Config.VideoFacts) : Nat := (pictureRefs codec f + 2) * pictureBytes f

/-- Where quarter `k` of the carve-out begins, at a whole tile, and the whole tiles' bytes each quarter has at least, so that a
clip fares alike on every lane (R340, R341; notes/assumptions/51.md). -/
def quarterStart (s : State) (k : Nat) : Nat := roundTile (s.bnd.fsOff + k * (s.bnd.fsSize / 4))
def quarterRoom (s : State) (k : Nat) : Nat := (s.bnd.fsOff + (k + 1) * (s.bnd.fsSize / 4)) / 4096 * 4096 - quarterStart s k
def storeRoom (s : State) : Nat := min (min (quarterRoom s 0) (quarterRoom s 1)) (min (quarterRoom s 2) (quarterRoom s 3))

/-- Why the clip fails, from its entry and the bytes read of its stream; none where it decodes (R334-R340). -/
def clipFault (s : State) (c : Clip) (es : List Byte) : Option ClipFail :=
  let f := Config.videoFacts c.codec es
  if !profileOk c.codec f.profile || f.largeTile || (c.codec == 3 && f.highTier) || !formatOk c.codec f then some .excluded
  else if !startOk c.codec f || !f.legal then some .syntaxBreach
  else if !f.refs || decide (f.pictures ≤ lastFrame c) then some .absentReference
  else if !withinLimits c.codec f then some .limit
  else if f.width < c.x0 + c.cw ∨ f.height < c.y0 + c.ch then some .crop
  else if storeRoom s < storeNeed c.codec f then some .fsFull
  else none

def clipDecodes (s : State) (c : Clip) (es : List Byte) : Bool := (clipFault s c es).isNone

/-- A lane's quarter of the carve-out (R340). -/
def laneStore (s : State) (d : Nat) : Nat := lanePart d * hbmWindow + quarterStart s (d % 4)

/-- The frame store a clip fills, as bytes of whole tiles; nothing where the clip does not get so far. -/
def storeBytes (s : State) (c : Clip) (es : List Byte) : List Byte :=
  let es := es.take (usedBytes c es)
  if clipDecodes s c es then (List.range (storeNeed c.codec (Config.videoFacts c.codec es))).map (Config.videoStore c.codec es) else []

/-- A free lane takes the next clip once every buffer its rows fall in is claimed; its frame store is written with
entries as it decodes (R339, R340, R350; notes/assumptions/51.md). -/
def clipStart (s : State) (d : Nat) : State :=
  match s.bnd.run with
  | none => s
  | some r =>
    if r.stopping || (Tbl.get? s.bnd.lanes d).isSome || !partActive s (lanePart d) then s
    else
      match nextClip s r with
      | none => s
      | some q =>
        if (clipPlaces s r q).all (fun x => decide (x.1 < r.claimed)) then
          let c := clipOf (entryAt r q)
          let es := devRead s c.es c.len
          let bs := storeBytes s c es
          match hostHolds s [(c.es, usedBytes c es)] [(laneStore s d, bs.length)] with
          | some s => s
          | none =>
            updBnd (sealWhole (devWrite s 2 (laneStore s d) bs) 2 (laneStore s d) bs.length) (fun b => { b with
              run := some { r with clips := Tbl.set r.clips q .running, stores := Tbl.set r.stores d bs.length },
              lanes := Tbl.set b.lanes d q })
        else s

def execClipStart (d : Fin 32) (s : State) : Host.Outcome State Fault Refusal :=
  .next (if clocksRun s.dev then clipStart s d else s)

/-- A source position along an axis (R344). -/
def sourcePos (x0 inLen outLen o : Nat) : Int := (x0 * 65536 + (2 * o + 1) * inLen * 65536 / (2 * outLen) : Nat) - 32768

def clampTo (n : Nat) (i : Int) : Nat := if i < 0 then 0 else min i.toNat (n - 1)

/-- One 8-tap sum at a position. -/
def tapSum (filter : List Int) (pos : Int) (sample : Int → Int) : Int :=
  let i := pos / 65536
  let phase := (pos / 1024 % 64).toNat
  (List.range 8).foldl (fun a k => a + filter.getD (8 * phase + k) 0 * sample (i - 3 + k)) 0

/-- A plane of a picture as the resampler sees it. -/
structure Plane where
  codec : Nat
  es : List Byte
  frame : Nat
  plane : Nat
  facts : Config.VideoFacts
  w : Nat
  h : Nat
  deriving DecidableEq, Repr

/-- A sample code of an output picture. A field pair of MPEG-2 or H.264 is one frame, its fields woven; an HEVC field is a
frame of its own (R335). -/
def pictureCode (p : Plane) (x y : Nat) : Nat :=
  let k := Config.videoCoding p.codec p.es p.frame
  if k.pair ∧ p.codec ≤ 2 then Config.videoField p.codec p.es p.frame (b2n ((y % 2 == 1) != k.bottomFirst)) p.plane x (y / 2)
  else Config.videoSample p.codec p.es p.frame p.plane x y

def planeSample (p : Plane) (x y : Int) : Int :=
  let code := if p.plane ≠ 0 ∧ p.facts.chroma = 0 then 2 ^ (p.facts.depth - 1) else pictureCode p (clampTo p.w x) (clampTo p.h y)
  (code * 2 ^ (10 - p.facts.depth) : Nat)

/-- Horizontal and vertical offsets of the chroma planes by siting. -/
def siting (csite : Nat) : Int × Int := if csite = 0 then (0, -16384) else if csite = 1 then (-16384, -16384) else (0, 0)

/-- A resampled value u of a plane at an output column and row. -/
def resample (s : State) (c : Clip) (p : Plane) (ox oy : Nat) : Val :=
  let px := sourcePos c.x0 c.cw c.ow ox
  let py := sourcePos c.y0 c.ch c.oh oy
  let off := siting c.csite
  let px := if p.plane = 0 then px else px / 2 + off.1
  let py := if p.plane = 0 then py else py / 2 + off.2
  let filter := Tbl.get [] s.bnd.filters (if p.plane = 0 then c.lumaF else c.chromaF)
  let across (y : Int) : Int := (tapSum filter px (fun x => planeSample p x y) + 512) / 1024
  let sum := tapSum filter py across
  valDyadic (decide (sum < 0)) sum.natAbs (-18)

/-- An output sample z of a channel (R345). -/
def colourOut (codes : List Nat) (us : List Val) (ch : Nat) : Val :=
  let k (n : Nat) : Val := fp32Val (codes.getD n 0)
  let x := rneF32 ((List.range 3).foldl (fun a j => valAdd a (valMul (k (3 * ch + j)) (us.getD j valZero))) (k (9 + ch)))
  rneF32 (valAdd (valMul x (k (12 + ch))) (k (15 + ch)))

/-- The elements of row `row` of a clip (R342). -/
def rowVals (s : State) (j : BndJob) (c : Clip) (es : List Byte) (row : Nat) : List Val :=
  let g := clipGrid j c
  let gx := row % g.1
  let gy := row / g.1 % g.2.1
  let ti := row / (g.1 * g.2.1)
  let fs := Config.videoFacts c.codec es
  let w := fs.width
  let h := fs.height
  (List.range (rowElems j)).map (fun i =>
    let ch := i % 3
    let dx := i / 3 % j.p
    let dy := i / (3 * j.p) % j.p
    let dt := i / (3 * j.p * j.p)
    let plane (n : Nat) : Plane := ⟨c.codec, es, sourceFrame c (ti * j.t + dt), n, fs,
      if n = 0 then w else (w + 1) / 2, if n = 0 then h else (h + 1) / 2⟩
    let us := (List.range 3).map (fun n => resample s c (plane n) (gx * j.p + dx) (gy * j.p + dy))
    colourOut (Tbl.get [] s.bnd.colours c.colour) us ch)

/-- A row at its address, with its measurements (R346). -/
def rowOut (s : State) (j : BndJob) (die a : Nat) (vs : List Val) : RowOut :=
  match convOfWord j.ccw with
  | some cv => storeRow { cv with split := false } (s.bnd.seedHi ++ s.bnd.seedLo) j.step (wrefOf s (4 * die)) a 0 vs
  | none => ⟨[], []⟩

def addDieCounts (r : BndRun) (die : Nat) (cs : List (Count × Nat)) : BndRun :=
  if die = 0 then { r with rec0 := r.rec0.map (fun x => recAdd x cs 0) } else { r with rec1 := r.rec1.map (fun x => recAdd x cs 0) }

/-- Every row that touches a tile of a piece is written, and the rows cover it (R147). -/
def tileFilled (s : State) (r : BndRun) (p : Piece) (t : Nat) : Bool :=
  let base := patchAddr r.job p.g 0
  decide (t + 4096 ≤ base + p.prows * jobRowB r.job) &&
    (mbPositions r (p.mb - r.job.firstMb)).all (fun q => clipOver (clipState r q) ||
      (clipPlaces s r q).all (fun x => x.1 != p.g ||
        decide (patchAddr r.job p.g x.2 + jobRowB r.job ≤ t) || decide (t + 4096 ≤ patchAddr r.job p.g x.2)))

/-- The tiles of the rows just written take their entries once filled. -/
def sealRows (s : State) (r : BndRun) (places : List (Nat × Nat)) : State :=
  ((places.map (·.1)).eraseDups).foldl (fun s g =>
    match (piecesOf s r).find? (fun p => p.g == g) with
    | none => s
    | some p =>
      let mine := places.filter (fun x => x.1 == g)
      let lo := patchAddr r.job g ((mine.head?.map (·.2)).getD 0) / 4096 * 4096
      let hi := patchAddr r.job g ((mine.getLast?.map (·.2)).getD 0) + jobRowB r.job
      (List.range ((hi - lo + 4095) / 4096)).foldl (fun s k =>
        if tileFilled s r p (lo + 4096 * k) then sealAll s 2 (tilesOf s (lo + 4096 * k) 4096) else s) s) s

/-- Elements a row measures: those of a G4 row with the zeros that fill its last block (R33, R87). -/
def rowCounts (j : BndJob) : Nat := if jobFmt j = some .g4 then 32 * ((rowElems j + 31) / 32) else rowElems j

/-- The rows of a clip are emitted, as decoded or as zeros (R336, R342). -/
def emitRows (s : State) (r : BndRun) (die : Nat) (good : Bool) (c : Clip) (es : List Byte) (places : List (Nat × Nat)) : State × BndRun :=
  places.zipIdx.foldl (fun (acc : State × BndRun) x =>
    let a := patchAddr r.job x.1.1 x.1.2
    if good then
      let o := rowOut acc.1 r.job die a (rowVals acc.1 r.job c es x.2)
      (devWrite acc.1 2 a (o.bytes.map (·.2)), addDieCounts acc.2 die o.counts)
    else
      (devWrite acc.1 2 a (List.replicate (jobRowB r.job) 0#8),
       addDieCounts acc.2 die (List.replicate (rowCounts r.job) (.none, 0)))) (s, r)

/-- The rows of a clip lie inside their buffers, and its frame store inside its lane's quarter (R340, R349, R355). -/
def clipInside (s : State) (r : BndRun) (d : Nat) (places : List (Nat × Nat)) : Bool :=
  places.all (fun x => decide (4096 + (x.2 + 1) * jobRowB r.job ≤ jobStride r.job)) &&
    decide (Tbl.get 0 r.stores d ≤ storeRoom s)

/-- What stops the decoding of a clip beside its stream: poison met in the stream, or in a tile of the frame store, or a
tile of it that fails (R340, R473). -/
def decodeTrouble (s : State) (c : Clip) (used d n : Nat) : State × Bool :=
  match devPoisoned s c.es used with
  | some w => (memError s (hbmPart w) errUe w false, true)
  | none => match updRead s (laneStore s d) n with
    | .error (.poison w) => (memError s (hbmPart w) errUe w false, true)
    | .error .check => (s, true)
    | .ok _ => (s, false)

/-- What became of a clip. -/
def clipEnd (good grain : Bool) : ClipSt :=
  if good then (if grain then .grain else .done) else if grain then .failedGrain else .failed

def clipDone (s : State) (d : Nat) : State :=
  match s.bnd.run, Tbl.get? s.bnd.lanes d with
  | some r, some q =>
    let c := clipOf (entryAt r q)
    let places := clipPlaces s r q
    let es := devRead s c.es c.len
    let used := usedBytes c es
    let n := Tbl.get 0 r.stores d
    if !clipInside s r d places then finishPend (stopJob s 0) (pendOp 0x0805) .ok []
    else if r.stopping || (devFault s c.es used).isSome then s
    else
      match hostHolds s [(c.es, used), (laneStore s d, n)] (places.map (fun x => (patchAddr r.job x.1 x.2, jobRowB r.job))) with
      | some s => s
      | none =>
        let es := es.take used
        let s := meterVerify (meterRead s none 2 c.es used) none 2 (laneStore s d) n
        let (s, trouble) := decodeTrouble s c used d n
        let good := !trouble && clipDecodes s c es
        let grain := c.codec == 4 && (Config.videoFacts c.codec es).grain
        let x := emitRows s r (d / 16) good c es places
        let r := { x.2 with clips := Tbl.set x.2.clips q (clipEnd good grain), stores := Tbl.del x.2.stores d }
        let s := updBnd (setBndRun x.1 r) (fun b => { b with
          lanes := Tbl.del b.lanes d, cntFail := if good then b.cntFail else satInc 0xFFFF b.cntFail,
          cntGrain := if grain then satInc 0xFF b.cntGrain else b.cntGrain })
        sealRows s r places
  | _, _ => s

def execClipDecodeDone (d : Fin 32) (s : State) : Host.Outcome State Fault Refusal :=
  .next (if clocksRun s.dev then clipDone s d else s)

/-! ### Headers and handoff (R349-R352) -/

/-- A sample record of a header. -/
def sampleRecord (s : State) (r : BndRun) (q : Nat) : List Byte :=
  let bs := entryAt r q
  let c := clipOf bs
  let bad := entryBad s r.job bs
  let g := if bad then (0, 0, 0) else clipGrid r.job c
  let first := ((List.range (q % r.job.b)).map (fun k => rowsAt s r (q / r.job.b * r.job.b + k))).sum
  natBytes 4 q ++ natBytes 4 (sampleAt r.job q) ++ natBytes 4 first ++ natBytes 4 (rowsAt s r q) ++ natBytes 2 g.1 ++
    natBytes 2 g.2.1 ++ natBytes 2 g.2.2 ++
    natBytes 1 (b2n (clipFailed (clipState r q)) + 2 * b2n bad + 4 * b2n (clipGrain (clipState r q))) ++ [0#8] ++ bytesAt c.id 0 8

def headerTile (s : State) (r : BndRun) (p : Piece) : List Byte :=
  let body := natBytes 4 (p.g + 1) ++ natBytes 4 p.mb ++ natBytes 2 p.idx ++ natBytes 2 p.count ++ natBytes 4 p.rows ++
    natBytes 4 p.prows ++ natBytes 4 p.row0 ++ natBytes 4 r.job.epoch.toNat ++ natBytes 4 r.job.step.toNat ++ natBytes 1 r.job.b ++
    List.replicate 31 0#8 ++ (mbPositions r (p.mb - r.job.firstMb)).flatMap (sampleRecord s r)
  body ++ List.replicate (4096 - body.length) 0#8

/-- Every row of the piece is written. -/
def pieceReady (s : State) (r : BndRun) (p : Piece) : Bool :=
  (mbPositions r (p.mb - r.job.firstMb)).all (fun q =>
    clipOver (clipState r q) || (clipPlaces s r q).all (fun x => x.1 != p.g))

/-- The header tile is written whole; the one row of an empty micro-batch is written with it, and not measured (DESIGN
CHOICE, notes/assumptions/66.md). -/
def headerWrite (s : State) (g : Nat) : State :=
  match s.bnd.run with
  | none => s
  | some r =>
    match (piecesOf s r).find? (fun p => p.g == g) with
    | none => s
    | some p =>
      let a := bufAt r.job g
      if r.stopping || decide (r.claimed ≤ g) || r.written.contains g || !pieceReady s r p || (devFault s a 4096).isSome then s
      else
        match hostHolds s [] ((a, 4096) :: (if p.rows = 0 then [(a + 4096, jobRowB r.job)] else [])) with
        | some s => s
        | none =>
          let s := if p.rows = 0 then sealWhole (devWrite s 2 (a + 4096) (List.replicate (jobRowB r.job) 0#8)) 2 (a + 4096) (jobRowB r.job) else s
          let s := sealWhole (devWrite s 2 a (headerTile s r p)) 2 a 4096
          setBndRun s { r with written := r.written ++ [g] }

def execPieceHeaderWrite (g : Nat) (s : State) : Host.Outcome State Fault Refusal :=
  .next (if clocksRun s.dev then headerWrite s g else s)

/-- The next piece in order is handed off: span and loop registers, then the token (R351). -/
def pieceHandoff (s : State) : State :=
  match s.bnd.run with
  | none => s
  | some r =>
    match (piecesOf s r).find? (fun p => p.g == r.handed) with
    | none => s
    | some p =>
      if r.stopping || !r.written.contains p.g || (r.handed != 0 && !r.released) || unitHeld s .bindery then s
      else
        let s := setSpanReg s r.job.sreg p.prows
        let s := if r.job.loadLoop ∧ p.idx = 0 then setLoopReg s false r.job.lreg (BitVec.ofNat 32 (p.count - 1)) else s
        let s := sendPost s .bindery false r.job.token
        updBnd (setBndRun s { r with handed := r.handed + 1, released := false }) (fun b =>
          { b with mbCount := if p.idx = 0 then (b.mbCount + 1) % 2 ^ 32 else b.mbCount })

def execPieceHandoff (s : State) : Host.Outcome State Fault Refusal := .next (if clocksRun s.dev then pieceHandoff s else s)

/-! ### Fences (R355) -/

/-- A partition leaves ACTIVE: its lanes' clips restart elsewhere, and a job whose buffers lie in it stops. -/
def fenceBindery (s : State) (p : Nat) : State :=
  match s.bnd.run with
  | none => s
  | some r =>
    if hbmPart r.job.buf = p then finishPend (stopJob s 2) (pendOp 0x0805) .ok []
    else
      let lost := s.bnd.lanes.filter (fun e => lanePart e.1 == p)
      updBnd s (fun b => { b with lanes := b.lanes.filter (fun e => lanePart e.1 != p),
                                  run := some { r with
                                    clips := lost.foldl (fun t e => Tbl.set t e.2 .waiting) r.clips,
                                    stores := r.stores.filter (fun e => lanePart e.1 != p) } })

end Sys2Proof.Machine
end

