-- ==== Sys2Proof/Machine/Fill.lean ====
section
/-!
DEFINITION. The fill stream: issue of its measures, its watchdog, and the reclaim of lent cores
(spec/09_caller_scoreboard_fill.md R197-R202).
-/

namespace Sys2Proof.Machine

/-- Every core of a measure is lent and not being reclaimed (R199). -/
def coresLent (s : State) (w : MeasW) : Bool :=
  mCtrl w || (namedCores w).all (fun c => s.fill.lent.testBit c && !s.fill.reclaiming.testBit c)

/-- A control operation the fill context honours (R198). -/
def fillOpOk (op : Nat) : Bool := op ≤ 4 || op == 7

/-- The core actions of a fill measure are SETs on sets the fill context owns (R198). -/
def fillCoreOk (s : State) (a : BusAct) : Bool :=
  match a.unit with
  | .core c => (match coreEntryOf c a.entry with
    | some (some (.set d)) => (match (setOf s d.set).cfg with
      | some g => g.fill
      | none => false)
    | _ => false)
  | _ => true

/-- A fill array action opens a tile of a code the fill stream may not use (R85). -/
def fillOpens (a : BusAct) : Bool :=
  match a.unit, arrayEntryOn a with
  | .array _, some x => passes x && !continues x && x.acc != .single
  | _, _ => false

/-- A fill measure breaks R157 or R198, or opens another tile than SINGLE (R85; notes/assumptions/15.md); entries of a loading
bank are not looked at (R176). -/
def fillDecodeBad (s : State) (m : Meas) : Bool :=
  !measureOk m.w || mRep m.w != 0 || mElastic m.w || mLend m.w != 0 || (mCtrl m.w && !fillOpOk (mOp m.w)) ||
    (!bankLoading s m.bank && !(measureActs s m.w m.bank true 0).all (fun a => fillCoreOk s a && !fillOpens a))

/-- The fill context stops with a bit of `CAL_ERR`, which the rule of the failure names (R164, R168, R171;
notes/assumptions/15.md). -/
def fillStopErr (s : State) (b : Nat) : State :=
  raiseVector { s with cal := { s.cal with err := setBit s.cal.err b }, fill := { s.fill with run := false } } 16

/-- A partition of the window or of a lent core has left ACTIVE (R422). -/
def fillFenced (s : State) : Bool :=
  !partActive s (hbmPart s.fill.base) || (maskCores s.fill.lent).any (fun c => !partActive s c)

def fillFlow (s : State) (k : Nat) : State := { s with fill := { s.fill with pc := k } }

/-- Class 7 is never granted where the fill image lies, so its fetches wait without fault (R145, R198). -/
def fillShut (s : State) : Bool := classShut (memOf s (hbmPart s.fill.img)).regs 7

/-- The action of a fill control measure at issue (R168, R198). -/
def fillControl (s : State) (m : Meas) : State :=
  match mOp m.w with
  | 0x01 => { s with fill := { s.fill with halting := true } }
  | 0x02 => fillFlow s (mArg32 m.w)
  | 0x03 =>
    let c := loopOf s true (mArg8 m.w)
    if c = 0 then s else fillFlow (setLoopReg s true (mArg8 m.w) (c - 1)) (mArg32 m.w)
  | 0x04 => setLoopReg s true (mArg8 m.w) (BitVec.ofNat 32 (mArg32 m.w))
  | _ => s

/-- The fill measure due, fetched from the image in the window; it keeps the bank of its fetch (R175, R177). -/
def fillMeas (s : State) : Meas :=
  match s.fill.fetched with
  | some m => m
  | none =>
    measureFrom s s.fill.img s.fill.pc

/-- The fill measure due is fetched, its tile read whole under class 7 (R148, R198). -/
def fillFetch (s : State) : State :=
  match s.fill.fetched with
  | some _ => s
  | none => apart { s with fill := { s.fill with fetched := some (fillMeas s) } } 7
      (fun s => meterVerify s none 7 (measureAddr s.fill.img s.fill.pc / 4096 * 4096) 4096)

def fillIssue (s : State) (m : Meas) : State :=
  let span := if mSpan m.w = 0 then 65536 else mSpan m.w
  let acts := measureActs s m.w m.bank true span
  let s := entriesCorrected (consumeWaits s true m.w) acts
  let s := { s with fill := { s.fill with pc := m.idx + 1, current := some m, fetched := none,
                                          post := if mPostEn m.w then some (mPostTok m.w) else none } }
  let s := if mCtrl m.w then fillControl s m else s
  let s := { s with bus := s.bus ++ acts.filter (fun a => !actPoisoned s a) }
  poisonedActs s (acts.filter (actPoisoned s))

/-- The due fill measure is held back by a wait, a loading bank or a busy unit. -/
def fillHeldBack (s : State) (m : Meas) : Bool :=
  waitsUnmet s true m.w != 0 || bankLoading s m.bank || (busyUnit s (measureActs s m.w m.bank true 0)).isSome

/-- A fill fetch that failed leaves nothing fetched. -/
def fillRefetch (s : State) : State := { s with fill := { s.fill with fetched := none } }

/-- The tests of the due fill measure in their order, and its issue (R157, R198, R199). -/
def fillDue (s : State) (m : Meas) : State :=
  match m.fetched with
  | .check => fillStop (fillRefetch s) 3
  | .poisoned =>
    fillStop (memError (fillRefetch s) (hbmPart s.fill.img) errUe (poisonAddr s (measureAddr s.fill.img m.idx)) false) 3
  | .fenced => fillStop (fillRefetch s) 1
  | .good =>
    if fillDecodeBad s m then fillStop s 0
    else if measureAbsent s m.w then fillStopErr s 2
    else if !bankLoading s m.bank && measureFillIdx s m.w m.bank true then fillStopErr s 4
    else if !coresLent s m.w || fillHeldBack s m then s
    else if mCtrl m.w ∧ mOp m.w = 0x07 ∧
        bankVersion s ((mArg8 m.w == 1) != s.cal.bankxor) ≠ BitVec.ofNat 32 (mArg32 m.w) then fillStopErr s 8
    else fillIssue s m

/-- The issue test of the due fill measure, once it is fetched. -/
def fillTest (s : State) : State :=
  if s.fill.imgCount ≤ s.fill.pc then fillStopErr s 6
  else if s.fill.fetched.isNone && fillShut s then s
  else
    let blocked := if s.fill.fetched.isSome then [] else trackedDev s (measureAddr s.fill.img s.fill.pc / 4096 * 4096) 4096 false
    if !blocked.isEmpty then sendSnoops s blocked false
    else fillDue (fillFetch s) (fillMeas s)

/-- The span of the fill measure before has ended: its post is counted, and a HALT stops the context (R202). -/
def fillSpanEnd (s : State) : State :=
  let s := { s with fill := { s.fill with current := none } }
  let s := match s.fill.post with
    | some t => ownPost { s with fill := { s.fill with post := none } } true t
    | none => s
  if s.fill.halting then raiseVector { s with fill := { s.fill with halting := false, run := false } } 16 else s

/-- A fill measure issues once the one before has run its span and its own conditions are met (R198, R199). -/
def fillMeasureIssue (s : State) : State :=
  if !s.fill.run || s.fill.stopping || gated s || spanStop s true then s
  else if fillFenced s then fillStop s 1
  else if s.bus.any (fun b => b.fill) || !(match s.fill.current with | some m => coresLent s m.w | none => true) then s
  else
    let s := fillSpanEnd s
    if s.fill.run then fillTest s else s

def execFillMeasureIssue (s : State) : Host.Outcome State Fault Refusal := .next (clocked s (fillMeasureIssue s))

/-- The fill stream stands: its arrays hold it up within a span, or its due measure is not fetched or is held back, its cores
being lent (R185, R202). -/
def fillStands (s : State) : Bool :=
  let lent := match s.fill.current with | some m => coresLent s m.w | none => true
  lent && (spanStop s true ||
    (decide (s.fill.pc < s.fill.imgCount) && match s.fill.fetched with
      | none => true
      | some m => coresLent s m.w && fillHeldBack s m))

/-- A stop of the fill stream outlasts TIMEOUT; time spent waiting for a core is not timed (R193, R202). -/
def fillBite (s : State) : State :=
  if s.fill.run ∧ fillStands s ∧ !gated s then
    let s := { s with cal := { s.cal with wdgStat := setBit s.cal.wdgStat 30 } }
    fillStop (recordBite s 2 0) 4
  else s

def execFillWatchdogBite (s : State) : Host.Outcome State Fault Refusal := .next (clocked s (fillBite s))

/-! ### Reclaim (R200, R201) -/

/-- The next primary measure, where it is at hand, lends core `c`; one of a replayed segment is at hand in the reprise buffer
as another is in the fetch queue (R200; notes/assumptions/69.md). -/
def nextLends (s : State) (c : Nat) : Bool :=
  let next := if replaying s then (s.cal.delivered ++ s.cal.replay).head? else s.cal.queue.head?
  match next with
  | some m => m.fetched == .good && (mLend m.w).testBit c
  | none => false

/-- Reclaim of core `c` begins where the next measure does not lend it on (R200). -/
def reclaimStart (s : State) (c : Nat) : State :=
  if s.cal.run && s.fill.lent.testBit c && !s.fill.reclaiming.testBit c && !nextLends s c then
    suspendCore { s with fill := { s.fill with reclaiming := s.fill.reclaiming ||| (1 <<< c) } } c
  else s

def execReclaimStart (c : Fin 8) (s : State) : Host.Outcome State Fault Refusal := .next (running s (reclaimStart s c))

/-- A load that the fill stream began is complete within the 64 cycles of a reclaim (R52, R200). -/
def fillLoadsEnd (s : State) (e : Nat) : State :=
  ((List.range 8).filter (fun a =>
    ((engineOf s e).acts ++ (engineOf s e).suspended).any (fun t => t.fill && t.loads.testBit a))).foldl (fun s a => weightLoaded s e a) s

def reclaimComplete (s : State) (c : Nat) : State :=
  if s.fill.reclaiming.testBit c then
    let s := (engineList c).foldl fillLoadsEnd s
    { s with fill := { s.fill with reclaiming := s.fill.reclaiming &&& (255 ^^^ (1 <<< c)),
                                   lent := s.fill.lent &&& (255 ^^^ (1 <<< c)) } }
  else s

def execReclaimComplete (c : Fin 8) (s : State) : Host.Outcome State Fault Refusal := .next (running s (reclaimComplete s c))

end Sys2Proof.Machine
end

