-- ==== Sys2Proof/Machine/Power.lean ====
section
/-!
DEFINITION. The power manager: measurement, trims, boost, gates, the brake, thermal control and the stop of every clock
(spec/19_power_thermal.md, spec/22_package_signals_clocks.md R452, R453, R456).
-/

namespace Sys2Proof.Machine

/-! ### Limits and views (R401, R402, R408, R415) -/

/-- L (R402). -/
def limitW (s : State) : Nat := min s.pwr.cap 2000

/-- L for the peak test, the former L while a lowered cap is being met (R402). -/
def limitPeak (s : State) : Nat := (s.pwr.lims.head?.map (·.2)).getD (limitW s)

def meanW (f : Reading → Nat) (rs : List Reading) : Nat := if rs.isEmpty then 0 else (rs.map f).sum / rs.length
def totalW (r : Reading) : Nat := r.compute + r.memory + r.links + r.unclassed

def floorW (s : State) : Nat := if s.pwr.pavane then 431 else 260
def floorPoint (s : State) : Nat := if s.pwr.pavane then 1 else 7

/-- The floor configuration is in force (R408). -/
def atFloor (s : State) : Bool :=
  let c := s.pwr.cfg
  c.duty == 1 && c.scale == 16 && c.vc6p && c.half && (c.point == 7 || (s.pwr.pavane && c.point == 1))

/-- Voltage code by POINT (R452). -/
def vidCode (p : Nat) : Nat := [40, 30, 24, 18, 12, 6, 2, 0].getD p 0

def updPwr (s : State) (f : Pwr → Pwr) : State := { s with pwr := f s.pwr }

/-- The outputs are driven (R450). -/
def vidDriven (s : State) : Bool := clocksRun s.dev && !s.devReset

/-- A code goes out on `VID[5:0]`, where the bus is driven (R453). -/
def sendVid (s : State) (code : Nat) : State :=
  if vidDriven s ∧ s.pwr.vid ≠ code then { updPwr s (fun p => { p with vid := code }) with out := .vid code :: s.out } else s

/-- Transmitters halve their direction, or take all lanes again, by a marker on every link that is UP (R403). -/
def markHalf (s : State) (half : Bool) : State :=
  if s.pwr.cfg.half = half then s
  else { s with out := ((List.range 12).filter (fun n => (linkOf s n).state == .up)).map (Out.halve · half) ++ s.out }

/-- The configuration to reach: a rising voltage is asked for first (R400, R453), halving is told to the links, and VC6 sends
again once it is no longer paused (R238, R403). While `DEV_RESET_N` floats the bus the point stays (R453). -/
def setPwrCfg (s : State) (c : PwrConfig) : State :=
  let c := if s.devReset then { c with point := s.pwr.cfg.point } else c
  let freed := s.pwr.cfg.vc6p && !c.vc6p
  let s := updPwr (markHalf s c.half) (fun p => { p with cfg := c })
  let s := if s.pwr.vid < vidCode c.point then sendVid s (vidCode c.point) else s
  if freed then (List.range 12).foldl pump s else s

/-- A change of operating point completes; a voltage that is to fall is told now (R400, R453). -/
def pointDone (s : State) : State :=
  let s := updPwr s (fun p => { p with now := p.cfg.point })
  sendVid s (vidCode s.pwr.now)

def execOperatingPointChangeDone (s : State) : Host.Outcome State Fault Refusal := .next (clocked s (pointDone s))

/-- The engine clock comes to POINT 1 with the voltage of code 30, before the bus is released or the start begins (R437,
R453, R458). -/
def pointOne (s : State) : State :=
  let s := updPwr (pointDone s) (fun p => { p with now := 1, cfg := { p.cfg with point := 1 } })
  updPwr (sendVid s (vidCode 1)) (fun p => { p with vid := vidCode 1 })

/-! ### Samples and peak gates (R401, R402) -/

/-- One 10 µs sample; above 1.2 L a peak gate begins, whose DUTY of 8 holds until the next control step (R402). -/
def powerSample (s : State) (r : Reading) : State :=
  if !clocksRun s.dev then s
  else
    let peak := 12 * limitPeak s < 10 * totalW r
    let rs := (r :: s.pwr.samples).take 100
    updPwr s (fun p => { p with
      samples := rs, mean := meanW totalW rs,
      lims := (p.lims.map (fun l => (l.1 - 1, l.2))).filter (fun l => l.1 != 0),
      gate := if peak ∧ p.gate ≠ .brake then .peak else p.gate, peak := p.peak || peak,
      sticky := if peak then setBit p.sticky 20 else p.sticky })

def execPowerSample (r : Reading) (s : State) : Host.Outcome State Fault Refusal := .next (powerSample s r)

/-! ### Trims (R403, R407) -/

/-- The next step of a class: its kind and the configuration after it. -/
def trimStep (pavane : Bool) (cls : Nat) (c : PwrConfig) : Option (Nat × PwrConfig) :=
  if cls = 0 then
    if !pavane && decide (c.point < 7) then some (0, { c with point := c.point + 1 })
    else if 1 < c.duty then some (3, { c with duty := c.duty - 1 })
    else none
  else if cls = 1 then (if 16 < c.scale then some (1, { c with scale := c.scale - 16 }) else none)
  else if !c.vc6p then some (2, { c with vc6p := true })
  else if !c.half then some (2, { c with half := true })
  else none

/-- The classes by ORDER, lowest priority first. -/
def orderOf (w : Nat) : List Nat := [w % 4, w / 4 % 4, w / 16 % 4]

/-- One more trim in the lowest-priority class that has a step left. -/
def trimOnce (pavane : Bool) (order : Nat) (x : PwrConfig × List Nat) : PwrConfig × List Nat :=
  match (orderOf order).findSome? (fun cls => trimStep pavane cls x.1) with
  | some (kind, c) => (c, kind :: x.2)
  | none => x

/-- The configuration with a trim undone. -/
def untrim (kind : Nat) (c : PwrConfig) : PwrConfig :=
  match kind with
  | 0 => { c with point := c.point - 1 }
  | 1 => { c with scale := c.scale + 16 }
  | 2 => if c.half then { c with half := false } else { c with vc6p := false }
  | _ => { c with duty := c.duty + 1 }

/-- Every trim taken: the floor configuration (R408). -/
def trimAll (pavane : Bool) (order : Nat) : Nat → PwrConfig × List Nat → PwrConfig × List Nat
  | 0, x => x
  | n + 1, x => trimAll pavane order n (trimOnce pavane order x)

/-- The configuration without boost. -/
def unboost (c : PwrConfig) : PwrConfig := { c with point := max c.point 1 }

def floorOf (s : State) (pavane : Bool) : PwrConfig × List Nat :=
  trimAll pavane s.pwr.order 64 (unboost s.pwr.cfg, s.pwr.trims)

def setTrims (s : State) (x : PwrConfig × List Nat) : State := updPwr (setPwrCfg s x.1) (fun p => { p with trims := x.2 })

/-- Boost may be granted (R404). -/
def boostOk (s : State) : Bool :=
  s.pwr.trims.isEmpty && !s.pwr.pavane && decide (s.pwr.temp < 90) &&
    decide ((100 * s.pwr.mean + 37 * meanW (·.compute) s.pwr.samples : Int) < 100 * ((limitW s : Int) - 20))

/-- The control step of every millisecond (R402, R403, R404, R409, R411). -/
def controlStep (s : State) : State :=
  if !clocksRun s.dev then s
  else
    let s := updPwr s (fun p => { p with gate := if p.gate = .peak then .none else p.gate, peak := false })
    if s.pwr.brake || s.pwr.unmet then s
    else if decide (95 ≤ s.pwr.temp) || decide ((limitW s : Int) - 20 < s.pwr.mean) then
      if s.pwr.cfg.point = 0 then setPwrCfg s { s.pwr.cfg with point := 1 }
      else setTrims s (trimOnce s.pwr.pavane s.pwr.order (s.pwr.cfg, s.pwr.trims))
    else if !s.pwr.hot && decide ((s.pwr.mean : Int) < (limitW s : Int) - 150) then
      match s.pwr.trims with
      | k :: rest => setTrims s (untrim k s.pwr.cfg, rest)
      | [] => if boostOk s && s.pwr.cfg.point == 1 then setPwrCfg s { s.pwr.cfg with point := 0 } else s
    else s

def execControlStep (s : State) : Host.Outcome State Fault Refusal := .next (controlStep s)

/-! ### Duty gating (R405, R406) -/

/-- Gated cycles have passed; the gate ends where the debt has fallen below DUTY (R405). -/
def dutyGateEnd (s : State) (cycles : Nat) : State :=
  if s.pwr.gate = .none then s
  else
    let d := s.pwr.debt - (gateDuty s * cycles : Nat)
    updPwr s (fun p => { p with debt := d, gate := if d < gateDuty s then .none else p.gate })

def execDutyGateEnd (cycles : Nat) (s : State) : Host.Outcome State Fault Refusal := .next (clocked s (dutyGateEnd s cycles))

/-! ### The cap and Pavane mode (R407, R409, R396) -/

/-- The cap against the floor in force: below it the floor configuration, with UNMET, SHORT and vector 22; else neither
(R409). -/
def floorTest (s : State) : State :=
  if s.pwr.cap < floorW s then
    let s := if s.pwr.brake then s else setTrims s (floorOf s s.pwr.pavane)
    raiseVector (updPwr s (fun p => { p with unmet := true, short := floorW s - p.cap })) 22
  else updPwr s (fun p => { p with unmet := false, short := 0 })

/-- A cap accepted: a former L still governs for 10 ms after a lowering (R402), and a cap below the floor is unmet (R409). -/
def setCap (s : State) (cap : Nat) : State :=
  let l := min cap 2000
  let lims := s.pwr.lims.filter (fun x => decide (l < x.2)) ++ (if l < limitW s then [(1000, limitW s)] else [])
  let s := floorTest (updPwr s (fun p => { p with cap := cap, lims := lims }))
  if s.pwr.unmet then updPwr s (fun p => { p with sticky := setBit p.sticky 21 }) else s

/-- A configuration as Pavane mode holds it: POINT 1, without the trims that moved the point (R407). -/
def pavaneCfg (x : PwrConfig × List Nat) : PwrConfig × List Nat := ({ x.1 with point := 1 }, x.2.filter (· != 0))

/-- Pavane mode set: the point it holds, and the cap against the floor that then applies (R407-R409). -/
def setPavane (s : State) (on : Bool) : State :=
  let was := s.pwr.pavane
  let s := updPwr s (fun p => { p with pavane := on, before := if on then p.before.map pavaneCfg else p.before })
  let s := if on && !s.pwr.brake then setTrims s (pavaneCfg (s.pwr.cfg, s.pwr.trims)) else s
  if was ≠ on ∧ (s.pwr.cap < floorW s || s.pwr.unmet) then floorTest s else s

/-! ### The brake (R410) -/

def brakeOn (s : State) : State :=
  let was := (unboost s.pwr.cfg, s.pwr.trims)
  let s := updPwr s (fun p => { p with before := some was, gate := .brake, sticky := setBit p.sticky 22 })
  raiseVector (setTrims s (floorOf s false)) 22

/-- `PWR_BRAKE_N` falls; the comparator acts in BOOTING, READY and RUNNING, and a start finds the input held (R413). -/
def brakeAssert (s : State) : State :=
  if s.pwr.brake then s
  else
    let s := updPwr s (fun p => { p with brake := true })
    if clocksRun s.dev then brakeOn s else s

def execPwrBrakeAssert (s : State) : Host.Outcome State Fault Refusal := .next (brakeAssert s)

/-- The configuration before the brake returns; below the floor a cap keeps the floor. -/
def brakeRelease (s : State) : State :=
  if !s.pwr.brake then s
  else
    let s := updPwr s (fun p => { p with brake := false, gate := if p.gate = .brake then .none else p.gate })
    match s.pwr.before with
    | some x =>
      let s := updPwr s (fun p => { p with before := none })
      if s.pwr.unmet then setTrims s (trimAll s.pwr.pavane s.pwr.order 64 x) else setTrims s x
    | none => s

def execPwrBrakeRelease (s : State) : Host.Outcome State Fault Refusal := .next (brakeRelease s)

/-! ### Stopping every clock (R412, R456) -/

/-- Lines held in a partition's tip-in buffer go to HBM and the fence completes (R142). -/
def tipFlushAll (s : State) (p : Nat) : State :=
  let s := ((memOf s p).tip.lines).foldl (fun s l => tipFlush s l.line) s
  updTip s p (fun t => { t with fencing := false, lines := t.lines.map (fun l => { l with covered := false }) })

/-- The device halts: no further measure, buffers fenced, HBM in self-refresh, clocks stopped (R412, R439). -/
def haltDevice (s : State) (cause : Nat) : State :=
  let booting := s.dev = .booting
  let s := (List.range 8).foldl tipFlushAll s
  { s with dev := .halted, cal := { s.cal with run := false }, fill := { s.fill with run := false },
           sec := { s.sec with cause := if booting then cause else s.sec.cause } }

/-- At 95 °C restores end until the junction falls below 92 °C (R411). -/
def hotAt (temp : Nat) (hot : Bool) : Bool := if 95 ≤ temp then true else if temp < 92 then false else hot

/-- A junction at or above 100 °C sets THERM, with vector 22, where the chip runs (R411). -/
def hotMarks (s : State) : State :=
  if 100 ≤ s.pwr.temp ∧ clocksRun s.dev then raiseVector (updPwr s (fun p => { p with sticky := setBit p.sticky 23 })) 22 else s

/-- Levels of the inputs (R448). -/
def setLevels (s : State) (lv : Levels) : State :=
  hotMarks (updPwr s (fun p => { p with coolant := lv.coolant, good := lv.rails, temp := lv.junction, hot := hotAt lv.junction p.hot }))

/-- Coolant and every power-good are high (R414). -/
def levelsOk (s : State) : Bool := s.pwr.coolant && s.pwr.good == 0x3FFF#14

/-! ### Thermal control (R411) -/

def thermal (s : State) (temp sensor : Nat) : State :=
  updPwr s (fun p => { p with temp := temp,
                              sensor := sensor,
                              shownTemp := temp,
                              hot := hotAt temp p.hot })

def thermalThreshold (s : State) (temp sensor : Nat) : State :=
  if !clocksRun s.dev then s
  else hotMarks (thermal s temp sensor)

def execThermalThreshold (temp : Nat) (sensor : Fin 20) (s : State) : Host.Outcome State Fault Refusal :=
  .next (thermalThreshold s temp sensor)

def thermalTrip (s : State) (temp sensor : Nat) : State :=
  if temp < 105 ∨ !clocksRun s.dev then s
  else
    let s := thermalThreshold s temp sensor
    haltDevice (updPwr s (fun p => { p with thermtrip := true })) 1

def execThermalTrip (temp : Nat) (sensor : Fin 20) (s : State) : Host.Outcome State Fault Refusal :=
  .next (thermalTrip s temp sensor)

/-- `COOLANT_OK` falls (R412). -/
def coolantLoss (s : State) : State :=
  if s.dev = .off then s
  else
    let s := updPwr s (fun p => { p with coolant := false })
    if clocksRun s.dev then haltDevice s 1 else s

def execCoolantLoss (s : State) : Host.Outcome State Fault Refusal := .next (coolantLoss s)

/-! ### The reference clock (R413, R456) -/

/-- `REFCLK100` stops: NOREF, and the halt of R456. With always-on power absent nothing records it, and the domain finds it
missing when its power comes (R413). -/
def refclkStop (s : State) : State :=
  let s := updPwr s (fun p => { p with refclk := false, aonStat := if s.dev = .off then p.aonStat else setBit p.aonStat 2 })
  if clocksRun s.dev then haltDevice s 1 else s

def execRefclkInterrupt (s : State) : Host.Outcome State Fault Refusal := .next (refclkStop s)

def refclkReturn (s : State) : State := updPwr s (fun p => { p with refclk := true })

def execRefclkReturn (s : State) : Host.Outcome State Fault Refusal := .next (refclkReturn s)

/-! ### Output pins (R412, R437, R450) -/

/-- `DEV_READY`, `ALERT_N` and `THERMTRIP_N` as levels, `none` where the output floats. -/
def outputsDriven (s : State) : Bool := s.dev != .off && !s.devReset
def devReady (s : State) : Option Bool :=
  pinOut s 1 (if outputsDriven s then some (s.dev == .ready || s.dev == .running) else none)
def alertN (s : State) : Option Bool :=
  pinOut s 2 (if outputsDriven s then some (!(decide (100 ≤ s.pwr.temp) || s.pwr.unmet || s.pwr.latch != 0)) else none)
def thermtripN (s : State) : Option Bool := pinOut s 3 (if outputsDriven s then some (!s.pwr.thermtrip) else none)

end Sys2Proof.Machine
end

