-- ==== Sys2Proof/Machine/Memory.lean ====
section
/-!
DEFINITION. The tip-in buffer, the bandwidth regulators and the global interleave as commands
(spec/07_memory_system.md R134-R145).
-/

namespace Sys2Proof.Machine

/-! ### The tip-in buffer (R139-R142) -/

def tipOf (s : State) (p : Nat) : Tip := (memOf s p).tip

/-- The device line number of line `line` of partition `p`'s window. -/
def lineIn (p line : Nat) : Nat := p * (hbmWindow / 256) + line

/-- An address inside a window lies in usable HBM of a partition that serves requests (R129, R130, R420). -/
def windowOpen (s : State) (p off : Nat) : Bool := partActive s p && decide (off < sheetOffset)

def markLine (t : Tip) (line : Nat) (f : TipLine → TipLine) : Tip :=
  { t with lines := t.lines.map (fun l => if l.line = line then f l else l) }

/-- The line begins to flush. -/
def startFlush (t : Tip) (line : Nat) : Tip := markLine t line (fun l => { l with flushing := true })

/-- A partial write taken by the buffer where it can be; `none` where it waits for a flush, with the buffer as it then
stands; `fresh` tells a write that has not waited yet (R140). -/
def tipTake (fresh : Bool) (t : Tip) (addr : Nat) (data : List Byte) (cls : Nat) : Tip × Bool :=
  let line := addr / 256
  match t.lines.find? (fun l => l.line == line) with
  | some l =>
    if l.flushing then (t, false)
    else
      let t := tipMerge t line (addr % 256) data cls
      (if (t.lines.any (fun l => l.line == line && l.data.length == 256)) then startFlush t line else t, true)
  | none =>
    if t.lines.length < 512 then
      let t := tipMerge t line (addr % 256) data cls
      (if data.length = 256 then startFlush t line else t, true)
    else
      match t.lines.find? (fun l => !l.flushing) with
      | some l => (if fresh then startFlush t l.line else t, false)
      | none => (t, false)

def tipWait (s : State) (p : Nat) (w : TipWait) : State := updTip s p (fun t => { t with waiting := t.waiting ++ [w] })

/-- A write of the buffer's line waits behind one that waits already, in the order of issue (R138). -/
def lineWaits (s : State) (p line : Nat) : Bool := (tipOf s p).waiting.any (fun w => w.addr / 256 == line)

/-- A partial write, or a whole-line write that waited, is taken where it can be (R139, R140). -/
def takeWait (s : State) (p : Nat) (fresh : Bool) (w : TipWait) : State :=
  if lineWaits s p (w.addr / 256) then tipWait s p w
  else if w.bytes.length = 256 then
    if (tipOf s p).lines.any (fun l => l.line == w.addr / 256 && l.flushing) then tipWait s p w
    else writeNow s w.cls w.addr w.bytes
  else
    let r := tipTake fresh (tipOf s p) w.addr w.bytes w.cls
    let s := updTip s p (fun _ => r.1)
    if r.2 then s else tipWait s p w

/-- Waiting writes are taken in their order as far as lines are free (R139, R140). -/
def tipRetry (s : State) (p : Nat) : State :=
  (tipOf s p).waiting.foldl (fun s w => takeWait s p false w) (updTip s p (fun t => { t with waiting := [] }))

/-- A write inside a partition's window reaches the buffer or the controller: it waits behind a flush of its line, and
one that frees a held line lets waiting writes go on (R139, R140); one for the checksum sheet is discarded (R130). -/
def windowWrite (s : State) (p off : Nat) (data : List Byte) (cls : Nat) : State :=
  if !windowOpen s p off then
    (if partActive s p then memError s p errSheet (p * hbmWindow + off) false else s)
  else
    let s' := takeWait s p true ⟨p * hbmWindow + off, data, cls⟩
    if data.length = 256 ∧ tipHeld (tipOf s p) (lineIn p (off / 256)) then tipRetry s' p else s'

/-- A whole-line write (R139). -/
def wholeLine (s : State) (p line : Nat) (data : List Byte) (cls : Nat) : State := windowWrite s p (line * 256) (data.take 256) cls

def execWholeLineWrite (p : Fin 8) (line : Nat) (data : LineWrite) (s : State) : Host.Outcome State Fault Refusal :=
  .next (if clocksRun s.dev ∧ data.bytes.length = 256 then wholeLine s p line data.bytes data.cls else s)

/-- A partial write of one line (R140). -/
def partialWrite (s : State) (p off : Nat) (data : List Byte) (cls : Nat) : State :=
  windowWrite s p off (data.take (256 - off % 256)) cls

def execPartialWrite (p : Fin 8) (addr : Nat) (data : List Byte) (cls : Fin 8) (s : State) : Host.Outcome State Fault Refusal :=
  .next (if clocksRun s.dev then partialWrite s p addr data cls else s)

/-- A line idle for 2 µs begins to flush (R141). -/
def idleFlush (s : State) (p line : Nat) : State := updTip s p (fun t => startFlush t (lineIn p line))

def execTipinIdleFlush (p : Fin 8) (line : Nat) (s : State) : Host.Outcome State Fault Refusal :=
  .next (if clocksRun s.dev then idleFlush s p line else s)

/-- A flushing line's write is accepted: it is in HBM, the line free, and waiting writes go on (R141, R140). -/
def lineFreed (s : State) (p line : Nat) : State :=
  match tipLineOf s (lineIn p line) with
  | some l =>
    if l.flushing then
      tipRetry (tipFlush s (lineIn p line)) p
    else s
  | none => s

def execTipinLineFreed (p : Fin 8) (line : Nat) (s : State) : Host.Outcome State Fault Refusal :=
  .next (if clocksRun s.dev then lineFreed s p line else s)

/-- A fence starts, or covers the lines now held as well: they begin to flush (R142). -/
def tipFenceStart (s : State) (p : Nat) : State :=
  updTip s p (fun t => { t with fencing := true,
                                lines := t.lines.map (fun l => { l with covered := true, flushing := true }) })

def execTipFenceGo (p : Fin 8) (v : W32) (s : State) : Host.Outcome State Fault Refusal :=
  .next (if softUp s ∧ bitAt v 0 then tipFenceStart s p else s)

/-- The fence completes once no line it covers is held (R142). -/
def tipFenceDone (s : State) (p : Nat) : State :=
  updTip s p (fun t => if t.lines.any (·.covered) then t else { t with fencing := false })

def execTipinFenceComplete (p : Fin 8) (s : State) : Host.Outcome State Fault Refusal :=
  .next (if clocksRun s.dev then tipFenceDone s p else s)

/-! ### Regulators (R133, R143-R145) -/

def updRegs (s : State) (p : Nat) (f : Regs → Regs) : State :=
  let m := memOf s p
  setMem s p { m with regs := f m.regs }

/-- Classes in rotating order from `from_` on. -/
def rotation (from_ : Nat) : List Nat := (List.range 8).map (fun i => (from_ + i) % 8)

/-- Occupancy of a sequence of `n` bytes, in whole atoms (R133). -/
def occupancy (n : Nat) : Nat := let l := (n + 31) / 32 * 32; if l < 2048 then l + 192 else l

/-- One grant among the sequences that wait: the oldest of the next eligible class is charged its occupancy, else the
oldest of the next class that borrows takes the time (R144). A class with neither share nor borrowing is never granted
(R145). -/
def grantOne (r : Regs) : Regs :=
  let waits (c : Nat) : Bool := r.reqs.any (fun q => q.cls == c)
  let take (c : Nat) : List HbmReq := r.reqs.eraseP (fun q => q.cls == c)
  match (rotation r.rotate).find? (fun c => waits c && decide (0 ≤ bucketOf r c) && !classShut r c) with
  | some c =>
    let n := ((r.reqs.find? (fun q => q.cls == c)).map (fun q => q.hi - q.lo)).getD 0
    { r with reqs := take c, bucket := Tbl.set r.bucket c (bucketOf r c - (256 * occupancy n : Nat)), rotate := (c + 1) % 8 }
  | none =>
    match (rotation r.borrowRotate).find? (fun c => waits c && bitAt (classOf r c) 31) with
    | some c => { r with reqs := take c, borrowRotate := (c + 1) % 8 }
    | none => r

/-- Accesses that arrive with a grant wait behind those already waiting (R143). -/
def askAll (reqs : List HbmAccess) (r : Regs) : Regs :=
  { r with reqs := reqs.foldl (fun rs q => addTraffic none q.cls q.write q.off q.len rs) r.reqs }

def execHbmRequestGrant (p : Fin 8) (reqs : List HbmAccess) (s : State) : Host.Outcome State Fault Refusal :=
  .next (if clocksRun s.dev ∧ partActive s p then updRegs s p (fun r => grantOne (askAll reqs r)) else s)

/-- The fields of a class register. -/
def classWord (v : W32) : W32 := v &&& 0x80FF00FF#32

/-- A write is refused: shares above 256, no burst, or no share and no borrowing outside class 7 (R145). -/
def classBad (r : Regs) (c : Nat) (v : W32) : Bool :=
  let share (k : Nat) : Nat := if k = c then bits v 7 0 else bits (classOf r k) 7 0
  decide (256 < ((List.range 8).map share).sum) || bits v 23 16 == 0 || (bits v 7 0 == 0 && !bitAt v 31 && c != 7)

def classWrite (s : State) (p c : Nat) (v : W32) : State :=
  updRegs s p (fun r => if classBad r c v then { r with cfgerr := true } else { r with cls := Tbl.set r.cls c (classWord v) })

def execBwrClassWrite (p : Fin 8) (c : Fin 8) (v : W32) (s : State) : Host.Outcome State Fault Refusal :=
  .next (if softUp s then classWrite s p c v else s)

/-! ### Global interleave (R134-R136) -/

/-- A device range meets the global-interleave window. -/
def inGil (a n : Nat) : Bool := decide (a < 0x20000000000) && decide (0x10000000000 < a + n)

/-- A mover action's rows reach into the window. -/
def movInGil (e : MovEntry) : Bool :=
  (e.op == .copy && !e.srcSram && inGil e.src (srcEnd e - e.src)) || (!e.dstSram && inGil e.dst (dstEnd e - e.dst))

/-- A descriptor's source or destination reaches into the window; the length counts its chunks at their largest. -/
def setInGil (b : SetBody) : Bool :=
  (!b.srcSram && inGil b.src (b.count * 16384 + 1)) || (!b.dstSram && inGil b.dst (b.count * 16384 + 1))

def expInGil (b : ExpBody) : Bool := !b.dstSram && inGil b.dst (4096 * b.count)

def msgInGil (m : CipMsg) : Bool := inGil m.src m.len || inGil m.dst m.len || inGil m.aad m.aadlen || inGil m.tag 16

/-- The actions that address the window when its mapping is rewritten: the mapping of their remaining accesses is not
defined (R135). -/
def loosenGil (s : State) : State :=
  let msg (m : Option CipMsg) : Option CipMsg := m.map (fun m => { m with loose := m.loose || msgInGil m })
  { s with
    movers := s.movers.map (fun m => (m.1, { m.2 with queue := m.2.queue.map (fun q => { q with loose := q.loose || movInGil q.ent }) })),
    sets := s.sets.map (fun x => (x.1, { x.2 with run := x.2.run.map (fun r => { r with loose := r.loose || setInGil r.body }) })),
    cmp := s.cmp.map (fun c => (c.1, { c.2 with exp := c.2.exp.map (fun x => (x.1, x.2.map (fun q =>
      { q with loose := q.loose || expInGil q.body }))) })),
    cip := { s.cip with running := msg s.cip.running, save0 := msg s.cip.save0, save1 := msg s.cip.save1 },
    freeCtr := s.freeCtr + 1 }

/-- The bits of `MEM_GIL_CTL` that are stored: EN, CFGERR, OFFSET and SIZE. -/
def gilWrite (s : State) (v : W32) : State :=
  let size := bits v 6 0
  let off := bits v 14 8
  let cfgerr : W32 := (s.gil &&& 0x20000000#32) &&& ~~~v
  let absent := (List.range 8).any (fun p => pstateOf s p == .absent)
  let new : W32 :=
    if bitAt v 31 && (size == 0 || decide (127 < off + size) || absent) then (s.gil &&& 0x7F7F#32) ||| 0x20000000#32
    else (v &&& 0x80007F7F#32) ||| cfgerr
  let moved := new &&& 0x80007F7F#32 != s.gil &&& 0x80007F7F#32
  let s' := if moved then loosenGil s else s
  { s' with gil := new }

def execMemGilCtlWrite (v : W32) (s : State) : Host.Outcome State Fault Refusal :=
  .next (if softUp s then gilWrite s v else s)

end Sys2Proof.Machine
end

