-- ==== Sys2Proof/Machine/Start.lean ====
section
/-!
DEFINITION. The start: what survives, the stages, firmware images, the parts of the Folio, and standby
(spec/16_folio.md R358-R370, spec/21_boot_security.md R432-R442, spec/18 R392, spec/19 R414).
-/

namespace Sys2Proof.Machine

def updFolio (s : State) (f : Folio → Folio) : State := { s with folio := f s.folio }

/-! ### What a start keeps (R11, R321, R427) -/

/-- Chip-scoped state at its reset values. The flash, the always-on domain, the pins and the part itself keep theirs; HBM
does where it is held in self-refresh. -/
def chipReset (s : State) (keepHbm : Bool) : State :=
  let z := State.reset
  { z with
    pending := s.pending, absent := s.absent, out := s.out, freeCtr := s.freeCtr, dev := s.dev,
    devReset := s.devReset, perst := s.perst,
    hbm := if keepHbm then s.hbm else [], sheet := if keepHbm then s.sheet else [],
    hbmPoison := if keepHbm then s.hbmPoison else [],
    folio := { folioReset with
      board0 := s.folio.board0, board1 := s.folio.board1, count0 := s.folio.count0, count1 := s.folio.count1, static := s.folio.static },
    sec := { secReset with img0 := s.sec.img0, img1 := s.sec.img1, counter := s.sec.counter, area := s.sec.area,
                           tapIr := s.sec.tapIr, trstLow := s.sec.trstLow },
    cip := { cipReset with binds := s.cip.binds },
    cxl := { cxlReset with nextId := s.cxl.nextId, late := s.cxl.late ++ s.cxl.track.map (·.line) },
    rst := { rstReset with mpBites := s.rst.mpBites },
    pwr := { pwrReset with cap := s.pwr.cap, wakeLo := s.pwr.wakeLo, wakeHi := s.pwr.wakeHi, aonStat := s.pwr.aonStat,
                           latch := s.pwr.latch, good := s.pwr.good, coolant := s.pwr.coolant, brake := s.pwr.brake,
                           thermtrip := s.pwr.thermtrip, temp := s.pwr.temp, hot := s.pwr.hot, tick := s.pwr.tick,
                           refclk := s.pwr.refclk } }

/-- What a start finds at its inputs: the comparators act at once, at 105 °C as a trip, and a missing reference clock halts
the device (R411, R413, R456). -/
def startInputs (s : State) : State :=
  let s := hotMarks (if s.pwr.brake then brakeOn s else s)
  if 105 ≤ s.pwr.temp then haltDevice (updPwr s (fun p => { p with thermtrip := true })) 1
  else if !s.pwr.refclk then haltDevice s 1
  else s

/-- A start begins; its first stage has no step of its own, so it is reached at once (notes/assumptions/38.md). A cap
held below the floor takes its configuration (R391, R409). -/
def startDevice (s : State) (warm : Bool) : State :=
  let s := chipReset s warm
  startInputs (floorTest { s with dev := .booting, sec := { s.sec with stage := 1, warm := warm } })

/-- A wake from STANDBY; one that finds coolant or a rail low leaves the device there with WAKEFAIL (R414). -/
def wake (s : State) : State :=
  if s.dev ≠ .standby then s
  else if levelsOk s ∧ !s.devReset then startDevice s false
  else updPwr s (fun p => { p with aonStat := setBit p.aonStat 1 })

/-! ### Firmware images (R435, R436) -/

def imageBody (bs : List Byte) : List Byte := (bs.drop 256).take (natAt bs 20 4)
/-- Header and body. -/
def imageWhole (bs : List Byte) : List Byte := bs.take (256 + natAt bs 20 4)

/-- The checks of R436 in their order; `buf` is the buffer's length and `floor` the SVN floor. -/
def verifyImage (bs : List Byte) (buf floor : Nat) : Status :=
  let len := natAt bs 20 4
  let svn := natAt bs 12 4
  if len < 4096 ∨ 8388608 < len ∨ len % 4096 ≠ 0 ∨ buf < 256 + len then .lengthRange
  else if natAt bs 0 4 ≠ 0x4A4E4154 ∨ natAt bs 4 2 ≠ 1 ∨ natAt bs 6 2 ≠ 0 ∨ natAt bs 11 1 ≠ 0 ∨ 65535 < svn ∨
      natAt bs 16 2 ≠ 0x0104 ∨ natAt bs 18 2 ≠ 0 then .badArg
  else if !(ecdsaOk Config.lamnakRoot (bytesAt bs 24 8 ++ bytesAt bs 64 64) (bytesAt bs 128 64) &&
      ecdsaOk (bytesAt bs 64 64) (bs.take 192) (bytesAt bs 192 64)) then .authFail
  else if sha256 (imageBody bs) ≠ bytesAt bs 32 32 then .checkFail
  else if svn < floor then .rollback
  else .ok

/-- The bytes of an image slot; slot 0 leaves production with the factory's image. -/
def slotImage (s : State) (slot : Bool) : List Byte :=
  if slot then s.sec.img1.getD [] else s.sec.img0.getD Config.factoryImage

def slotState (s : State) (slot : Bool) : SlotSt := if slot then s.sec.slot1 else s.sec.slot0

/-! ### The replay-protected area (R433, R435) -/

/-- The flash key of the part (R433). -/
def partFlashKey : List Byte := hkdf32 zeroSalt Config.pufResponse (asciiBytes [0x47, 0x39, 0x2D, 0x46, 0x4C])

def slotNo : SlotSt → Nat
  | .empty => 0 | .valid => 1 | .writing => 2 | .invalid => 3

/-- The HMAC of a record over its fields, whose layout the spec does not give (notes/assumptions/53.md). -/
def rpTag (key : List Byte) (r : RpRecord) : List Byte :=
  hmac key (natBytes 8 r.count ++ natBytes 4 r.floor ++ natBytes 1 (b2n r.next) ++ natBytes 1 (slotNo r.slot0) ++ natBytes 1 (slotNo r.slot1))

def sealRecord (key : List Byte) (r : RpRecord) : RpRecord := { r with tag := rpTag key r }

/-- The record in the flash; the part leaves production with slot 0 valid and floor 0 (notes/assumptions/39.md). -/
def recordHeld (s : State) : RpRecord := s.sec.area.getD (sealRecord partFlashKey ⟨0, 0, false, .valid, .empty, []⟩)

/-- What is in force goes to the flash: its write counter advances and the record carries it (R435). -/
def recordSave (s : State) : State :=
  updSec s (fun x =>
    let n := x.counter + 1
    { x with counter := n, area := some (sealRecord x.flashKey ⟨n, x.floor, x.next, x.slot0, x.slot1, []⟩) })

/-- A record that is not older than the flash's counter and whose HMAC holds (R435). -/
def recordSurvives (s : State) : Bool :=
  let r := recordHeld s
  decide (s.sec.counter ≤ r.count) && rpTag s.sec.flashKey r == r.tag

/-- The record comes into force at stage 3. -/
def recordLoad (s : State) : State :=
  let r := recordHeld s
  updSec s (fun x => { x with floor := r.floor, next := r.next, slot0 := r.slot0, slot1 := r.slot1 })

def setSlotState (s : State) (slot : Bool) (v : SlotSt) : State :=
  recordSave (updSec s (fun x => if slot then { x with slot1 := v } else { x with slot0 := v }))

/-- A slot's image passes; one left writing or invalid is never chosen (R436, R443). -/
def slotGood (s : State) (slot : Bool) : Bool :=
  slotState s slot == .valid && verifyImage (slotImage s slot) (slotImage s slot).length s.sec.floor == .ok

/-! ### Stages 2 and 3 (R433, R438, R439, R441) -/

/-- The PUF is read and the keys derived; a response that cannot be corrected halts the start. -/
def bootKeys (s : State) (pufOk : Bool) : State :=
  if s.dev ≠ .booting ∨ s.sec.stage ≠ 1 then s
  else if !pufOk then haltDevice s 3
  else updSec (deriveKeks s) (fun x => { x with stage := 2, idKey := ecPub idScalar, kaKey := ecPub kaScalar, flashKey := partFlashKey })

def execBootKeysDerived (pufOk : Bool) (s : State) : Host.Outcome State Fault Refusal := .next (bootKeys s pufOk)

/-- Jante runs from a slot: what the start records of it. -/
def runImage (s : State) (slot fallback : Bool) : State :=
  let bs := slotImage s slot
  let svn := natAt bs 12 4
  let version := bytesAt bs 8 4
  let s := updSec s (fun x => { x with
    stage := 3, shown := true, slot := slot, fallback := fallback, svn := svn, version := version,
    meas := [sha256 Config.bootRom, sha256 (imageWhole bs), version ++ natBytes 4 svn, [], [],
             natBytes 4 x.floor ++ natBytes 1 (b2n slot) ++ natBytes 1 (b2n fallback)] })
  answerHeld { s with rst := { s.rst with mpDown := false } }

/-- The named slot, or the other where it is valid and the first fails; without a replay-protected record the start
halts with FLASH, without an image with IMAGE. `survives` tells whether the flash gives the record back as it was written. -/
def imageSelect (s : State) (survives : Bool) : State :=
  if s.dev ≠ .booting ∨ s.sec.stage ≠ 2 then s
  else if !(survives && recordSurvives s) then haltDevice s 6
  else
    let s := recordLoad s
    let n := s.sec.next
    if slotGood s n then runImage s n false
    else if slotGood s (!n) then runImage s (!n) true
    else haltDevice s 2

def execImageSelect (survives : Bool) (s : State) : Host.Outcome State Fault Refusal := .next (imageSelect s survives)

/-! ### The static part (R360-R365) -/

/-- A record of a part: its header with VER 1, and its body, padded to eight bytes (R361). -/
def folRecord (type : Nat) (body : List Byte) : List Byte :=
  let n := 8 * ((body.length + 7) / 8)
  natBytes 2 type ++ natBytes 2 (8 + n) ++ natBytes 1 1 ++ natBytes 3 0 ++ body ++ List.replicate (n - body.length) 0#8

def enabledEngines (s : State) : List Nat := (List.range 80).filter (fun e => !s.absent.contains e)
def gradeOf (s : State) : Nat := (enabledEngines s).length
def coreCount (s : State) (c : Nat) : Nat := ((List.range 10).filter (fun m => !s.absent.contains (10 * c + m))).length

/-- "G9-", the grade in two digits, "-LQ". -/
def partNo (s : State) : List Byte :=
  let g := gradeOf s
  asciiBytes [0x47, 0x39, 0x2D, 0x30 + g / 10, 0x30 + g % 10, 0x2D, 0x4C, 0x51] ++ List.replicate 8 0#8

def pad (n : Nat) (bs : List Byte) : List Byte := bs.take n ++ List.replicate (n - bs.length) 0#8

def limitsList : List (Nat × Nat) :=
  [(0x01, 1048576), (0x02, 4096), (0x03, 1024), (0x04, 32), (0x05, 16), (0x06, 64), (0x07, 8), (0x08, 8192), (0x09, 64),
   (0x0A, 256), (0x0B, 64), (0x0C, 255), (0x0D, 64), (0x0E, 131072), (0x0F, 130944), (0x10, 1500), (0x11, 1800), (0x12, 600),
   (0x13, 2000), (0x14, 260)]

/-- Register blocks and banks by KIND and INSTANCE (R365). -/
def regMapList (s : State) : List (Nat × Nat) :=
  [(1, 0xFF)] ++ (enabledEngines s).map (fun e => (2, e)) ++ (List.range 8).map (fun p => (3, p)) ++
    (List.range 8).map (fun p => (4, p)) ++ (List.range 8).map (fun p => (5, p)) ++ (List.range 4).map (fun o => (6, o + 1)) ++
    (List.range 16).map (fun i => (7, i))

/-- Where a block begins in BAR0: mailbox `i` at the place R373 and R385 give it, the others where the part has them. -/
def blockBase (kind inst : Nat) : Nat := if kind = 7 then 0x100000 + inst * 0x10000 else Config.regBase kind inst

/-- The static part up to its SIG record. -/
def staticBody (s : State) : List Byte :=
  let emap := (enabledEngines s).foldl (fun n e => n + 2 ^ e) 0
  folRecord 0x0001 (partNo s ++ pad 8 Config.serial ++ natBytes 1 (gradeOf s) ++ natBytes 1 Config.stepping ++ List.replicate 6 0#8) ++
  folRecord 0x0002 (natBytes 16 emap ++ (List.range 8).flatMap (fun c => natBytes 1 (coreCount s c))) ++
  folRecord 0x0003 ((List.range 16).flatMap (fun _ => natBytes 4 65536 ++ natBytes 4 9600) ++ natBytes 4 130944 ++ natBytes 8 sheetOffset) ++
  folRecord 0x0004 ([0x0000FFFF, 0x0000FE3F, 0x0003FFFF, 0x0003FFFF, 0x0000FFFE, 0x0000020A].flatMap (natBytes 4)) ++
  folRecord 0x0005 (limitsList.flatMap (fun l => natBytes 2 l.1 ++ natBytes 2 0 ++ natBytes 4 l.2)) ++
  folRecord 0x0006 ((regMapList s).flatMap (fun r => natBytes 1 r.1 ++ natBytes 1 r.2 ++ natBytes 2 0 ++
    natBytes 4 (blockBase r.1 r.2) ++ natBytes 4 (Config.regSize r.1 r.2))) ++
  folRecord 0x0007 (pad 12 Config.macs ++ List.replicate 4 0#8)

/-- The static part as the flash holds it; the part leaves production with the one its engines describe. -/
def staticPart (s : State) : List Byte :=
  s.folio.static.getD (staticBody s ++ folRecord 0x00FF (pad 8 Config.sigKeyId ++ pad 64 Config.sig))

/-- Engines of EMAP between two numbers. -/
def mapCount (emap lo n : Nat) : Nat := ((List.range n).filter (fun k => emap.testBit (lo + k))).length

/-- EMAP, GRADE and CORECNT agree, and every core has two engines (R19, R363). -/
def enginesOk (identity engines : FolRec) : Bool :=
  let emap := natAt engines.body 0 16
  decide (emap < 2 ^ 80) && mapCount emap 0 80 == natAt identity.body 24 1 &&
    (List.range 8).all (fun c => natAt engines.body (16 + c) 1 == mapCount emap (10 * c) 10 && decide (2 ≤ mapCount emap (10 * c) 10))

/-- The checks of R363 on the static part. -/
def staticOk (s : State) : Bool :=
  let bs := staticPart s
  match recordsOf 0x00FF bs with
  | none => false
  | some rs =>
    match recOf rs 0x0001, recOf rs 0x0002, recOf rs 0x00FF with
    | some identity, some engines, some sig =>
      ecdsaOk (productionKey (bytesAt sig.body 0 8)) (bs.take sig.off) (bytesAt sig.body 8 64) && enginesOk identity engines && typesOnce rs &&
        [0x0003, 0x0004, 0x0005, 0x0006, 0x0007].all (fun k => (recOf rs k).isSome)
    | _, _, _ => false

/-! ### Stage 4 (R363, R367, R434) -/

/-- BEND of a flash copy is good. -/
def copyGood (bs : List Byte) : Bool := match recordsOf 0x01FF bs with
  | some rs => bendOk bs rs
  | none => false

/-- The flash copy with a good BEND and the later write count. -/
def copyChoice (f : Folio) : Bool := copyGood f.board1 && (!copyGood f.board0 || decide (f.count0 < f.count1))

/-- Static and board parts, and the certificate: the header becomes readable. -/
def folioCheck (s : State) : State :=
  if s.dev ≠ .booting ∨ s.sec.stage ≠ 3 then s
  else
    let copy := copyChoice s.folio
    let board := if copy then s.folio.board1 else s.folio.board0
    let ok := staticOk s
    let boardOk := ok && copyGood board && (boardOf board).isSome
    let s := updFolio s (fun f => { f with copy := copy, staticOk := ok, boardOk := boardOk, headerUp := true,
                                           start := BitVec.ofNat 64 (Config.random s.freeCtr) })
    let s := { s with freeCtr := s.freeCtr + 1 }
    if !ok then haltDevice s 5
    else if s.sec.idKey ≠ certIdKey ∨ s.sec.kaKey ≠ certKaKey then haltDevice s 4
    else
      let m4 := if boardOk then sha256 board else List.replicate 32 0#8
      updSec s (fun x => { x with stage := 4, meas := (x.meas.set 3 (sha256 (staticPart s))).set 4 m4 })

def execFolioCheck (s : State) : Host.Outcome State Fault Refusal := .next (folioCheck s)

/-! ### Stages 5 to 7 (R368-R370) -/

/-- The partitions of stacks that failed are ABSENT until the next start. -/
def loseStacks (s : State) (bad : List Nat) (code : Nat) : State :=
  bad.foldl (fun s k =>
    let s := updFolio s (fun f => { f with
      stackTest := Tbl.set f.stackTest k code,
      partTest := if Tbl.get 0 f.partTest (k / 2) = 0 then Tbl.set f.partTest (k / 2) code else f.partTest })
    setPstate s (k / 2) .absent) s

/-- Every link LINKPLAN records begins to train. -/
def trainLinks (s : State) : State := (List.range 12).foldl startTraining s

/-- The partition of a core rail that is not good is ABSENT until the next start (R368, R370, R399). -/
def loseRails (s : State) : State :=
  ((List.range 8).filter (fun p => !s.pwr.good.getLsbD p && pstateOf s p != .absent)).foldl (fun s p =>
    setPstate (updFolio s (fun f => { f with partTest := Tbl.set f.partTest p 3 })) p .absent) s

def hbmTrained (s : State) (bad : List (Fin 16)) : State :=
  if s.dev ≠ .booting ∨ s.sec.stage ≠ 4 then s
  else
    let s := updSec (loseRails (loseStacks s (bad.map (·.val)) 1)) (fun x => { x with stage := 5 })
    if s.sec.warm then trainLinks s else s

def execHbmTrained (bad : List (Fin 16)) (s : State) : Host.Outcome State Fault Refusal := .next (hbmTrained s bad)

/-- Every usable tile is zero, with its entry (R437). A warm reset skips the test. -/
def memoryTested (s : State) (bad : List (Fin 16)) : State :=
  if s.dev ≠ .booting ∨ s.sec.stage ≠ 5 ∨ s.sec.warm then s
  else
    let s := { s with hbm := [], sheet := [], hbmPoison := [] }
    trainLinks (updSec (loseRails (loseStacks s (bad.map (·.val)) 2)) (fun x => { x with stage := 6 }))

def execMemoryTestDone (bad : List (Fin 16)) (s : State) : Host.Outcome State Fault Refusal := .next (memoryTested s bad)

/-- No link trains any more: stage 7. -/
def linksTrained (s : State) : State :=
  let due := s.sec.stage = 6 ∨ (s.sec.warm ∧ s.sec.stage = 5)
  if s.dev ≠ .booting ∨ !due ∨ s.links.any (fun l => l.2.state == .training) then s
  else updSec (loseRails s) (fun x => { x with stage := 7 })

def execLinksTrained (s : State) : Host.Outcome State Fault Refusal := .next (linksTrained s)

/-! ### The dynamic part (R360, R362, R368) -/

def selftestBody (s : State) : List Byte :=
  (List.range 8).flatMap (fun p => natBytes 1 (Tbl.get 0 s.folio.partTest p)) ++
  (List.range 16).flatMap (fun k => natBytes 1 (Tbl.get 0 s.folio.stackTest k)) ++
  (List.range 2).flatMap (fun n => natBytes 1 (Tbl.get 0 s.folio.portTest n)) ++ List.replicate 6 0#8

def linksBody (s : State) : List Byte :=
  (List.range 12).flatMap (fun n =>
    match Tbl.get? s.folio.linkRep n with
    | some (code, peer, lanes, serial) => natBytes 1 code ++ natBytes 1 peer ++ natBytes 1 lanes ++ List.replicate 5 0#8 ++ natBytes 8 serial.toNat
    | none => natBytes 1 (if recorded (gath s) n then 3 else 0) ++ List.replicate 15 0#8)

def revisionsBody (s : State) : List Byte :=
  natBytes 4 Config.bootRomRevision ++ pad 4 s.sec.version ++ natBytes 4 s.sec.svn ++ natBytes 2 0x0104 ++ natBytes 2 1 ++ List.replicate 16 0#8

def bindBody (s : State) : List Byte :=
  natBytes 8 s.folio.start.toNat ++ sha256 (staticPart s) ++ (if s.folio.boardOk then sha256 (boardInUse s) else List.replicate 32 0#8)

def dynBody (s : State) : List Byte :=
  folRecord 0x0201 (bindBody s) ++ folRecord 0x0202 (selftestBody s) ++ folRecord 0x0203 (linksBody s) ++
    folRecord 0x0204 (revisionsBody s) ++ folRecord 0x0205 (pad 64 s.sec.idKey)

/-- The dynamic part is signed: READY, and the SVN floor rises to the running image's (R437, R438). -/
def dynamicSigned (s : State) : State :=
  if s.dev ≠ .booting ∨ s.sec.stage ≠ 7 then s
  else
    let body := dynBody s
    let s := updFolio s (fun f => { f with dyn := body ++ folRecord 0x02FF (ecdsaSign idScalar (freshScalar s) body), dynOk := true })
    let raise := decide (s.sec.floor < s.sec.svn)
    let s := updSec s (fun x => { x with stage := 8, floor := max x.floor x.svn })
    let s := if raise then recordSave s else s
    { s with dev := .ready, freeCtr := s.freeCtr + 1 }

def execDynamicPartSigned (s : State) : Host.Outcome State Fault Refusal := .next (dynamicSigned s)

/-! ### The Folio window (R358, R360) -/

def staticOff : Nat := 0x1000
def boardOff : Nat := 0x41000
def dynOff : Nat := 0x81000

def folioHeader (s : State) : List Byte :=
  let f := s.folio
  let stat := staticPart s
  let board := boardInUse s
  natBytes 4 0x4F494C46 ++ natBytes 2 1 ++ natBytes 2 (b2n f.staticOk + 2 * b2n f.boardOk + 4 * b2n f.dynOk) ++
    natBytes 8 f.start.toNat ++ natBytes 4 staticOff ++ natBytes 4 stat.length ++
    natBytes 4 (if f.boardOk then boardOff else 0) ++ natBytes 4 (if f.boardOk then board.length else 0) ++
    natBytes 4 (if f.dynOk then dynOff else 0) ++ natBytes 4 (if f.dynOk then f.dyn.length else 0) ++ List.replicate 24 0#8

/-- Bytes of a part that begins at `off`, or nothing. -/
def partByte (off : Nat) (bs : List Byte) (a : Nat) : Option Byte := if off ≤ a then bs[a - off]? else none

/-- A byte of the Folio window; zero where no part lies. -/
def folioByte (s : State) (a : Nat) : Byte :=
  if !s.folio.headerUp then 0#8
  else if a < 64 then (folioHeader s).getD a 0#8
  else ((partByte staticOff (staticPart s) a).orElse (fun _ =>
    (partByte boardOff (boardInUse s) a).orElse (fun _ => partByte dynOff (if s.folio.dynOk then s.folio.dyn else []) a))).getD 0#8

def folioRead (s : State) (a n : Nat) : List Byte := (List.range n).map (fun k => folioByte s (a + k))

/-! ### Standby and always-on power (R392, R413, R414) -/

/-- PWR_STANDBY: clocks stop, keys are erased, the CXL port goes (R414, R321). -/
def standby (s : State) : State :=
  let s := if s.cxl.up then cxlDown s else s
  { keysErase s with dev := .standby }

/-- The always-on domain wakes the device at the tick set; TICKWAKE sets and WAKEEN clears. -/
def tickWake (s : State) (lv : Levels) : State :=
  let at_ := s.pwr.wakeHi.toNat * 2 ^ 32 + s.pwr.wakeLo.toNat
  if s.dev ≠ .standby ∨ !bitAt s.pwr.aonStat 31 ∨ tickNow s < at_ then s
  else
    let s := setLevels s lv
    let ok := levelsOk s && !s.devReset
    let s := updPwr s (fun p => { p with aonStat := if ok then clrBit (setBit p.aonStat 0) 31 else p.aonStat })
    wake s

def execTickCompareWake (lv : Levels) (s : State) : Host.Outcome State Fault Refusal := .next (tickWake s lv)

/-- What the part keeps without any power: its flash, its absent engines and its pins (notes/assumptions/39.md). -/
def coldState (s : State) : State :=
  { chipReset s false with dev := .off, pwr := { pwrReset with brake := s.pwr.brake, coolant := s.pwr.coolant, good := s.pwr.good, refclk := s.pwr.refclk },
                           rst := rstReset, cip := cipReset, cxl := cxlReset, sec := { (chipReset s false).sec with tapIr := 0 } }

/-- Always-on power becomes good: STANDBY, with NOREF where the domain finds no reference clock (R413). -/
def aonGood (s : State) (lv : Levels) : State :=
  if s.dev ≠ .off then s
  else
    let s := setLevels (coldState s) lv
    { updPwr s (fun p => { p with aonStat := if p.refclk then p.aonStat else setBit p.aonStat 2 }) with dev := .standby }

def execAonPowerGood (lv : Levels) (s : State) : Host.Outcome State Fault Refusal := .next (aonGood s lv)

def aonLost (s : State) : State := if s.dev = .off then s else coldState s

def execAonPowerLost (s : State) : Host.Outcome State Fault Refusal := .next (aonLost s)

end Sys2Proof.Machine
end

