-- ==== Sys2Proof/Machine/Resets.lean ====
section
/-!
DEFINITION. Fences, partition reset and activation, device warm reset, rail faults and the two watchdogs beside the
stream's (spec/20_reset_recovery.md R416-R431, spec/19 R399).
-/

namespace Sys2Proof.Machine

def updRst (s : State) (f : Rst → Rst) : State := { s with rst := f s.rst }

/-! ### What a fence abandons (R84, R122, R153, R289, R420, R421) -/

/-- The actions of an engine are abandoned; its banks stay as they are until the reset. -/
def engineAbandon (x : Engine) : Engine :=
  { x with acts := [], suspended := [], undrained := [], inflight := [], eles := [], eleSuspended := [], outs := [] }

/-- The core whose unit makes a post. -/
def posterPart : Poster → Option Nat
  | .mover c _ => some c
  | .spanld c => some c
  | .expander p _ => some p
  | .update p => some p
  | .census p => some p
  | _ => none

/-- Every action of core `p` is abandoned, and posts held by its units with it. -/
def coreAbandon (s : State) (p : Nat) : State :=
  let s := (engineList p).foldl (fun s e => setEngine s e (engineAbandon (engineOf s e))) s
  let s := (List.range 11).foldl (fun s m => dropTraffic (setMover s p m moverReset) (.mover p m)) s
  let s := (List.range 4).foldl (fun s k => dropTraffic s (.expander p k)) s
  let s := setCmp s p { cmpOf s p with exp := [] }
  let s := setUpd s p { updOf s p with deliver := [], work := [] }
  { s with bus := s.bus.filter (fun b => actPart b.unit != p),
           spanlds := s.spanlds.filter (fun x => x.core != p),
           tok := { s.tok with held := s.tok.held.filter (fun h => posterPart h.by_ != some p) } }

/-- A tracked line lies in partition `p`'s window. -/
def lineOf (p : Nat) (l : TrackLine) : Bool := hbmPart (64 * l.line) == p

/-- BISnpInv for every tracked line of the partition (R377). -/
def snoopPart (s : State) (p : Nat) : State :=
  let ls := s.cxl.track.filter (fun l => lineOf p l && !(l.snooped && l.inv))
  { s with cxl := { s.cxl with track := s.cxl.track.map (fun l => if lineOf p l then { l with snooped := true, inv := true } else l) },
           out := ls.map (fun l => Out.bisnp l.line true) ++ s.out }

/-- Whether a pending encode reads or writes partition `p` or has tiles of its engines (R279, R289), or a pending group load is of
it. -/
def pendMeets (p : Nat) (x : Pend) : Bool :=
  (x.req.opcode == 0x040E && (decide (p < (x.req.args.getD 2 0).toNat) || (hbmPart ((x.req.args.getD 1 0).toNat) == p) || hbmPart ((x.req.args.getD 3 0).toNat) == p)) ||
    (x.req.opcode == 0x0501 && x.obj == .partition p)

/-- The state enters FENCING: new requests are refused, actions abandoned (R420); `cause` is that of `RST_FENCE`. -/
def fenceNow (s : State) (p cause : Nat) : State :=
  let s := fenceCipher (fenceFar (fenceSets s p)) p
  let s := setPstate s p .fencing
  let s := fenceBindery (snoopPart (coreAbandon (tipFenceStart s p) p) p) p
  let s := finishPend s (pendMeets p) .internal []
  raiseVector (updRst s (fun r => { r with
    fence := BitVec.ofNat 32 (cause + 2 ^ (24 + p)) ||| (r.fence &&& 0xFFFFFF00#32),
    fences := r.fences + 1, fPart := p, fCause := cause, fTick := s.pwr.tick,
    req := r.req.filter (fun q => q.1 != p) })) 23

/-- A fence asked for begins; one that is Jante's decision waits while Jante restarts (R417, R419). -/
def fenceStart (s : State) (p : Nat) : State :=
  match s.rst.req.find? (fun q => q.1 == p) with
  | none => s
  | some q =>
    if !clocksRun s.dev || s.rst.mpDown then s
    else if partActive s p then fenceNow s p q.2
    else updRst s (fun r => { r with req := r.req.filter (fun q => q.1 != p) })

def execFenceStart (p : Fin 8) (s : State) : Host.Outcome State Fault Refusal := .next (fenceStart s p)

/-! ### The drain window and the reset (R420, R421, R423) -/

/-- Writes the buffer had accepted are served, and it is empty (R142). -/
def drainTip (s : State) (p : Nat) : State :=
  let s := tipFlushAll s p
  let ws := (memOf s p).tip.waiting
  let s := ws.foldl (fun s w => hbmWrite s w.cls w.addr w.bytes) (updTip s p (fun t => { t with waiting := [] }))
  tipFlushAll s p

/-- Lines of the partition still awaiting BIRsp leave the tracker (R377). -/
def dropLines (s : State) (p : Nat) : State :=
  { s with cxl := { s.cxl with track := s.cxl.track.filter (fun l => !lineOf p l),
                               late := s.cxl.late ++ (s.cxl.track.filter (lineOf p)).map (·.line) } }

/-- Requests answered with errors and replies discarded are counted. -/
def countFence (s : State) (p errs replies : Nat) : State :=
  updRst s (fun r => { r with errans := (r.errans + errs) % 65536, discard := (r.discard + replies) % 65536,
                              fence := if errs = 0 then r.fence else setBit r.fence (16 + p) })

/-- Parking slots of the partition are free again (R429). -/
def unpark (s : State) (p : Nat) : State :=
  let u := updOf s p
  setUpd s p { u with parks := [], freed := (u.freed + u.parks.length) % 65536 }

/-- The end of the 50 µs window: RESETTING. -/
def drainEnd (s : State) (p errs replies : Nat) : State :=
  if pstateOf s p ≠ .fencing then s
  else wakeSets (setPstate (unpark (countFence (dropLines (drainTip s p) p) p errs replies) p) p .resetting)

/-- An SRAM address in a scratchpad or the core memory of partition `p`. -/
def sramOfPart (p a : Nat) : Bool :=
  if a < 0x50000000 then a / 0x1000000 / 10 == p else (a - 0x60000000) / 0x2000000 == p

/-- Partition-scoped registers at their reset values, memories zeroed, queues and tables of its units empty (R423). -/
def partReset (s : State) (p : Nat) : State :=
  let s := (engineList p).foldl (fun s e => setEngine s e engineReset) s
  let s := (List.range 11).foldl (fun s m => setMover s p m moverReset) s
  let s := setMem s p { memSideReset with regs := { regsReset with cfgerr := (memOf s p).regs.cfgerr } }
  let s := setCmp s p cmpReset
  let s := setUpd { s with kept := Tbl.set s.kept p (keptUpd s p) } p updReset
  let s := updFar s (fun f => { f with frec := Tbl.del f.frec p })
  { s with sram := s.sram.filter (fun c => !sramOfPart p c.1), sramPoison := s.sramPoison.filter (fun w => !sramOfPart p (8 * w)),
           sramFlips := s.sramFlips.filter (fun w => !sramOfPart p (8 * w)) }

/-- The partition is IDLE; the RST_PARTITION that waits for it completes (R396). -/
def partIdle (s : State) (p : Nat) : State :=
  raiseVector (finishPend (setPstate s p .idle) (fun x => pendOp 0x0A01 x && x.obj == .partition p) .ok []) 23

/-- The partition's logic is ready; a device warm reset under way covers the sequence (R428). -/
def partitionResetDone (s : State) (p : Nat) : State :=
  if pstateOf s p ≠ .resetting ∨ s.rst.warm then s else partIdle (partReset s p) p

def execPartitionResetDone (p : Fin 8) (s : State) : Host.Outcome State Fault Refusal :=
  .next (if clocksRun s.dev then partitionResetDone s p else s)

/-! ### Activation (R424, R226, R289, R303) -/

/-- The base of a record that was written and fails its check in both copies (R424). -/
def badRecord (s : State) (p : Nat) : Option Nat :=
  let u := keptUpd s p
  let far := (s.far.cfg.map (fun c => p * hbmWindow + c.frec)).getD 0
  if u.seq ≠ 0 ∧ (goodRecord s u.crec).isNone then some (u.crec.toNat * 65536)
  else if s.far.cfg.isSome ∧ Tbl.get 0 s.far.recSeq p ≠ 0 ∧ (goodFarRecord s far).isNone then some far
  else none

/-- Table slots as a partition that stayed ACTIVE holds them (R289). -/
def reloadSlots (s : State) (p : Nat) : State :=
  match (List.range 8).find? (fun q => q != p && partActive s q) with
  | some q => setCmp s p { cmpOf s p with slot0 := (cmpOf s q).slot0, slot1 := (cmpOf s q).slot1 }
  | none => s

/-- The restorations are made and the partition is ACTIVE, or its record fails and it stays IDLE. -/
def activateDone (s : State) (p : Nat) : State :=
  let mine (x : Pend) : Bool := pendOp 0x0A02 x && x.obj == .partition p
  if !s.jante.pend.any mine || pstateOf s p != .idle || s.rst.mpDown then s
  else
    match badRecord s p with
    | some a => finishPend s mine .checkFail (faultPayload (atImage 0 a))
    | none =>
      let s := frecRestore (farRestore (reloadSlots (updRestore s p) p) p) p
      finishPend (setPstate { s with kept := Tbl.del s.kept p } p .active) mine .ok []

def execPartitionActivateComplete (p : Fin 8) (s : State) : Host.Outcome State Fault Refusal :=
  .next (if clocksRun s.dev then activateDone s p else s)

/-! ### Rail faults (R399, R428) -/

/-- Held lines of an unpowered partition are lost; writes that waited are answered with errors. -/
def loseTip (s : State) (p : Nat) : State :=
  let n := (memOf s p).tip.waiting.length
  let s := updTip s p (fun t => { t with freed := t.freed + t.lines.length, lines := [], waiting := [], fencing := false })
  countFence s p n 0

/-- `PWRGD_COREp` falls: a fence without a window, and IDLE (R399). -/
def railFence (s : State) (p : Nat) : State :=
  let mark (s : State) : State := updRst s (fun r => { r with fence := setBit r.fence (8 + p) })
  match pstateOf s p with
  | .active => wakeSets (partIdle (partReset (dropLines (loseTip (mark (fenceNow s p 3)) p) p) p) p)
  | .fencing => wakeSets (partIdle (partReset (dropLines (loseTip (mark s) p) p) p) p)
  | .resetting => partIdle (partReset (mark s) p) p
  | _ => s

/-- A power-good input falls, in BOOTING as in READY and RUNNING (R399); with a shared rail goes the storage of the keys (R321; notes/assumptions/32.md). -/
def powerGoodFall (s : State) (rail : Nat) : State :=
  if s.dev = .off then s
  else if rail = 14 then aonLost s
  else
    let run := clocksRun s.dev
    let s := updPwr s (fun p => { p with good := clrBit p.good rail, latch := if run then setBit p.latch rail else p.latch })
    let s := if rail = 8 ∨ rail = 9 then keysErase s else s
    if !run then s
    else if rail < 8 then railFence s rail
    else haltDevice s 1

def execPowerGoodFall (rail : Fin 15) (s : State) : Host.Outcome State Fault Refusal := .next (powerGoodFall s rail)

/-! ### Device warm reset (R425, R412, R458) -/

/-- What happens at once: no further measure, every partition fenced with cause 4, links DOWN, far ports quiet. -/
def warmBegin (s : State) : State :=
  let s := updRst s (fun r => { r with windows := true })
  let s := { s with cal := { s.cal with run := false }, fill := { s.fill with run := false } }
  let s := (List.range 8).foldl (fun s p => if partActive s p then fenceNow s p 4 else s) s
  let s := (List.range 12).foldl (fun s n => if (linkOf s n).state = .down then s else linkDown s n) s
  updFar s (fun f => { f with port0 := { f.port0 with up := false }, port1 := { f.port1 with up := false } })

/-- Every window ends and the start begins; without coolant, a rail or the reference clock, or with the trip latched,
the device stays HALTED with cause POWER (R412, R456, R458). -/
def restart (s : State) : State :=
  let s := (List.range 8).foldl (fun s p => drainEnd s p 0 0) s
  if levelsOk s && s.pwr.refclk && !s.pwr.thermtrip then startDevice (pointOne s) true
  else
    let s := haltDevice s 1
    updSec (updRst s (fun r => { r with warm := false })) (fun x => { x with cause := 1 })

/-- `DEV_RESET_N` falls; a trip is unlatched while the junction is below 95 °C (R412, R451). -/
def devResetAssert (s : State) : State :=
  if s.devReset then s
  else
    let s := { (if clocksRun s.dev then pointOne s else s) with devReset := true }
    let s := if s.pwr.temp < 95 then updPwr s (fun p => { p with thermtrip := false }) else s
    if s.dev = .off ∨ s.dev = .standby then s
    else
      let s := updRst s (fun r => { r with warm := true })
      if clocksRun s.dev then warmBegin s else s

def execDevResetAssert (s : State) : Host.Outcome State Fault Refusal := .next (devResetAssert s)

/-- `DEV_RESET_N` rises: a wake from STANDBY, else the warm reset runs. -/
def devResetRelease (s : State) (lv : Levels) : State :=
  if !s.devReset then s
  else
    let s := setLevels (tapRelease { s with devReset := false }) lv
    let s := if lv.junction < 95 then updPwr s (fun p => { p with thermtrip := false }) else s
    match s.dev with
    | .off => s
    | .standby => wake s
    | _ => restart s

def execDevResetRelease (lv : Levels) (s : State) : Host.Outcome State Fault Refusal := .next (devResetRelease s lv)

/-- No drain window of a device warm reset is open any more. -/
def windowsOver (s : State) : Bool := s.rst.windows && (List.range 8).all (fun p => pstateOf s p != .fencing)

/-- The warm reset RST_DEVICE asked for (R396): every partition is fenced, and after 50 µs, when the last drain window ends,
the start begins (R377, R425). The command given again stands for that end. A device whose clocks do not run has no window, and
one that has left for STANDBY or OFF has no reset to run (R392; notes/assumptions/33.md). -/
def deviceWarmReset (s : State) : State :=
  if !s.rst.warm || s.devReset || s.dev == .off || s.dev == .standby then s
  else if s.rst.windows || !clocksRun s.dev then restart s
  else
    let s := warmBegin s
    if windowsOver s then restart s else s

/-- A drain window ends; the last one of a device warm reset that holds no pin begins the start. -/
def windowEnd (s : State) (p errs replies : Nat) : State :=
  let s := drainEnd s p errs replies
  if s.rst.warm && !s.devReset && windowsOver s then restart s else s

def execDrainWindowEnd (p : Fin 8) (errAnswered replies : Nat) (s : State) : Host.Outcome State Fault Refusal :=
  .next (if clocksRun s.dev then windowEnd s p errAnswered replies else s)

def execDeviceWarmReset (s : State) : Host.Outcome State Fault Refusal := .next (deviceWarmReset s)

/-! ### The MP watchdog (R417, R440, R389) -/

/-- Loads Jante was writing end with it. -/
def loadsLost (s : State) : State :=
  { s with cmpLoading := [], cal := { s.cal with loadA := false, loadB := false } }

/-- Every command not complete completes with INTERNAL (R389). -/
def commandsLost (s : State) : State :=
  let j := s.jante
  let rung : List Req := (j.rung.filter (· < 16)).map (fun i => ⟨i, 0, 0, 0, [], []⟩)
  let open_ := j.exam.toList ++ j.pend.map (·.req) ++ rung ++ j.sideband.toList.filter (fun _ => j.rung.contains 16)
  open_.foldl (fun s r => completeReq s r .internal []) { s with jante := { j with exam := none, pend := [], rung := [] } }

/-- The MP alone is reset, and Jante restarts. -/
def mpReset (s : State) : State :=
  let s := loadsLost (commandsLost s)
  spdmReset (revokeOwner (updRst s (fun r => { r with mpDown := true })) .mp)

/-- Jante runs, or is to run, on a chip whose clocks run. -/
def mpAlive (s : State) : Bool := clocksRun s.dev && s.sec.shown && !s.rst.mpDown

def mpBite (s : State) : State :=
  if !mpAlive s then s
  else mpReset (recordBite (updRst s (fun r => { r with mpBites := satInc 0xFFFF r.mpBites })) 4 0)

def execMpWatchdogBite (s : State) : Host.Outcome State Fault Refusal := .next (mpBite s)

/-- The running slot is verified again and Jante runs, or the device halts with cause MPVERIFY. -/
def janteRestart (s : State) : State :=
  if !(s.rst.mpDown && clocksRun s.dev && s.sec.shown) then s
  else if slotGood s s.sec.slot then answerHeld (updRst s (fun r => { r with mpDown := false }))
  else updSec (haltDevice s 7) (fun x => { x with cause := 7 })

def execJanteRestartDone (s : State) : Host.Outcome State Fault Refusal := .next (janteRestart s)

/-! ### The service bus (R418) -/

/-- The cipher engine is reset: the lock is lost, messages end with INTERNAL, saved contexts go (R326). -/
def cipherBitten (s : State) : State :=
  let waiting := s.cip.wait
  updCip ([Owner.host, .movers, .mp, .far].foldl revokeOwner s) (fun c =>
    { c with wait := waiting ++ c.wait.filter (fun o => !waiting.contains o) })

/-- A command whose transaction was aborted: the one examined, else the one pending longest (R418). -/
def abortCommand (s : State) (mine : Req → Bool) : State :=
  match s.jante.exam.filter mine with
  | some r => completeReq { s with jante := { s.jante with exam := none } } r .internal []
  | none => finishPend s (fun x => mine x.req) .internal []

/-- The power manager begins again from the configuration in force; the always-on comparators act throughout (R418). -/
def powerRestart (s : State) : State :=
  updPwr s (fun p => { p with samples := [], mean := 0, lims := [], debt := 0, peak := false,
                              gate := if p.gate = .brake then .brake else .none })

/-- The ranks after a bite: the winner of the grant took the lowest, and the arbiter restarts with the MP at the highest
(R418). -/
def sbRestart (order : List Nat) (who : Nat) : List Nat :=
  0 :: (order.filter (fun k => k != who && k != 0) ++ (if who = 0 then [] else [who]))

/-- The effect on the requester of a code. -/
def busBitten (s : State) (who : Nat) : State :=
  match who with
  | 0 => if mpAlive s then mpReset s else s
  | 1 => cipherBitten s
  | 2 => if s.bnd.run.isSome then finishPend (endJob s) (pendOp 0x0805) .ok [] else s
  | 3 => powerRestart s
  | 5 => abortCommand s (fun r => r.src < 16)
  | 6 => abortCommand s (fun r => r.src == 16)
  | _ => s

def sbBite (s : State) (who : Nat) : State :=
  if !clocksRun s.dev then s
  else
    let n := satInc 0xFFFF (bits s.rst.sbwdog 15 0)
    let order := sbRestart s.rst.sbOrder who
    let s := updRst s (fun r => { r with sbwdog := BitVec.ofNat 32 (2 ^ 31 + who * 2 ^ 16 + n), sbOrder := order })
    busBitten (recordBite s 3 who) who

def execServiceBusWatchdogBite (who : Fin 7) (s : State) : Host.Outcome State Fault Refusal := .next (sbBite s who)

end Sys2Proof.Machine
end

