-- ==== Sys2Proof/Machine/Command.lean ====
section
/-!
DEFINITION. What the Jante commands share: opcodes, objects, checks and answers
(spec/18_mailbox_commands.md R387, R388, R392-R394).
-/

namespace Sys2Proof.Machine

/-- A completion: its status and its response. -/
abbrev Reply := Status × List Byte

/-- The first failure of checks in their order. -/
def firstOf {α : Type} (cs : List (Option α)) : Option α := cs.findSome? id

/-- A check that fails with `r` unless `ok`. -/
def need (ok : Bool) (r : Reply) : Option Reply := if ok then none else some r

def faultReply (st : Status) (f : FaultAt) : Reply := (st, faultPayload f)
def badArg (n : Nat) : Reply := faultReply .badArg (atArg n)
def badPayload (o : Nat) : Reply := faultReply .badArg (atPayload o)
def lengthArg (n : Nat) : Reply := faultReply .lengthRange (atArg n)
def lengthPayload (o : Nat) : Reply := faultReply .lengthRange (atPayload o)
/-- A failure at a device address named by argument `n`. -/
def addrArg (st : Status) (n a : Nat) : Reply := faultReply st ⟨0, n, 0, 0, a⟩
def addrPayload (st : Status) (o a : Nat) : Reply := faultReply st ⟨1, 0, 0, o, a⟩
def conflict (s : State) (obj ostate kind : Nat) : Reply := (.stateConflict, statePayload s ⟨obj, ostate, kind⟩)
def conflictNone (s : State) : Reply := conflict s 0xFFFF 0xFF 0
def okReply (bs : List Byte) : Reply := (.ok, bs)

/-- Arguments from `n` on are not used and must be zero (R386). -/
def unused (r : Req) (n : Nat) : Option Reply :=
  ((List.range 8).find? (fun k => decide (n ≤ k) && argOf r k != 0)).map badArg

/-- The payload holds the `n` bytes the command reads (R387 step 3). -/
def plenOk (r : Req) (n : Nat) : Option Reply :=
  need (decide (n ≤ r.plen) && decide (r.plen ≤ 4096) && decide (r.plen ≤ r.payload.length)) (faultReply .lengthRange ⟨1, 0, 0, 0, r.plen⟩)

/-- The payload's length passes its buffer, or the message that carried it (R387 step 3, R390). -/
def plenPasses (r : Req) : Option Reply :=
  need (decide (r.plen ≤ 4096) && decide (r.plen ≤ r.payload.length)) (faultReply .lengthRange ⟨1, 0, 0, 0, r.plen⟩)

/-! ### Device states (R392) -/

def live (s : State) : Bool := s.dev == .ready || s.dev == .running
def needLive (s : State) : Option Reply := need (live s) (conflictNone s)
def needQuiet (s : State) : Option Reply := need (s.dev == .ready) (conflictNone s)
/-- States in which DEV_QUERY and FOL_READ are answered. -/
def needAny (s : State) : Option Reply :=
  need (live s || s.dev == .booting || s.dev == .halted) (conflictNone s)

/-- Jante, the boot ROM in HALTED, or the always-on domain in STANDBY answers (R391, R392, R417, R439). In the drain windows of
a device warm reset nothing more is taken up: what is PENDING is lost at their end (R389). -/
def janteAnswers (s : State) : Bool :=
  match s.dev with
  | .off => false
  | .standby => true
  | .halted => true
  | .booting => s.folio.headerUp && !s.rst.mpDown && !s.rst.windows
  | _ => !s.rst.mpDown && !s.rst.windows

/-! ### Partitions (R393) -/

/-- An argument's partition is there and in the state asked for. -/
def needPart (s : State) (n p : Nat) (want : PState) : Option Reply :=
  firstOf [need (pstateOf s p != .absent) (faultReply .notPresent (atArg n)),
           need (pstateOf s p == want) (conflict s p (pstateCode (pstateOf s p)) 2)]

/-! ### Objects (R387 step 2) -/

/-- An argument that names an object below a bound. -/
def objIn (r : Req) (n lo hi : Nat) (f : Nat → Obj) : Except Nat (List Obj) :=
  if lo ≤ argOf r n ∧ argOf r n < hi then .ok [f (argOf r n)] else .error n

def bothObjs (a b : Except Nat (List Obj)) : Except Nat (List Obj) := do return (← a) ++ (← b)

/-- The objects a command holds, or the argument that names none. -/
def objectsOf (r : Req) : Except Nat (List Obj) :=
  let part := objIn r 0 0 8 .partition
  let set (n : Nat) := objIn r n 0 64 .set
  match r.opcode with
  | 0x0110 => .ok [.boardWrite]
  | 0x0201 => objIn r 0 0 2 .bank
  | 0x0401 | 0x0402 | 0x0403 | 0x0404 | 0x0405 | 0x0406 | 0x0407 | 0x0408 | 0x040C | 0x040D => set 0
  | 0x0409 => if argOf r 0 < 12 ∨ argOf r 0 = 0xFF then .ok [] else .error 0
  | 0x040A => if argOf r 0 < 12 then .ok [] else .error 0
  | 0x040B | 0x040E => objIn r 0 0 2 .tableSlot
  | 0x0501 | 0x0503 | 0x0504 | 0x0602 | 0x0A01 | 0x0A02 => part
  | 0x0502 => if argOf r 0 = 0xFF then .ok ((List.range 8).map .partition) else part
  | 0x0505 | 0x0506 => bothObjs part (set 1)
  | 0x0603 | 0x0604 | 0x0605 | 0x0609 | 0x0706 => objIn r 0 1 256 .partner
  | 0x0301 => if argOf r 0 < 16 then .ok [] else .error 0
  | 0x0701 | 0x0702 => if argOf r 0 < 4 then .ok [] else .error 0
  | 0x0703 | 0x0704 => objIn r 0 0 64 .keySlot
  | 0x0705 => bothObjs (objIn r 0 0 64 .keySlot) (objIn r 1 1 256 .partner)
  | 0x0802 => if argOf r 0 < 4 then .ok [] else .error 0
  | 0x0803 => if argOf r 0 < 8 then .ok [] else .error 0
  | 0x0804 | 0x0805 => .ok [.bindery]
  | _ => .ok []

/-- A table load and an encode of one slot meet as R286 says, and an unwrap or a clear of a key slot meets an install as R320
says, with TABLE_BUSY (notes/assumptions/18.md). -/
def slotPair (a b : Nat) : Bool :=
  (a == 0x040B && b == 0x040E) || (a == 0x040E && b == 0x040B) || (a == 0x0705 && (b == 0x0703 || b == 0x0704))

/-- Objects that PENDING commands hold against a command. -/
def heldObjects (s : State) (op : Nat) : List Obj :=
  (s.jante.pend.filter (fun p => !slotPair p.req.opcode op)).flatMap (fun p => match objectsOf p.req with
    | .ok os => os
    | .error _ => [])

/-- Steps 1 and 2 of R387. -/
def commandSet : List Nat :=
  [0x0101, 0x0110, 0x0111, 0x0301, 0x0201, 0x0202, 0x0203, 0x0204, 0x0205, 0x0206,
   0x0401, 0x0402, 0x0403, 0x0404, 0x0405, 0x0406, 0x0407, 0x0408, 0x0409, 0x040A, 0x040B, 0x040C, 0x040D, 0x040E] ++
  [0x0501, 0x0502, 0x0503, 0x0504, 0x0505, 0x0506, 0x0601, 0x0602, 0x0603, 0x0604, 0x0605, 0x0606, 0x0607, 0x0608, 0x0609] ++
  [0x0701, 0x0702, 0x0703, 0x0704, 0x0705, 0x0706, 0x0707, 0x0708, 0x0801, 0x0802, 0x0803, 0x0804, 0x0805, 0x0806] ++
  [0x0901, 0x0902, 0x0903, 0x0904, 0x0905, 0x0906, 0x0A01, 0x0A02, 0x0A03, 0x0A04, 0x0B01, 0x0B02]

def firstChecks (s : State) (r : Req) : Option Reply :=
  if !commandSet.contains r.opcode then some (.badOpcode, [])
  else match objectsOf r with
    | .error n => some (badArg n)
    | .ok os => if os.any (fun o => (heldObjects s r.opcode).contains o) then some (.busy, []) else none

/-! ### Running a command -/

/-- The command under examination, where it has the opcode and is answered, is checked again and has its effect. -/
def runCmd (s : State) (op : Nat) (check : State → Req → Option Reply) (eff : State → Req → State) : State :=
  match s.jante.exam.filter (fun r => r.opcode == op && janteAnswers s) with
  | none => s
  | some r =>
    let s' := { s with jante := { s.jante with exam := none } }
    match check s r with
    | some a => completeReq s' r a.1 a.2
    | none => eff s' r

/-- A command that reads and writes HBM; it waits while a host holds lines of those ranges (R376). -/
def runCmdMem (s : State) (op : Nat) (check : State → Req → Option Reply) (rw : State → Req → List (Nat × Nat) × List (Nat × Nat))
    (eff : State → Req → State) : State :=
  match s.jante.exam.filter (fun r => r.opcode == op && janteAnswers s) with
  | none => s
  | some r =>
    match hostHolds s (rw s r).1 (rw s r).2 with
    | some s => s
    | none => runCmd s op check eff

/-- A command completes with OK. -/
def doneOk (s : State) (r : Req) (bs : List Byte) : State := completeReq s r .ok bs

/-- A command stays PENDING. -/
def stayPend (s : State) (r : Req) (obj : Obj) (note : Nat) : State :=
  { s with jante := { s.jante with pend := s.jante.pend ++ [⟨r, obj, note⟩] } }

/-! ### Images in HBM -/

/-- The partition that fences an address: its own, or of the interleave window the first that is not ACTIVE (R136). -/
def fencedPart (s : State) (a : Nat) : Nat :=
  if a < 0x10000000000 then hbmPart a else ((List.range 8).find? (fun p => !partActive s p)).getD 0

def imageScan (s : State) : Nat → Nat → Nat → Option (Except Nat Nat)
  | 0, _, _ => none
  | fuel + 1, a, n =>
    if n = 0 then none
    else
      match accOf s a with
      | .hbm _ => let k := min n (4096 - a % 4096); imageScan s fuel (a + k) (n - k)
      | .fenced => some (.error (fencedPart s a))
      | _ => some (.ok a)

/-- An image lies wholly in usable HBM: the address that breaks it, or a fenced partition (R174). -/
def imageFault (s : State) (a n : Nat) : Option (Except Nat Nat) := imageScan s (n / 4096 + 2) a n

/-- The first tile of a range of usable HBM that fails its checksum or is poisoned, as a device address (R148). -/
def badTile (s : State) (a n : Nat) : Option Nat :=
  if (imageFault s a n).isSome then none
  else ((chunksIn a n).map (fun c => c.1 / 4096 * 4096)).find? (fun t => match accOf s t with
    | .hbm h => !tileOk s h || (tilePoisoned s h).isSome
    | _ => false)

/-- An image named by an argument: in usable HBM, its tiles good. -/
def imageCheck (s : State) (arg a n : Nat) : Option Reply :=
  match imageFault s a n with
  | some (.ok x) => some (addrArg .lengthRange arg x)
  | some (.error p) => some (conflict s p (pstateCode (pstateOf s p)) 2)
  | none => (badTile s a n).map (fun t => faultReply .checkFail (atImage (t - a) t))

end Sys2Proof.Machine
end

