-- ==== Sys2Proof/Machine/JanteSets.lean ====
section
/-!
DEFINITION. Commands on sets, links and compression (spec/11_links_and_collectives.md R236, R238, R243, R257, R258, R263, R267,
spec/12_compression.md R269, R276, R280-R290).
-/

namespace Sys2Proof.Machine

/-! ### The words of the set registers (R268) -/

def phaseCode : SetPhase → Nat
  | .idle => 0 | .run => 1 | .vote => 2 | .doubt => 3 | .hold => 4 | .unconfigured => 5

/-- `SET_STATEs`; a descriptor whose post is held keeps its queue entry (R189). -/
def setStateWord (s : State) (k : Nat) : W32 :=
  let x := setOf s k
  BitVec.ofNat 32 (phaseCode x.phase * 2 ^ 29 + b2n x.frozen * 2 ^ 28 + x.redos % 16 * 2 ^ 24 + x.attempt % 256 * 2 ^ 16 +
    min 256 (x.queue.length + heldFor s (.setQueue k) true))
def setLedgerWord (x : SetSt) : W32 := BitVec.ofNat 32 (x.alloc % 65536 * 2 ^ 16 + x.freed % 65536)
def setCntWord (x : SetSt) : W32 := BitVec.ofNat 32 (x.stale % 65536 * 2 ^ 16 + x.nack % 65536)

def setConflict (s : State) (k : Nat) : Reply := conflict s k (phaseCode (setOf s k).phase) 1

/-- The set is in one of the states a command may have. -/
def needPhase (s : State) (k : Nat) (ok : SetSt → Bool) : Option Reply := need (ok (setOf s k)) (setConflict s k)

def idleEmpty (x : SetSt) : Bool := x.phase == .idle && x.queue.isEmpty

/-! ### SET_CONFIG and SET_RELEASE (R243) -/

def entryOf (bs : List Byte) : SetCfg :=
  { tag := natAt bs 0 2, quad := natAt bs 2 1 == 1, n := natAt bs 3 1, ord := natAt bs 4 1,
    ext := (List.range 3).map (fun k => natAt bs (5 + k) 1), origin := (List.range 3).map (fun k => natAt bs (8 + k) 1),
    vc := natAt bs 11 1, timeout := natAt bs 12 4, win := natAt bs 16 1, retry := natAt bs 17 1, code := natAt bs 18 1,
    fill := natAt bs 19 1 == 1, parts := natAt bs 20 1, sbase := natAt bs 32 8, ssize := natAt bs 40 8,
    members := (List.range 64).map (fun i => natAt bs (48 + i) 1) }

/-- This device's coordinate relative to a Reel's origin on an axis. -/
def relCoord (g : Gath) (c : SetCfg) (ax : Nat) : Nat :=
  let n := g.shape.getD ax 1
  (g.coord.getD ax 0 + n - c.origin.getD ax 0 % n) % n

/-- The first field of a Reel that disagrees with the Folio. -/
def reelFault (g : Gath) (c : SetCfg) : Option Nat :=
  let e (ax : Nat) : Nat := c.ext.getD ax 0
  let ax3 : List Nat := [0, 1, 2]
  firstOf [
    if g.wiring ≠ 1 then some 2 else none,
    (ax3.find? (fun ax => e ax ≠ 1 ∧ e ax ≠ g.shape.getD ax 1)).map (5 + ·),
    if e 0 * e 1 * e 2 ≠ c.n then some 3 else none,
    (ax3.find? (fun ax => decide (g.shape.getD ax 1 ≤ c.origin.getD ax 0) || decide (e ax ≤ relCoord g c ax))).map (8 + ·),
    if c.ord ≠ relCoord g c 0 + e 0 * (relCoord g c 1 + e 1 * relCoord g c 2) then some 4 else none,
    (c.members.findIdx? (· != 0)).map (48 + ·)]

/-- The first field of a Quadrille that disagrees with the Folio: its members are joined pairwise. -/
def quadFault (g : Gath) (c : SetCfg) : Option Nat :=
  let ms := c.members.take c.n
  let joined (m : Nat) : Bool := m == g.devno ||
    (List.range 12).any (fun n => recorded g n && (g.peers.getD n (0xFF, 0, 0)).1 == m)
  if g.wiring ≠ 2 then some 2
  else if c.n ≤ c.ord ∨ ms.getD c.ord 0xFF ≠ g.devno then some 4
  else if ms.eraseDups.length ≠ ms.length then some 48
  else (ms.findIdx? (fun m => !joined m)).map (48 + ·)

/-- The first field of an entry outside its range, by its offset. -/
def entryFault (s : State) (bs : List Byte) (c : SetCfg) : Option Nat :=
  if 1 < natAt bs 2 1 then some 2
  else if c.n < 2 ∨ 64 < c.n then some 3
  else if c.vc < 1 ∨ 6 < c.vc then some 11
  else if c.timeout < 1 ∨ 100000 < c.timeout then some 12
  else if c.win < 1 ∨ 64 < c.win then some 16
  else if 15 < c.retry then some 17
  else if !codeByteOk c.code then some 18
  else if 1 < natAt bs 19 1 ∨ (c.vc == 6) ≠ c.fill then some 19
  else if c.sbase % 0x100000 ≠ 0 then some 32
  else
    match ((List.range 11).map (· + 21) ++ (List.range 16).map (· + 112)).find? (fun o => natAt bs o 1 != 0) with
    | some o => some o
    | none => if c.quad then quadFault (gath s) c else reelFault (gath s) c

def setConfigCheck (s : State) (r : Req) : Option Reply :=
  let k := argOf r 0
  let bs := r.payload
  let c := entryOf bs
  firstOf [
    plenOk r 128,
    need (decide (2 * c.win * upstream c + 64 ≤ c.ssize / 16384)) (lengthPayload 40),
    need (usableHbm s c.sbase c.ssize) (lengthPayload 32),
    unused r 1, (entryFault s bs c).map badPayload,
    ((List.range 8).find? (fun p => c.parts.testBit p && pstateOf s p == .absent)).map (fun _ => faultReply .notPresent (atPayload 20)),
    needLive s, needPhase s k (fun x => x.phase == .unconfigured && x.queue.isEmpty || idleEmpty x)]

/-- The entry is written; credits of its windows start full. -/
def setConfigDo (s : State) (r : Req) : State :=
  doneOk (updSet s (argOf r 0) (fun x => { x with cfg := some (entryOf r.payload), phase := .idle, wcred := [] })) r []

def execSetConfig (s : State) : Host.Outcome State Fault Refusal := .next (runCmd s 0x0401 setConfigCheck setConfigDo)

def setCmdCheck (ok : SetSt → Bool) (s : State) (r : Req) : Option Reply :=
  firstOf [unused r 1, needLive s, needPhase s (argOf r 0) ok]

def setReleaseDo (s : State) (r : Req) : State :=
  doneOk (updSet s (argOf r 0) (fun x => { x with cfg := none, phase := .unconfigured, commitWait := [] })) r []

def execSetRelease (s : State) : Host.Outcome State Fault Refusal :=
  .next (runCmd s 0x0402 (setCmdCheck idleEmpty) setReleaseDo)

/-! ### SET_FREEZE and SET_THAW (R263) -/

def anyPhase (_ : SetSt) : Bool := true

def setFreezeDo (s : State) (r : Req) : State :=
  doneOk (updSet s (argOf r 0) (fun x => { x with freezing := x.freezing || !x.frozen })) r []

def execSetFreeze (s : State) : Host.Outcome State Fault Refusal := .next (runCmd s 0x0403 (setCmdCheck anyPhase) setFreezeDo)

/-- The set goes on in the state its votes have left it in: what it kept while frozen is taken up (R263). -/
def setThawDo (s : State) (r : Req) : State :=
  let k := argOf r 0
  let s := pumpSet (updSet s k (fun x => { x with freezing := false, frozen := false })) k
  let n := (setOf s k).early.length + 1
  doneOk (match (setOf s k).cfg with
    | some c => earlyVotes n (keptNacks n s k c) k c
    | none => s) r []

def execSetThaw (s : State) : Host.Outcome State Fault Refusal := .next (runCmd s 0x0404 (setCmdCheck anyPhase) setThawDo)

/-! ### SET_RESOLVE, SET_REDO and SET_DISCARD (R257, R258) -/

def setResolveCheck (s : State) (r : Req) : Option Reply :=
  firstOf [need (decide (argOf r 1 < 2)) (badArg 1), unused r 2, needLive s, needPhase s (argOf r 0) (·.phase == .doubt)]

def setResolveDo (s : State) (r : Req) : State :=
  let k := argOf r 0
  let s := match (setOf s k).cfg with
    | some c => if argOf r 1 = 0 then decideCommit s k c else decideAbort (sendAbort s k c 4) k c 4 false
    | none => s
  doneOk s r []

def execSetResolve (s : State) : Host.Outcome State Fault Refusal := .next (runCmd s 0x0405 setResolveCheck setResolveDo)

/-- The work runs again with a fresh redo count; the command waits until its first descriptor starts. -/
def setRedoDo (s : State) (r : Req) : State :=
  let k := argOf r 0
  let x := setOf s k
  let s := setSet s k { x with phase := if x.queue.isEmpty then .idle else .run, redos := 0 }
  if x.queue.isEmpty then doneOk s r [] else stayPend s r (.set k) 0

def execSetRedo (s : State) : Host.Outcome State Fault Refusal :=
  .next (runCmd s 0x0406 (setCmdCheck (·.phase == .hold)) setRedoDo)

/-- The queue empties and nothing is posted. -/
def setDiscardDo (s : State) (r : Req) : State :=
  doneOk (updSet s (argOf r 0) (fun x =>
    { x with phase := if x.cfg.isSome then .idle else .unconfigured, queue := [], redos := 0 })) r []

def execSetDiscard (s : State) : Host.Outcome State Fault Refusal :=
  .next (runCmd s 0x0407 (setCmdCheck (·.phase == .hold)) setDiscardDo)

/-! ### SET_QUERY (R388) -/

def setQueryDo (s : State) (r : Req) : State :=
  let x := setOf s (argOf r 0)
  let step := match x.cfg with
    | some c => stepOf s (argOf r 0) c
    | none => 0
  doneOk s r (natBytes 4 (setStateWord s (argOf r 0)).toNat ++ natBytes 4 (setLedgerWord x).toNat ++ natBytes 4 (setCntWord x).toNat ++
    natBytes 4 s.setErr.toNat ++ natBytes 4 step ++ natBytes 8 x.mask.toNat ++ natBytes 1 (voteFlags x) ++ List.replicate 35 0#8)

def execSetQuery (s : State) : Host.Outcome State Fault Refusal := .next (runCmd s 0x0408 (setCmdCheck anyPhase) setQueryDo)

/-! ### LNK_CONFIG and LNK_RETRAIN (R236, R238) -/

def lnkWeights (r : Req) : List Nat := (List.range 8).map (fun v => natAt r.payload v 1)
def lnkCredits (r : Req) : List Nat := (List.range 8).map (fun v => 4 * natAt r.payload (8 + v) 1)

def lnkConfigCheck (s : State) (r : Req) : Option Reply :=
  firstOf [
    plenOk r 16, unused r 1, need (decide ((lnkWeights r).sum ≤ 64)) (badPayload 0),
    need (decide ((lnkCredits r).sum ≤ 512)) (badPayload 8),
    ((lnkCredits r).findIdx? (· < 4)).map (fun v => badPayload (8 + v)), needLive s]

/-- Weights and credits for the next training. -/
def lnkConfigDo (s : State) (r : Req) : State :=
  let ns := if argOf r 0 = 0xFF then List.range 12 else [argOf r 0]
  doneOk (ns.foldl (fun s n => setLink s n { linkOf s n with nextWeights := lnkWeights r, nextCredits := lnkCredits r }) s) r []

def execLnkConfig (s : State) : Host.Outcome State Fault Refusal := .next (runCmd s 0x0409 lnkConfigCheck lnkConfigDo)

/-- A set that uses a link and is not IDLE. -/
def linkUser (s : State) (n : Nat) : Option Nat :=
  (List.range 64).find? (fun k => match (setOf s k).cfg with
    | some c => (setOf s k).phase != .idle && (setLinks s c).contains n
    | none => false)

def lnkRetrainCheck (s : State) (r : Req) : Option Reply :=
  firstOf [unused r 1, needLive s, (linkUser s (argOf r 0)).map (setConflict s)]

/-- A recorded link trains again; another stays DOWN. -/
def lnkRetrainDo (s : State) (r : Req) : State :=
  let n := argOf r 0
  if recorded (gath s) n then stayPend (startTraining s n) r (.link n) 0 else doneOk s r []

def execLnkRetrain (s : State) : Host.Outcome State Fault Refusal := .next (runCmd s 0x040A lnkRetrainCheck lnkRetrainDo)

/-! ### Table slots (R280, R286) -/

/-- A body on the measure bus, accepted and not yet in its queue, with its core. -/
def busCore (s : State) (f : Nat → CoreAct → Bool) : Bool :=
  s.bus.any (fun b => match b.unit with
    | .core c => (match coreEntryOf c b.entry with
      | some (some a) => f c a
      | _ => false)
    | _ => false)

def setUsesSlot (s : State) (k slot : Nat) : Bool :=
  match (setOf s k).cfg with
  | some c => codeLtc c.code && codeLslot c.code == slot
  | none => false

def slotRefs (s : State) (p slot : Nat) : Bool :=
  (cmpOf s p).exp.any (fun q => q.2.any (fun a => a.body.slots.testBit slot)) ||
    s.tok.held.any (fun h => h.slots.testBit slot && (match h.by_ with
      | .expander q _ => q == p
      | _ => false)) ||
    busCore s (fun c a => match a with
      | .expand b => c == p && b.slots.testBit slot
      | .set b => setUsesSlot s b.set slot
      | .spanld _ => false) ||
    (List.range 64).any (fun k =>
      let x := setOf s k
      setUsesSlot s k slot && (!x.queue.isEmpty || x.run.isSome || !x.done.isEmpty)) ||
    s.jante.pend.any (fun p => pendOp 0x040E p && p.obj == .tableSlot slot)

def slotReferenced (s : State) (slot : Nat) : Bool := (List.range 8).any (fun p => slotRefs s p slot)

/-- Bytes of a table image by its header. -/
def tableBytes (s : State) (r : Req) : Nat := if usableHbm s (argOf r 2) 16 then 16 + 128 * natAt (devRead s (argOf r 2) 1) 0 1 else 16

def curGen (s : State) (slot : Nat) : Nat :=
  match (List.range 8).find? (partActive s) with
  | some p => (slotOf (cmpOf s p) slot).gen
  | none => 0

def tableLoadCheck (s : State) (r : Req) : Option Reply :=
  let slot := argOf r 0
  let n := tableBytes s r
  firstOf [
    need (decide (1 ≤ argOf r 1) && decide (argOf r 1 ≤ 255) && argOf r 1 != curGen s slot) (badArg 1), unused r 4, needLive s,
    need (!slotReferenced s slot) (.tableBusy, []),
    need (usableHbm s (argOf r 2) n) (addrArg .lengthRange 2 (argOf r 2)), need (decide (n ≤ argOf r 3)) (lengthArg 3),
    imageCheck s 2 (argOf r 2) n,
    need (tableOf (devRead s (argOf r 2) n)).isSome (faultReply .badArg (atImage 0 (argOf r 2)))]

def tableLoadRanges (s : State) (r : Req) : List (Nat × Nat) × List (Nat × Nat) := ([(argOf r 2, tableBytes s r)], [])

def tableLoadDo (s : State) (r : Req) : State :=
  let slot := argOf r 0
  stayPend { s with cmpLoading := slot :: s.cmpLoading } { r with payload := devRead s (argOf r 2) (tableBytes s r) } (.tableSlot slot) 0

def execCmpTableLoad (s : State) : Host.Outcome State Fault Refusal :=
  .next (runCmdMem s 0x040B tableLoadCheck tableLoadRanges tableLoadDo)

/-- The table is in every partition. -/
def tableLoaded (s : State) (k : Nat) : State :=
  let mine (p : Pend) : Bool := pendOp 0x040B p && p.obj == .tableSlot k
  match s.jante.pend.find? mine with
  | none => s
  | some p =>
    let t : Slot := match tableOf p.req.payload with
      | some (w, lens) => ⟨w, lens, argOf p.req 1⟩
      | none => slotEmpty
    let s := ((List.range 8).filter (partActive s)).foldl (fun s p => setCmp s p (setSlot (cmpOf s p) k t)) s
    finishPend { s with cmpLoading := s.cmpLoading.filter (· != k) } mine .ok []

def execCmpTableLoadComplete (k : Fin 2) (s : State) : Host.Outcome State Fault Refusal :=
  .next (if clocksRun s.dev ∧ !s.rst.mpDown then tableLoaded s k else s)

/-! ### Residual areas (R276, R278) -/

def areaOf (r : Req) : ResArea := ⟨argOf r 1 / 2 ^ 48 == 1, argOf r 1 % 2 ^ 48, argOf r 2, argOf r 3⟩

/-- Bytes of both planes and the map. -/
def areaBytes (a : ResArea) : Nat := a.size + ((a.size + 131071) / 131072 + 4095) / 4096 * 4096

/-- A partition that a command works in is ACTIVE. -/
def activePart (s : State) (a : Nat) : Option Reply :=
  need (partActive s (hbmPart a)) (conflict s (hbmPart a) (pstateCode (pstateOf s (hbmPart a))) 2)

def resCfgCheck (s : State) (r : Req) : Option Reply :=
  let a := areaOf r
  firstOf [
    need (usableHbm s a.rbase (areaBytes a)) (lengthArg 3), need (decide (argOf r 1 < 2 ^ 49) && decide (a.srcwin % 65536 = 0)) (badArg 1),
    need (decide (a.rbase % 65536 = 0)) (badArg 2), need (decide (a.size % 65536 = 0)) (badArg 3), unused r 4, needLive s,
    needPhase s (argOf r 0) idleEmpty, activePart s a.rbase]

/-- Zeros over both planes and the map, with their entries. -/
def zeroArea (s : State) (a : ResArea) : State :=
  let n := areaBytes a
  sealAll (devWrite s 4 a.rbase (List.replicate n 0#8)) 4 (tilesOf s a.rbase n)

def resCfgRanges (_ : State) (r : Req) : List (Nat × Nat) × List (Nat × Nat) := ([], [(argOf r 2, areaBytes (areaOf r))])

def resCfgDo (s : State) (r : Req) : State :=
  doneOk (updSet (zeroArea s (areaOf r)) (argOf r 0) (fun x => { x with res := some (areaOf r) })) r []

def execCmpResCfg (s : State) : Host.Outcome State Fault Refusal := .next (runCmdMem s 0x040C resCfgCheck resCfgRanges resCfgDo)

def resClearCheck (s : State) (r : Req) : Option Reply :=
  firstOf [unused r 1, needLive s, needPhase s (argOf r 0) (fun x => x.phase == .idle || x.phase == .hold),
           (setOf s (argOf r 0)).res.bind (fun a => activePart s a.rbase)]

def resClearRanges (s : State) (r : Req) : List (Nat × Nat) × List (Nat × Nat) :=
  ([], match (setOf s (argOf r 0)).res with
    | some a => [(a.rbase, areaBytes a)]
    | none => [])

def resClearDo (s : State) (r : Req) : State :=
  doneOk (match (setOf s (argOf r 0)).res with
    | some a => zeroArea s a
    | none => s) r []

def execCmpResClear (s : State) : Host.Outcome State Fault Refusal :=
  .next (runCmdMem s 0x040D resClearCheck resClearRanges resClearDo)

/-! ### CMP_ENCODE (R282, R283, R290) -/

def indexBytes (tiles : Nat) : Nat := (4 * (tiles + 1) + 15) / 16 * 16

/-- The most bytes a stream of blocks can take. -/
def encodeMost (r : Req) : Nat := indexBytes (argOf r 2) + 4112 * argOf r 2

def encodeCheck (s : State) (r : Req) : Option Reply :=
  let n := 4096 * argOf r 2
  firstOf [
    need (usableHbm s (argOf r 1) n) (lengthArg 2),
    need (decide (encodeMost r ≤ argOf r 4) && decide (encodeMost r ≤ 2 ^ 32) && usableHbm s (argOf r 3) (argOf r 4)) (lengthArg 4),
    need (decide (argOf r 1 % 4096 = 0)) (badArg 1), unused r 5, needLive s, activePart s (argOf r 1), activePart s (argOf r 3),
    need (!s.cmpLoading.contains (argOf r 0)) (.tableBusy, []), imageCheck s 1 (argOf r 1) n]

def encodeRanges (_ : State) (r : Req) : List (Nat × Nat) × List (Nat × Nat) := ([(argOf r 1, 4096 * argOf r 2)], [])

/-- The tiles are taken; the blocks follow. -/
def encodeDo (s : State) (r : Req) : State :=
  let s := apart s 4 (fun s => meterVerify s none 4 (argOf r 1) (4096 * argOf r 2))
  stayPend s { r with payload := devRead s (argOf r 1) (4096 * argOf r 2) } (.tableSlot (argOf r 0)) 0

def execCmpEncode (s : State) : Host.Outcome State Fault Refusal := .next (runCmdMem s 0x040E encodeCheck encodeRanges encodeDo)

/-- Block offsets, the end's last. -/
def offsetsFrom : Nat → List (List Byte) → List Nat
  | o, [] => [o]
  | o, b :: bs => o :: offsetsFrom (o + b.length) bs

/-- A coded stream: its index table, then its blocks. -/
def streamBytes (blocks : List (List Byte)) : List Byte :=
  padTo 16 ((offsetsFrom (indexBytes blocks.length) blocks).flatMap (natBytes 4)) ++ blocks.flatten

/-- The stream of a pending encode. -/
def encodeOut (s : State) (r : Req) : List Byte :=
  let slot := argOf r 0
  streamBytes ((chunksOf 4096 0#8 (argOf r 2) r.payload).zipIdx.map (fun b => ltcEncode (slotOf (cmpOf s (b.2 % 8)) slot) slot b.1))

/-- The engines of some tile of an encode are those of a partition that is not ACTIVE (R279, R289). -/
def encodeGone (s : State) (r : Req) : Bool := (List.range (min 8 (argOf r 2))).any (fun p => !partActive s p)

/-- The last output tile is written, with the entries of the tiles the stream fills whole; an encode whose engines a fence took is
abandoned. -/
def encodeDone (s : State) : State :=
  match s.jante.pend.find? (pendOp 0x040E) with
  | none => s
  | some p =>
    if encodeGone s p.req then finishPend s (pendOp 0x040E) .internal []
    else
    let out := encodeOut s p.req
    let a := argOf p.req 3
    match hostHolds s [] [(a, out.length)] with
    | some s => s
    | none => finishPend (apart s 4 (fun s => sealWhole (devWrite s 4 a out) 4 a out.length)) (pendOp 0x040E) .ok (natBytes 8 out.length)

def execCmpEncodeComplete (s : State) : Host.Outcome State Fault Refusal :=
  .next (if clocksRun s.dev ∧ !s.rst.mpDown then encodeDone s else s)

end Sys2Proof.Machine
end

