-- ==== Sys2Proof/Machine/JanteUpdate.lean ====
section
/-!
DEFINITION. Commands on the update units (spec/10_training_state_update.md R209-R211, R225-R234).
-/

namespace Sys2Proof.Machine

/-! ### Ranges of a partition's groups (R205, R206, R210) -/

/-- Two ranges meet. -/
def rangesMeet (a b : Nat × Nat) : Bool :=
  decide (a.2 ≠ 0) && decide (b.2 ≠ 0) && decide (a.1 < b.1 + b.2) && decide (b.1 < a.1 + a.2)

/-- The ranges of a group: its slots, its stages, its schedule and its done map. -/
def groupRanges (u : Upd) (g : UGroup) : List (Nat × Nat) :=
  let n := slotBytes g (ruleAt u g).mom
  [(g.sbase0, n), (g.sbase1, n), (g.wbase0, stageBytes g), (g.wbase1, stageBytes g), (g.sched, 16 * g.schlen),
   (g.dmap, chunksOfGroup g)]

def parkRange (u : Upd) : Nat × Nat := (u.park.toNat * 65536, 65536 * u.parkSize)

/-- The areas of R210 in a partition: those of its enabled groups, and its parking area. -/
def areasOf (u : Upd) : List (Nat × Nat) :=
  parkRange u :: u.groups.flatMap (fun e => if e.2.en then groupRanges u e.2 else [(e.2.dmap, chunksOfGroup e.2)])

/-- A range lies in windows of the slow-tier map. -/
def slowMapped (s : State) (off n : Nat) : Bool :=
  n == 0 || (List.range ((off + n - 1) / 2 ^ 30 - off / 2 ^ 30 + 1)).all (fun k => (slowWindow s ((off / 2 ^ 30 + k) * 2 ^ 30)).isSome)

/-- A range lies in usable HBM of partition `p`. -/
def inPart (s : State) (p a n : Nat) : Bool := usableHbm s a n && hbmPart a == p

/-- A group's ranges lie where they may: its slots may lie in the slow tier. -/
def groupPlaced (s : State) (p : Nat) (u : Upd) (g : UGroup) : Bool :=
  (groupRanges u g).zipIdx.all (fun e =>
    let r := e.1
    if e.2 < 2 ∧ 0x800000000000 ≤ r.1 then decide (r.1 < 2 ^ 48) && slowMapped s (slowOff r.1) r.2 else inPart s p r.1 r.2)

/-- The offset of the first field of an entry that breaks R209. -/
def groupFault (bs : List Byte) : Option Nat :=
  let g := groupOf bs
  let cv := convOfWord g.ccw
  firstOf [
    if g.sbase0 % 4096 ≠ 0 ∨ 2 ^ 48 ≤ g.sbase0 then some 0 else none,
    if g.sbase1 % 4096 ≠ 0 ∨ 2 ^ 48 ≤ g.sbase1 ∨ g.sbase0.testBit 47 ≠ g.sbase1.testBit 47 then some 8 else none,
    if g.wbase0 % 4096 ≠ 0 then some 16 else none, if g.wbase1 % 4096 ≠ 0 then some 24 else none,
    if g.count < 1 ∨ 2 ^ 28 < g.count then some 32 else none,
    if cv.isNone ∨ g.ccw / 2 ^ 11 < 1 ∨ 0xF < g.ccw / 2 ^ 11 then some 36 else none,
    if 16 ≤ natAt bs 38 1 then some 38 else none, if 64 ≤ natAt bs 39 1 then some 39 else none,
    if 1024 ≤ natAt bs 40 2 then some 40 else none, if 4 ≤ natAt bs 42 1 then some 42 else none,
    if (natAt bs 43 1).testBit 6 then some 43 else none, if g.schlen < 1 ∨ 2 ^ 20 < g.schlen then some 44 else none,
    if g.sched % 4096 ≠ 0 then some 48 else none]

/-! ### UPD_GROUP_LOAD (R210) -/

/-- Entries of an image of `w`-byte entries. -/
def imageEntries (s : State) (a w n : Nat) : List (List Byte) := (List.range n).map (fun i => devRead s (a + w * i) w)

def roundCode : RoundSt → Nat
  | .idle => 0 | .opened => 1 | .applied => 2 | .commit => 3

def roundConflict (s : State) (u : Upd) (k : Nat) : Reply := conflict s k (roundCode (usetOf u k).st) 3

/-- The round of a set is IDLE. -/
def roundIdle (u : Upd) (k : Nat) : Bool := (usetOf u k).st == .idle

/-- An image in HBM that Jante reads: in usable HBM, in no fenced partition, without poison. -/
def plainImage (s : State) (arg a n : Nat) : Option Reply :=
  match imageFault s a n with
  | some (.ok x) => some (addrArg .lengthRange arg x)
  | _ => none

def plainImageState (s : State) (a n : Nat) : Option Reply :=
  match imageFault s a n with
  | some (.error p) => some (conflict s p (pstateCode (pstateOf s p)) 2)
  | _ => need (devPoisoned s a n).isNone (.internal, [])

/-- A partition argument: not ABSENT, and ACTIVE after the device's own state. -/
def partLive (s : State) (p : Nat) : List (Option Reply) :=
  [need (pstateOf s p != .absent) (faultReply .notPresent (atArg 0)), needLive s,
   need (pstateOf s p == .active) (conflict s p (pstateCode (pstateOf s p)) 2)]

def withGroups (u : Upd) (first : Nat) (gs : List UGroup) : Upd :=
  { u with groups := gs.zipIdx.foldl (fun t e => Tbl.set t (first + e.2) e.1) u.groups }

/-- An enabled loaded group meets another enabled group's range, the parking area, a done map or one of its own ranges; or the done
map of one that is not enabled meets an enabled group's (R210). -/
def loadMeets (u : Upd) (first : Nat) (gs : List UGroup) (i : Nat) : Bool :=
  match gs[i]? with
  | none => false
  | some g =>
    let mine := groupRanges u g
    let map (g : UGroup) : Nat × Nat := (g.dmap, chunksOfGroup g)
    let others := u.groups.filter (fun e => e.1 != first + i)
    (g.en && (mine.zipIdx.any (fun a => mine.zipIdx.any (fun b => a.2 != b.2 && rangesMeet a.1 b.1)) ||
      mine.any (fun a => rangesMeet a (parkRange u)) ||
      others.any (fun e => (if e.2.en then groupRanges u e.2 else [map e.2]).any (fun b => mine.any (rangesMeet b))))) ||
    (!g.en && (others.filter (·.2.en)).any (fun e => (groupRanges u e.2).any (rangesMeet (map g))))

def groupLoadCheck (s : State) (r : Req) : Option Reply :=
  let p := argOf r 0
  let first := argOf r 2
  let n := min (argOf r 3) 257
  let u := updOf s p
  let es := imageEntries s (argOf r 1) 64 n
  let gs := es.map groupOf
  let v := withGroups u first gs
  let at_ (st : Status) (i o : Nat) : Reply := faultReply st (atImage (64 * i + o) (argOf r 1 + 64 * i + o))
  let old (i : Nat) : List Nat := match groupAt u (first + i) with
    | some g => [g.set]
    | none => []
  firstOf ([
    need (decide (first < 256)) (lengthArg 2), need (decide (first + n ≤ 256)) (lengthArg 3), plainImage s 1 (argOf r 1) (64 * n),
    (gs.findIdx? (fun g => !groupPlaced s p v g)).map (fun i => at_ .lengthRange i 0),
    ((List.range n).find? (loadMeets v first gs)).map (fun i => at_ .lengthRange i 0),
    unused r 4,
    (List.range n).findSome? (fun i => (groupFault (es.getD i [])).map (at_ .badArg i))] ++ partLive s p ++ [
    plainImageState s (argOf r 1) (64 * n),
    ((List.range n).flatMap (fun i => old i ++ ((gs[i]?).map (·.set)).toList)).findSome? (fun k =>
      need (roundIdle u k) (roundConflict s u k)),
    need (u.parkSize != 0 || gs.all (fun g => !slowGroup g)) (conflict s p (pstateCode (pstateOf s p)) 2)])

/-- Tables of a partition lie in its own window (R234). -/
def tableWrite (s : State) (p a : Nat) (bs : List Byte) : State := if hbmPart a = p then updWrite s a bs else s

def gtabAt (u : Upd) : Nat := u.gtab.toNat * 65536

def groupLoadRanges (s : State) (r : Req) : List (Nat × Nat) × List (Nat × Nat) :=
  ([(argOf r 1, 64 * argOf r 3)], [(gtabAt (updOf s (argOf r 0)) + 64 * argOf r 2, 64 * argOf r 3)])

/-- The entries are written; the done maps follow. -/
def groupLoadDo (s : State) (r : Req) : State :=
  let p := argOf r 0
  let es := imageEntries s (argOf r 1) 64 (argOf r 3)
  let u := updOf s p
  let s := tableWrite s p (gtabAt u + 64 * argOf r 2) es.flatten
  let u := updOf s p
  stayPend (setUpd s p (withGroups u (argOf r 2) (es.map groupOf))) r (.partition p) 0

def execUpdGroupLoad (s : State) : Host.Outcome State Fault Refusal :=
  .next (runCmdMem s 0x0501 groupLoadCheck groupLoadRanges groupLoadDo)

/-- The done maps of the groups loaded are zeroed. -/
def groupsLoaded (s : State) (p : Nat) : State :=
  let mine (x : Pend) : Bool := pendOp 0x0501 x && x.obj == .partition p
  match s.jante.pend.find? mine with
  | none => s
  | some x =>
    let gs := (List.range (argOf x.req 3)).filterMap (fun i => groupAt (updOf s p) (argOf x.req 2 + i))
    match hostHolds s [] (gs.map (fun g => (g.dmap, chunksOfGroup g))) with
    | some s => s
    | none => finishPend (gs.foldl (fun s g => clearMap s p g) s) mine .ok []

def execUpdGroupLoadComplete (p : Fin 8) (s : State) : Host.Outcome State Fault Refusal :=
  .next (if clocksRun s.dev ∧ !s.rst.mpDown then groupsLoaded s p else s)

/-! ### UPD_RULE_LOAD (R211) -/

/-- Partitions a rule load names. -/
def ruleParts (s : State) (r : Req) : List Nat :=
  if argOf r 0 = 0xFF then (List.range 8).filter (fun p => pstateOf s p != .absent) else [argOf r 0]

def ruleLoadCheck (s : State) (r : Req) : Option Reply :=
  let first := argOf r 2
  let n := min (argOf r 3) 17
  let es := imageEntries s (argOf r 1) 192 n
  firstOf [
    need (decide (first < 16)) (lengthArg 2), need (decide (first + n ≤ 16)) (lengthArg 3), plainImage s 1 (argOf r 1) (192 * n),
    unused r 4, (es.findIdx? (fun e => !ruleOk e)).map (fun i => faultReply .badArg (atImage (192 * i) (argOf r 1 + 192 * i))),
    need ((ruleParts s r).all (fun p => pstateOf s p != .absent)) (faultReply .notPresent (atArg 0)), needLive s,
    ((ruleParts s r).find? (fun p => !partActive s p)).map (fun p => conflict s p (pstateCode (pstateOf s p)) 2),
    plainImageState s (argOf r 1) (192 * n),
    (ruleParts s r).findSome? (fun p => (updOf s p).groups.findSome? (fun e =>
      if first ≤ e.2.rule ∧ e.2.rule < first + n then need (roundIdle (updOf s p) e.2.set) (roundConflict s (updOf s p) e.2.set)
      else none))]

def rulesAt (s : State) (p : Nat) (r : Req) : Nat := gtabAt (updOf s p) + 16384 + 192 * argOf r 2

def ruleLoadRanges (s : State) (r : Req) : List (Nat × Nat) × List (Nat × Nat) :=
  ([(argOf r 1, 192 * argOf r 3)], (ruleParts s r).map (fun p => (rulesAt s p r, 192 * argOf r 3)))

def ruleLoadDo (s : State) (r : Req) : State :=
  let es := imageEntries s (argOf r 1) 192 (argOf r 3)
  doneOk ((ruleParts s r).foldl (fun s p =>
    let s := tableWrite s p (rulesAt s p r) es.flatten
    let u := updOf s p
    setUpd s p { u with rules := es.zipIdx.foldl (fun t e => Tbl.set t (argOf r 2 + e.2) (ruleOf e.1)) u.rules }) s) r []

def execUpdRuleLoad (s : State) : Host.Outcome State Fault Refusal :=
  .next (runCmdMem s 0x0502 ruleLoadCheck ruleLoadRanges ruleLoadDo)

/-! ### UPD_PARK_CFG and UPD_BASE_CFG (R229, R233, R234) -/

def parkCfgCheck (s : State) (r : Req) : Option Reply :=
  let p := argOf r 0
  firstOf ([
    need (inPart s p (argOf r 1) (65536 * argOf r 2)) (lengthArg 2), need (decide (argOf r 1 % 65536 = 0)) (badArg 1),
    need (decide (1 ≤ argOf r 2) && decide (argOf r 2 ≤ 131072)) (badArg 2), unused r 3] ++ partLive s p ++ [
    need (updOf s p).parks.isEmpty (conflict s p (pstateCode (pstateOf s p)) 2)])

def baseWord (a : Nat) : W32 := BitVec.ofNat 32 (a / 65536)

def parkCfgDo (s : State) (r : Req) : State :=
  let u := updOf s (argOf r 0)
  doneOk (setUpd s (argOf r 0) { u with park := baseWord (argOf r 1), parkSize := argOf r 2 }) r []

def execUpdParkCfg (s : State) : Host.Outcome State Fault Refusal := .next (runCmd s 0x0503 parkCfgCheck parkCfgDo)

/-- Bytes at each base: group and rule tables, two record copies, noise records. -/
def baseSpans : List (Nat × Nat) := [(1, 19456), (2, 4608), (3, 4096)]

def baseCfgCheck (s : State) (r : Req) : Option Reply :=
  let p := argOf r 0
  firstOf (baseSpans.map (fun b => need (inPart s p (argOf r b.1) b.2) (lengthArg b.1)) ++
    baseSpans.map (fun b => need (decide (argOf r b.1 % 65536 = 0)) (badArg b.1)) ++ [unused r 4] ++ partLive s p ++
    (List.range 64).map (fun k => need (roundIdle (updOf s p) k) (roundConflict s (updOf s p) k)))

/-- Both copies of the record at the new place are read. -/
def baseCfgRanges (_ : State) (r : Req) : List (Nat × Nat) × List (Nat × Nat) :=
  let a := (baseWord (argOf r 2)).toNat * 65536
  ([(a, 512), (a + 4096, 512)], [])

/-- SEQ is that of the record at the new place, where there is one. -/
def baseCfgDo (s : State) (r : Req) : State :=
  let crec := baseWord (argOf r 2)
  let s := meterRecord s crec
  let u := updOf s (argOf r 0)
  let seq := match goodRecord s crec with
    | some bs => natAt bs 0 8
    | none => 0
  doneOk (setUpd s (argOf r 0) { u with gtab := baseWord (argOf r 1), crec := crec, noise := baseWord (argOf r 3), seq := seq }) r []

def execUpdBaseCfg (s : State) : Host.Outcome State Fault Refusal := .next (runCmdMem s 0x0504 baseCfgCheck baseCfgRanges baseCfgDo)

/-! ### UPD_SET_QUERY and UPD_ROLL_FORWARD (R226, R388) -/

def updQueryCheck (s : State) (r : Req) : Option Reply := firstOf (unused r 2 :: partLive s (argOf r 0))

def updQueryDo (s : State) (r : Req) : State :=
  let u := updOf s (argOf r 0)
  let v := usetOf u (argOf r 1)
  doneOk s r (natBytes 1 (roundCode v.st) ++ natBytes 1 (b2n v.parity) ++ natBytes 1 v.attempt ++ [0#8] ++
    natBytes 4 v.step.toNat ++ natBytes 8 u.seq)

def execUpdSetQuery (s : State) : Host.Outcome State Fault Refusal := .next (runCmd s 0x0505 updQueryCheck updQueryDo)

def rollCheck (s : State) (r : Req) : Option Reply :=
  let u := updOf s (argOf r 0)
  firstOf (unused r 2 :: partLive s (argOf r 0) ++ [need (roundIdle u (argOf r 1)) (roundConflict s u (argOf r 1))])

/-- The commit the record did not show is applied: the record is written, the parity flips and STEP advances. -/
def rollDo (s : State) (r : Req) : State :=
  let p := argOf r 0
  let k := argOf r 1
  let u := updOf s p
  let s := updWrite s (recordAddr u) (commitRecord u k)
  let u := updOf s p
  let v := usetOf u k
  let s := setUpd s p { setUset u k { v with parity := !v.parity, step := v.step + 1 } with seq := u.seq + 1 }
  doneOk (commitSeen s k p) r []

def rollRanges (s : State) (r : Req) : List (Nat × Nat) × List (Nat × Nat) :=
  ([], [(recordAddr (updOf s (argOf r 0)), 512)])

/-- One record is written at a time: the command waits while another set's is under way (R223). -/
def rollWaits (s : State) : Bool :=
  s.jante.exam.any (fun r => r.opcode == 0x0506 && committing (updOf s (argOf r 0)) && (rollCheck s r).isNone)

def execUpdRollForward (s : State) : Host.Outcome State Fault Refusal :=
  .next (if rollWaits s then s else runCmdMem s 0x0506 rollCheck rollRanges rollDo)

end Sys2Proof.Machine
end

