-- ==== Sys2Proof/Machine/JanteFar.lean ====
section
/-!
DEFINITION. Commands on the far exchange (spec/13_far_exchange.md R294, R303-R305, R310, R313-R315).
-/

namespace Sys2Proof.Machine

/-! ### FAR_CONFIG (R314, R315) -/

def farPhaseCode : FarPhase → Nat
  | .none => 0 | .select => 1 | .opened => 2 | .closed => 3 | .applying => 4 | .joining => 5

def farConflict (s : State) : Reply := conflict s 0xFFFF (farPhaseCode s.far.phase) 4
def farQuiet (s : State) : Option Reply := need (!s.far.en) (farConflict s)

def farCfgOf (bs : List Byte) : FarCfg :=
  { fid := natAt bs 0 2, set := natAt bs 2 1, token := natAt bs 3 1, h := natAt bs 4 2, lag := natAt bs 6 2,
    budget := 1024 * natAt bs 8 4, deadline := natAt bs 12 4, guardMin := natAt bs 16 4, qmin := natAt bs 20 2,
    qfrac := natAt bs 22 2, wself := natAt bs 24 2, disc1 := natAt bs 26 2, disc2 := natAt bs 28 2, udpport := natAt bs 30 2,
    silence := natAt bs 32 4, sbuf := natAt bs 40 8, rbuf := natAt bs 48 8, frec := natAt bs 56 8 }

/-- The first field of a configuration outside its range, by its offset. -/
def farFieldFault (bs : List Byte) (c : FarCfg) : Option Nat :=
  let out (o lo hi n : Nat) : Option Nat := if lo ≤ n ∧ n ≤ hi then none else some o
  firstOf [
    out 0 1 65535 c.fid, out 2 0 63 c.set, out 3 0 63 c.token, out 4 1 65535 c.h, out 6 1 c.h c.lag,
    out 8 64 1048576 (natAt bs 8 4), out 12 1 3600000 c.deadline, out 16 0 10000 c.guardMin, out 20 1 256 c.qmin,
    out 22 0 256 c.qfrac, out 26 0 256 c.disc1, out 28 0 256 c.disc2, out 30 1 65535 c.udpport, out 32 10 600000 c.silence,
    out 36 0 0 (natAt bs 36 4), out 40 0 0 (c.sbuf % 65536), out 48 0 0 (c.rbuf % 65536), out 56 0 0 (c.frec % 65536)]

/-- Far state blocks loaded in partition `p`, but for group `but`. -/
def farBlocks (s : State) (p : Nat) (but : Option Nat) : List (Nat × Nat) :=
  ((Tbl.get [] s.far.groups p).filter (fun e => e.2.en && some e.1 != but)).filterMap (fun e =>
    (groupAt (keptUpd s p) e.1).map (fun g => (e.2.base, 24 * paddedCount g)))

/-- Everything in HBM that a buffer of the far exchange may not meet. -/
def takenAreas (s : State) : List (Nat × Nat) :=
  (List.range 8).flatMap (fun p => areasOf (keptUpd s p) ++ farBlocks s p none)

def presentParts (s : State) : List Nat := (List.range 8).filter (fun p => pstateOf s p != .absent)

/-- The two far-record copies of a partition (R303). -/
def frecRanges (c : FarCfg) (p : Nat) : List (Nat × Nat) := [(p * hbmWindow + c.frec, 64), (p * hbmWindow + c.frec + 4096, 64)]

def farConfigCheck (s : State) (r : Req) : Option Reply :=
  let bs := r.payload
  let c := farCfgOf bs
  let sb := (c.sbuf, c.budget)
  let rb := (c.rbuf, 1020 * c.budget)
  let clear (x : Nat × Nat) : Bool := (takenAreas s).all (fun a => !rangesMeet x a)
  firstOf [
    plenOk r 64,
    need (usableHbm s sb.1 sb.2 && clear sb) (addrPayload .lengthRange 40 c.sbuf),
    need (decide (c.budget ≤ 128 * 2 ^ 20) && usableHbm s rb.1 rb.2 && clear rb && !rangesMeet sb rb) (addrPayload .lengthRange 48 c.rbuf),
    need (decide (c.frec + 4160 ≤ sheetOffset) && (presentParts s).all (fun p =>
      (frecRanges c p).all (fun x => clear x && !rangesMeet sb x && !rangesMeet rb x))) (addrPayload .lengthRange 56 c.frec),
    unused r 0, (farFieldFault bs c).map badPayload, needLive s, farQuiet s]

/-- The configuration is set, and FPAR, SEQ and ROUND are those of the far records found (R313). -/
def farConfigDo (s : State) (r : Req) : State :=
  let c := farCfgOf r.payload
  let s := ((List.range 8).filter (partActive s)).foldl (fun s p => meterFarRecord s (p * hbmWindow + c.frec)) s
  let recs := ((List.range 8).filter (partActive s)).filterMap (fun p => (goodFarRecord s (p * hbmWindow + c.frec)).map (fun bs => (p, bs)))
  let next := recs.foldl (fun n e => max n (natAt e.2 8 4 + 1)) 0
  doneOk (updFar s (fun f => { f with
    cfg := some c, frec := (presentParts s).map (fun p => (p, p * hbmWindow + c.frec)), phase := .none, k := next, next := next, begun := !recs.isEmpty, stopped := false, terms := [], applied := [], sel := [],
    fpar := recs.map (fun e => (e.1, natAt e.2 12 1 == 1)), recSeq := recs.map (fun e => (e.1, natAt e.2 0 8)),
    recRound := recs.map (fun e => (e.1, natAt e.2 8 4)) })) r []

def farConfigRanges (s : State) (r : Req) : List (Nat × Nat) × List (Nat × Nat) :=
  (((List.range 8).filter (partActive s)).flatMap (frecRanges (farCfgOf r.payload)), [])

def execFarConfig (s : State) : Host.Outcome State Fault Refusal := .next (runCmdMem s 0x0601 farConfigCheck farConfigRanges farConfigDo)

/-! ### FAR_GROUP_LOAD (R294) -/

def farEntry (bs : List Byte) : FarGroup := ⟨natAt bs 0 8, (natAt bs 8 1).testBit 0⟩

def farSet (s : State) : Nat := (s.far.cfg.map (·.set)).getD 0

/-- Entry `i` of a table: its offset where a field is wrong, or its update group is not a fit one. -/
def farEntryFault (s : State) (p i : Nat) (bs : List Byte) : Option Nat :=
  let e := farEntry bs
  if natAt bs 8 1 / 2 ≠ 0 then some 8
  else if natAt bs 9 7 ≠ 0 then some 9
  else if e.base % 4096 ≠ 0 then some 0
  else if !e.en then none
  else
    match groupAt (updOf s p) i with
    | some g => if g.en && !slowGroup g && g.set == farSet s then none else some 8
    | none => some 8

/-- The table as the load leaves it. -/
def farTable (s : State) (p : Nat) (es : List (List Byte)) : State :=
  updFar s (fun f => { f with groups := Tbl.set f.groups p (es.zipIdx.foldl (fun t e => Tbl.set t e.2 (farEntry e.1)) (Tbl.get [] f.groups p)) })

/-- The block of an enabled entry lies where it may. -/
def farBlockOk (s : State) (p i : Nat) (bs : List Byte) : Bool :=
  let e := farEntry bs
  match groupAt (updOf s p) i with
  | some g =>
    let b := (e.base, 24 * paddedCount g)
    !e.en || (inPart s p b.1 b.2 && (areasOf (updOf s p) ++ farBlocks s p (some i)).all (fun a => !rangesMeet b a))
  | none => true

def farLoadCheck (s : State) (r : Req) : Option Reply :=
  let p := argOf r 0
  let n := min (argOf r 2) 257
  let es := imageEntries s (argOf r 1) 16 n
  let at_ (st : Status) (i o : Nat) : Reply := faultReply st (atImage (16 * i + o) (argOf r 1 + 16 * i + o))
  let t := farTable s p es
  firstOf ([
    need (decide (n ≤ 256)) (lengthArg 2), plainImage s 1 (argOf r 1) (16 * n),
    (List.range n).findSome? (fun i => need (farBlockOk t p i (es.getD i [])) (at_ .lengthRange i 0)), unused r 3,
    (List.range n).findSome? (fun i => (farEntryFault s p i (es.getD i [])).map (at_ .badArg i))] ++ partLive s p ++
    [farQuiet s, plainImageState s (argOf r 1) (16 * n)])

/-- Enabled far groups among the entries loaded. -/
def farLoaded (s : State) (p n : Nat) : List FarG := (farGroups s).filter (fun x => x.p == p && decide (x.gi < n))

def farLoadRanges (s : State) (r : Req) : List (Nat × Nat) × List (Nat × Nat) :=
  let p := argOf r 0
  let n := min (argOf r 2) 256
  ([(argOf r 1, 16 * n)],
   (farLoaded (farTable s p (imageEntries s (argOf r 1) 16 n)) p n).map (fun x => (planeBase x 2 0, 8 * paddedCount x.g)))

/-- The table is loaded and both residual copies are zero. -/
def farLoadDo (s : State) (r : Req) : State :=
  let p := argOf r 0
  let s := farTable s p (imageEntries s (argOf r 1) 16 (argOf r 2))
  doneOk ((farLoaded s p (argOf r 2)).foldl (fun s x => farWrite s (planeBase x 2 0) (List.replicate (8 * paddedCount x.g) 0#8)) s) r []

def execFarGroupLoad (s : State) : Host.Outcome State Fault Refusal :=
  .next (runCmdMem s 0x0602 farLoadCheck farLoadRanges farLoadDo)

/-! ### Partners (R304) -/

def partnerConflict (s : State) (e : Nat) : Reply := conflict s e 0xFF 5

def partnerFault (s : State) (bs : List Byte) : Option Nat :=
  firstOf [
    if natAt bs 0 2 = 0 ∨ s.far.cfg.map (·.fid) = some (natAt bs 0 2) then some 0 else none,
    if 8 ≤ natAt bs 3 1 then some 3 else none, if natAt bs 8 4 < 1 ∨ 800000 < natAt bs 8 4 then some 8 else none,
    ((List.range 28).find? (fun i => natAt bs (36 + i) 1 != 0)).map (36 + ·)]

def partnerSetCheck (s : State) (r : Req) : Option Reply :=
  firstOf [plenOk r 64, unused r 1, (partnerFault s r.payload).map badPayload, needLive s,
           need ((partnerOf s (argOf r 0)).st == .left) (partnerConflict s (argOf r 0))]

/-- The entry as written; epochs and sequence numbers stay with a partner that returns. -/
def partnerNew (old : Partner) (bs : List Byte) : Partner :=
  let flags := natAt bs 3 1
  let keep : Partner := if old.fid = natAt bs 0 2 then
      { partnerEmpty with seq := old.seq, high := old.high, seen := old.seen, epochs := old.epochs, switched := old.switched,
                          overlap := old.overlap, maxRtt := old.maxRtt }
    else partnerEmpty
  { keep with
    fid := natAt bs 0 2, st := .joining, port := b2n (flags.testBit 0), failover := flags.testBit 1, vlanOn := flags.testBit 2,
    wt := natAt bs 4 2, vlan := natAt bs 6 2, pace := natAt bs 8 4, udp := natAt bs 12 2, mac := bytesAt bs 14 6,
    addr := bytesAt bs 20 16 }

/-- The bucket of a new partner is full (notes/assumptions/68.md). -/
def bucketFilled (s : State) (p : Partner) : Partner := { p with bucket := bucketCap p, stamp := tickNow s }

def partnerSetDo (s : State) (r : Req) : State :=
  doneOk (updPartner s (argOf r 0) (fun p => bucketFilled s (partnerNew p r.payload))) r []

def execFarPartnerSet (s : State) : Host.Outcome State Fault Refusal := .next (runCmd s 0x0603 partnerSetCheck partnerSetDo)

def partnerDelCheck (s : State) (r : Req) : Option Reply := firstOf [unused r 1, needLive s]

/-- LEAVE is sent and the entry is LEFT. -/
def partnerDelDo (s : State) (r : Req) : State :=
  let e := argOf r 0
  doneOk (if (partnerOf s e).st = .left then s else partnerLeft (sendFrame s e (bareFrame typeLeave)) e) r []

def execFarPartnerDel (s : State) : Host.Outcome State Fault Refusal := .next (runCmd s 0x0604 partnerDelCheck partnerDelDo)

/-! ### FAR_JOIN, FAR_ENABLE and FAR_DISABLE (R305, R313, R314) -/

def farJoinCheck (s : State) (r : Req) : Option Reply :=
  firstOf [unused r 1, needLive s, need (s.far.cfg.isSome && !s.far.begun && s.far.phase == .none) (farConflict s),
           need ((partnerOf s (argOf r 0)).st != .left) (partnerConflict s (argOf r 0))]

def farJoinDo (s : State) (r : Req) : State :=
  let e := argOf r 0
  let s := updFar s (fun f => { f with phase := .joining, join := some ⟨e, 0, 0, 0, false⟩ })
  stayPend (sendFrame s e (bareFrame typeJoin)) r (.partner e) 0

def execFarJoin (s : State) : Host.Outcome State Fault Refusal := .next (runCmd s 0x0605 farJoinCheck farJoinDo)

def farEnableCheck (s : State) (r : Req) : Option Reply := firstOf [unused r 0, needLive s, need s.far.cfg.isSome (farConflict s)]

/-- Rounds start at the next commit due, or the close and the apply that failed are repeated. -/
def farEnableDo (s : State) (r : Req) : State :=
  let step := (s.far.cfg.map (farStep s)).getD 0
  let s := updFar s (fun f => { f with en := true, enStep := step })
  doneOk (if s.far.stopped then farRepeat s else s) r []

def execFarEnable (s : State) : Host.Outcome State Fault Refusal := .next (runCmdMem s 0x0606 farEnableCheck (fun s _ => repeatRanges s) farEnableDo)

def farDisableCheck (s : State) (r : Req) : Option Reply := firstOf [unused r 0, needLive s, need s.far.en (farConflict s)]

/-- An open round is void: it sends nothing more. -/
def voidOpen (s : State) : State :=
  if s.far.phase = .select ∨ s.far.phase = .opened then
    raiseVector (updFar s (fun f => { f with
      phase := .none, void := true, k := f.k + 1, sel := [],
      partners := f.partners.map (fun e => (e.1, { e.2 with sends := e.2.sends.filter (fun x => x.bulk || x.round != f.k) })) })) 19
  else s

def farDisableDo (s : State) (r : Req) : State :=
  let s := voidOpen (updFar s (fun f => { f with en := false }))
  doneOk ((livePartners s).foldl (fun s e => sendFrame s e.1 (bareFrame typeLeave)) s) r []

def execFarDisable (s : State) : Host.Outcome State Fault Refusal := .next (runCmd s 0x0607 farDisableCheck farDisableDo)

/-! ### Queries (R310, R388) -/

def farQueryCheck (n : Nat) (s : State) (r : Req) : Option Reply := firstOf [unused r n, needLive s]

def intBytes8 (x : Int) : List Byte := natBytes 8 (BitVec.ofInt 64 x).toNat

def summaryBytes (s : State) : List Byte :=
  (List.range 16).map (Config.farSummary s.far.en (farPhaseCode s.far.phase) s.far.k s.far.next s.far.forced s.far.void)

/-- The summary, then as many held contributions as a response holds. -/
def roundQueryDo (s : State) (r : Req) : State :=
  let cs := (heldContribs s).flatMap (fun h => natBytes 2 h.2.1.fid ++
    natBytes 1 (BitVec.ofInt 8 (ageOf s h.2.2.round)).toNat ++ [0#8] ++ natBytes 4 h.2.2.round)
  doneOk s r ((summaryBytes s ++ cs).take 4096)

def execFarRoundQuery (s : State) : Host.Outcome State Fault Refusal := .next (runCmd s 0x0608 (farQueryCheck 0) roundQueryDo)

def partnerNo : PartnerSt → Nat
  | .joining => 0 | .active => 1 | .silent => 2 | .left => 3

def timeQueryDo (s : State) (r : Req) : State :=
  let p := partnerOf s (argOf r 0)
  doneOk s r (intBytes8 p.theta ++ intBytes8 p.delta ++ [Config.farTimeState p.timed p.holdover (partnerNo p.st)] ++ List.replicate 7 0#8)

def execFarTimeQuery (s : State) : Host.Outcome State Fault Refusal := .next (runCmd s 0x0609 (farQueryCheck 1) timeQueryDo)

end Sys2Proof.Machine
end

