-- ==== Sys2Proof/Machine/JanteCipher.lean ====
section
/-!
DEFINITION. Commands on the cipher engine and the Bindery, and the grant of the engine's lock
(spec/14_cipher_engine.md R318-R332, spec/15_bindery.md R340-R356).
-/

namespace Sys2Proof.Machine

/-! ### Bindings (R318, R332) -/

def slotConflict (s : State) (k : Nat) : Reply := conflict s k 0xFF 5

/-- No slot holds a key unwrapped under the binding. -/
def needUnbound (s : State) (b : Nat) : Option Reply :=
  (s.cip.slots.find? (fun e => e.2.bind == b)).map (fun e => slotConflict s e.1)

def cipBindCheck (s : State) (r : Req) : Option Reply :=
  firstOf [plenOk r 64, unused r 1, need (ecPointOf (r.payload.take 64)).isSome (badPayload 0), needLive s, needUnbound s (argOf r 0)]

def cipBindDo (s : State) (r : Req) : State :=
  let b := argOf r 0
  let pub := r.payload.take 64
  doneOk (updCip s (fun c => { c with binds := Tbl.set c.binds b pub, keks := Tbl.set c.keks b (kekOf b pub) })) r []

def execCipBind (s : State) : Host.Outcome State Fault Refusal := .next (runCmd s 0x0701 cipBindCheck cipBindDo)

def cipUnbindCheck (s : State) (r : Req) : Option Reply := firstOf [unused r 1, needLive s, needUnbound s (argOf r 0)]

def cipUnbindDo (s : State) (r : Req) : State :=
  doneOk (updCip s (fun c => { c with binds := Tbl.del c.binds (argOf r 0), keks := Tbl.del c.keks (argOf r 0) })) r []

def execCipUnbind (s : State) : Host.Outcome State Fault Refusal := .next (runCmd s 0x0702 cipUnbindCheck cipUnbindDo)

/-! ### Keys (R319, R320) -/

/-- The key-encryption key of the binding a blob names. -/
def blobKek (s : State) (bs : List Byte) : Option (List Byte) := Tbl.get? s.cip.keks (natAt bs 4 1)

/-- Orders 1 and 2 of R320. -/
def unwrapChecks (s : State) (r : Req) : Option Reply :=
  let bs := r.payload
  firstOf [
    need (!slotInUse s (argOf r 0)) (.tableBusy, []), need (natAt bs 0 4 == 0x4B424C42) (badPayload 0),
    need (decide (natAt bs 4 1 < 4) && (blobKek s bs).isSome) (badPayload 4), need (natAt bs 5 3 == 0) (badPayload 5)]

def cipUnwrapCheck (s : State) (r : Req) : Option Reply := firstOf [unused r 1, needLive s, plenOk r 64, unwrapChecks s r]

/-- The MP holds the engine: the blob is checked and unwrapped into its slot. -/
def unwrapNow (s : State) (r : Req) : State × Reply :=
  match unwrapChecks s r with
  | some a => (s, a)
  | none =>
    match (blobKek s r.payload).bind (fun k => unwrapBlob k (natAt r.payload 4 1) (r.payload.take 64)) with
    | none => (s, (.authFail, []))
    | some k => (updCip s (fun c => { c with slots := Tbl.set c.slots (argOf r 0) k }), okReply [])

/-! ### Far-port installs (R329, R330) -/

def nextEpoch (n : Nat) : Nat := if 65535 ≤ n then 1 else n + 1

def installChecks (s : State) (r : Req) : Option Reply :=
  let p := partnerOf s (argOf r 1)
  firstOf [
    need (match curEpoch p with
      | some k => argOf r 2 == nextEpoch k.num
      | none => true) (badArg 2),
    need (match Tbl.get? s.cip.slots (argOf r 0) with
      | some k => k.use.testBit 2
      | none => false) (faultReply .notPresent (atArg 0)),
    need (p.fid != 0) (faultReply .notPresent (atArg 1)), needLive s, need (decide (p.epochs.length < 2)) (partnerConflict s (argOf r 1))]

def cipInstallCheck (s : State) (r : Req) : Option Reply :=
  firstOf [need (decide (1 ≤ argOf r 2) && decide (argOf r 2 ≤ 65535)) (badArg 2), unused r 3, installChecks s r]

/-- The far exchange holds the engine: the key goes to a free epoch position. -/
def installNow (s : State) (r : Req) : State × Reply :=
  match installChecks s r with
  | some a => (s, a)
  | none =>
    let key := ((Tbl.get? s.cip.slots (argOf r 0)).map (·.key)).getD []
    (updPartner s (argOf r 1) (fun p => { p with
      epochs := p.epochs ++ [⟨argOf r 2, key, if (curEpoch p).isSome then .rx else .cur⟩], maxRtt := guardRtt p }), okReply [])

/-! ### The lock and what waits for it (R322) -/

/-- The next command of an opcode has its effect and completes. -/
def serveOne (s : State) (op : Nat) (act : State → Req → State × Reply) : State :=
  match s.jante.pend.find? (pendOp op) with
  | none => s
  | some p => let x := act s p.req; finishPend x.1 (pendOp op) x.2.1 x.2.2

def serveAll (op : Nat) (act : State → Req → State × Reply) : Nat → State → State
  | 0, s => s
  | n + 1, s => serveAll op act n (serveOne s op act)

/-- The movers' bank as CIP_MOVE carries it. -/
def moverBank (s : State) (bs : List Byte) : State :=
  (List.range 14).foldl (fun s k => setBankDw s .movers k
    (BitVec.ofNat 32 (natAt bs (4 * k) 4) &&& (if k = 0 then 0x303F0000#32 else 0xFFFFFFFF#32))) s

/-- The movers hold the engine: the message of the first CIP_MOVE is checked and started. -/
def serveMove (s : State) : State :=
  match s.jante.pend.find? (pendOp 0x0708) with
  | none => lockRelease s .movers
  | some p =>
    let s := moverBank s p.req.payload
    let m := bankMsg s .movers
    let st := msgCheck s m
    if st = .ok then msgStart s m else msgEnd s m st

/-- The owner the lock was granted to does what it asked for it for. -/
def serveOwner (s : State) : State :=
  if s.cip.running.isSome then s
  else
    match s.cip.owner with
    | some .mp => lockRelease (serveAll 0x0703 unwrapNow s.jante.pend.length s) .mp
    | some .far => lockRelease (serveAll 0x0705 installNow s.jante.pend.length s) .far
    | some .movers => serveMove s
    | _ => s

def grantServe (s : State) : State := serveOwner (lockGrant s)

def execCipLockGrant (s : State) : Host.Outcome State Fault Refusal := .next (if clocksRun s.dev then grantServe s else s)

/-- A command of an owner waits for the lock; where it comes at once the command is served. -/
def askLock (s : State) (r : Req) (o : Owner) (obj : Obj) (note : Nat) : State :=
  grantServe (lockRequest (stayPend s r obj note) o)

/-- A command that still waits for the lock. -/
def waitsLock (s : State) (p : Pend) : Bool :=
  pendOp 0x0703 p || pendOp 0x0705 p || (pendOp 0x0708 p && !(moversActive s && s.jante.pend.find? (pendOp 0x0708) == some p))

def lockOwner (p : Pend) : Owner := if pendOp 0x0703 p then .mp else if pendOp 0x0705 p then .far else .movers

/-- The oldest command not granted the lock within 10 ms returns LOCKED. -/
def lockTimeout (s : State) : State :=
  match s.jante.pend.find? (waitsLock s) with
  | none => s
  | some p =>
    let o := lockOwner p
    let s := finishPend s (waitsLock s) .locked []
    if s.jante.pend.any (fun q => waitsLock s q && lockOwner q == o) then s
    else updCip s (fun c => { c with wait := c.wait.filter (· != o) })

def execCipLockWaitTimeout (s : State) : Host.Outcome State Fault Refusal :=
  .next (if clocksRun s.dev ∧ !s.rst.mpDown then lockTimeout s else s)

def execCipUnwrap (s : State) : Host.Outcome State Fault Refusal :=
  .next (runCmd s 0x0703 cipUnwrapCheck (fun s r => askLock s r .mp (.keySlot (argOf r 0)) 0))

def execCipFarInstall (s : State) : Host.Outcome State Fault Refusal :=
  .next (runCmd s 0x0705 cipInstallCheck (fun s r => askLock s r .far (.partner (argOf r 1)) (argOf r 0)))

/-! ### The other cipher commands -/

def slotClearCheck (s : State) (r : Req) : Option Reply :=
  firstOf [unused r 1, needLive s, need (!slotInUse s (argOf r 0)) (.tableBusy, [])]

def slotClearDo (s : State) (r : Req) : State := doneOk (updCip s (fun c => { c with slots := Tbl.del c.slots (argOf r 0) })) r []

def execCipSlotClear (s : State) : Host.Outcome State Fault Refusal := .next (runCmd s 0x0704 slotClearCheck slotClearDo)

def farSwitchCheck (s : State) (r : Req) : Option Reply :=
  firstOf [unused r 1, needLive s, need ((partnerOf s (argOf r 0)).epochs.any (·.st == .rx)) (partnerConflict s (argOf r 0))]

/-- RX becomes CUR and CUR becomes OLD; the overlap begins with a frame under the new epoch (R330, R331). -/
def farSwitchDo (s : State) (r : Req) : State :=
  let turn (e : EpochSt) : EpochSt := match e with
    | .rx => .cur
    | _ => .old
  doneOk (updPartner s (argOf r 0) (fun p =>
    { p with epochs := p.epochs.map (fun e => { e with st := turn e.st }), switched := true, overlap := none })) r []

def execCipFarSwitch (s : State) : Host.Outcome State Fault Refusal := .next (runCmd s 0x0706 farSwitchCheck farSwitchDo)

def epochNo (p : Partner) (st : EpochSt) : Nat := ((p.epochs.find? (·.st == st)).map (·.num)).getD 0

def partnerRow (p : Partner) : List Byte :=
  natBytes 2 (epochNo p .cur) ++ natBytes 2 (epochNo p .rx) ++ natBytes 2 (epochNo p .old) ++ natBytes 8 (p.overlap.getD 0) ++ natBytes 2 0

def slotRow (k : Option KeySlot) : List Byte :=
  match k with
  | some k => natBytes 1 k.use ++ natBytes 1 k.owners ++ natBytes 2 0 ++ natBytes 4 k.keyid
  | none => List.replicate 8 0#8

/-- Slots and partners, as far as a response holds them. -/
def cipQueryDo (s : State) (r : Req) : State :=
  doneOk s r (((List.range 64).flatMap (fun k => slotRow (Tbl.get? s.cip.slots k)) ++
    (List.range 255).flatMap (fun e => partnerRow (partnerOf s (e + 1)))).take 4096)

def execCipQuery (s : State) : Host.Outcome State Fault Refusal := .next (runCmd s 0x0707 (farQueryCheck 0) cipQueryDo)

/-- The control word of a bank image: GO clear, a known operation, the rest zero. -/
def moveCtlOk (bs : List Byte) : Bool := natAt bs 0 4 &&& 0xEFC0FFFF == 0

def cipMoveCheck (s : State) (r : Req) : Option Reply := firstOf [plenOk r 56, unused r 0, need (moveCtlOk r.payload) (badPayload 0), needLive s]

def execCipMove (s : State) : Host.Outcome State Fault Refusal :=
  .next (runCmd s 0x0708 cipMoveCheck (fun s r => askLock s r .movers .none 0))

/-! ### The Bindery (R340, R344, R345, R353, R354, R356) -/

/-- The words of the Bindery's registers (R357). -/
def bndStatusWord (s : State) : W32 :=
  BitVec.ofNat 32 (b2n s.bnd.run.isSome * 2 ^ 31 + min 4 s.bnd.queue.length * 2 ^ 28 + s.bnd.lastJob % 65536)
def bndLanesWord (s : State) : W32 := BitVec.ofNat 32 ((List.range 32).foldl (fun n d => n + b2n (Tbl.get? s.bnd.lanes d).isSome * 2 ^ d) 0)
def bndCntWord (s : State) : W32 :=
  BitVec.ofNat 32 (s.bnd.cntFail % 65536 * 2 ^ 16 + s.bnd.cntBad % 256 * 2 ^ 8 + s.bnd.cntGrain % 256)

def bndConflict (s : State) : Reply := conflict s 0xFFFF 0xFF 6
def needNoJob (s : State) : Option Reply := need s.bnd.run.isNone (bndConflict s)

def fsCfgCheck (s : State) (r : Req) : Option Reply :=
  firstOf [need (decide (argOf r 0 + argOf r 1 ≤ sheetOffset)) (lengthArg 1), unused r 2, needLive s, needNoJob s,
           need s.bnd.queue.isEmpty (bndConflict s)]

def fsCfgDo (s : State) (r : Req) : State := doneOk (updBnd s (fun b => { b with fsOff := argOf r 0, fsSize := argOf r 1 })) r []

def execBndFsCfg (s : State) : Host.Outcome State Fault Refusal := .next (runCmd s 0x0801 fsCfgCheck fsCfgDo)

/-- The 512 coefficients of a filter. -/
def coeffsOf (bs : List Byte) : List Int := (List.range 512).map (fun i => signedOf 16 (natAt bs (2 * i) 2))

/-- The first phase whose coefficients do not sum to 16,384. -/
def badPhase (cs : List Int) : Option Nat := (List.range 64).find? (fun p => decide (((cs.drop (8 * p)).take 8).sum ≠ 16384))

def filterCheck (s : State) (r : Req) : Option Reply :=
  firstOf [plenOk r 1024, unused r 1, (badPhase (coeffsOf r.payload)).map (fun p => badPayload (16 * p)), needLive s, needNoJob s]

def filterDo (s : State) (r : Req) : State :=
  doneOk (updBnd s (fun b => { b with filters := Tbl.set b.filters (argOf r 0) (coeffsOf r.payload) })) r []

def execBndFilterLoad (s : State) : Host.Outcome State Fault Refusal := .next (runCmd s 0x0802 filterCheck filterDo)

def colourCheck (s : State) (r : Req) : Option Reply := firstOf [plenOk r 48, unused r 1, needLive s, needNoJob s]

/-- M, O, S and B are 18 codes, 72 bytes; a payload of 48 gives the first twelve, and the rest are free values
(notes/assumptions/42.md). -/
def colourDo (s : State) (r : Req) : State :=
  let code (i : Nat) : Nat := if 4 * i + 4 ≤ r.plen then natAt r.payload (4 * i) 4 else (Config.colourRest s.freeCtr i).toNat
  let s := updBnd s (fun b => { b with colours := Tbl.set b.colours (argOf r 0) ((List.range 18).map code) })
  doneOk { s with freeCtr := s.freeCtr + (if r.plen < 72 then 1 else 0) } r []

def execBndColourLoad (s : State) : Host.Outcome State Fault Refusal := .next (runCmd s 0x0803 colourCheck colourDo)

/-- The first field of a job descriptor that breaks the table, by its offset. -/
def jobFault (s : State) (bs : List Byte) (j : BndJob) : Option Nat :=
  firstOf [
    if j.ctab % 64 ≠ 0 ∨ !usableHbm s j.ctab (64 * j.n) then some 0 else none, if j.n < 1 then some 8 else none,
    if j.nmb < 1 then some 28 else none, if j.b < 1 ∨ 126 < j.b then some 32 else none,
    if [8, 14, 16, 32].contains j.p then none else some 33, if [1, 2, 4].contains j.t then none else some 34,
    if 4 ≤ natAt bs 35 1 then some 35 else none, if jobCcwOk j.ccw then none else some 36, if 7 < j.sreg then some 38 else none,
    if 3 < j.lreg then some 39 else none, if 63 < j.token then some 40 else none, if j.nbuf < 1 ∨ 16 < j.nbuf then some 41 else none,
    if natAt bs 42 2 ≠ 0 then some 42 else none, if j.maxRows < 1 ∨ 65536 < j.maxRows then some 44 else none,
    if j.buf % 4096 ≠ 0 then some 48 else none, if natAt bs 60 4 ≠ 0 then some 60 else none]

def jobSubmitCheck (s : State) (r : Req) : Option Reply :=
  let bs := r.payload
  let j := jobOf 0 bs
  firstOf [
    unused r 0, needLive s, plenOk r 64,
    need (usableHbm s j.buf (j.nbuf * jobStride j)) (addrPayload .lengthRange 48 j.buf),
    need (decide ((j.firstMb + j.nmb) * j.b ≤ j.n)) (lengthPayload 24), (jobFault s bs j).map badPayload,
    need (s.bnd.fsSize != 0) (bndConflict s), need (decide (s.bnd.queue.length < 4)) (.busy, [])]

/-- The job joins the queue, and starts where none runs. -/
def jobSubmitDo (s : State) (r : Req) : State :=
  let n := s.bnd.nextJob + 1
  let num := n % 65536
  let s := updBnd s (fun b => { b with nextJob := num, queue := b.queue ++ [jobOf num r.payload] })
  doneOk (startJobs s.bnd.queue.length s) r (natBytes 2 num)

def execBndJobSubmit (s : State) : Host.Outcome State Fault Refusal := .next (runCmd s 0x0804 jobSubmitCheck jobSubmitDo)

def jobStopCheck (s : State) (r : Req) : Option Reply := firstOf [unused r 0, needLive s, need s.bnd.run.isSome (bndConflict s)]

/-- No further clip starts and no further piece is handed off. -/
def jobStopDo (s : State) (r : Req) : State :=
  stayPend (updBnd s (fun b => { b with run := b.run.map (fun x => { x with stopping := true }) })) r .bindery 0

def execBndJobStop (s : State) : Host.Outcome State Fault Refusal := .next (runCmd s 0x0805 jobStopCheck jobStopDo)

def bndQueryDo (s : State) (r : Req) : State :=
  let head := natBytes 4 (bndStatusWord s).toNat ++ natBytes 4 s.bnd.mbCount ++ natBytes 4 (bndLanesWord s).toNat ++
    natBytes 4 s.bnd.err.toNat ++ natBytes 4 (bndCntWord s).toNat ++ s.bnd.queue.flatMap (fun j => natBytes 2 j.num)
  doneOk s r ((head ++ List.replicate 12 0#8).take 32)

def execBndQuery (s : State) : Host.Outcome State Fault Refusal := .next (runCmd s 0x0806 (farQueryCheck 0) bndQueryDo)

end Sys2Proof.Machine
end

