-- ==== Sys2Proof/Machine/JanteDevice.lean ====
section
/-!
DEFINITION. Commands on the device, the Folio, the slow-tier map, power, resets and firmware
(spec/18_mailbox_commands.md; R367, R378, R396, R403-R409, R414, R424, R431, R443, R444).
-/

namespace Sys2Proof.Machine

/-! ### Device and Folio (R367, R388) -/

def devQueryCheck (s : State) (r : Req) : Option Reply :=
  firstOf [unused r 0, if s.dev = .standby then none else needAny s]

def devQueryDo (s : State) (r : Req) : State := doneOk s r (statePayload s noConflict ++ revisionsBody s)

def execDevQuery (s : State) : Host.Outcome State Fault Refusal := .next (runCmd s 0x0101 devQueryCheck devQueryDo)

/-- A board part from GATHERING to BEND, without what follows it. -/
def partBytes (bs : List Byte) : List Byte :=
  match (recordsOf 0x01FF bs).bind (·.getLast?) with
  | some e => bs.take (e.off + 8 + e.body.length)
  | none => bs

/-- The checks of R367 in their order: a part or a record that passes its end, then a layout that is broken, then the device. -/
def boardWriteCheck (s : State) (r : Req) : Option Reply :=
  firstOf [unused r 0, plenOk r 0,
           match recordsFault 0x01FF r.payload with
           | some (true, off) => some (lengthPayload off)
           | some (false, off) => some (badPayload off)
           | none => none,
           need (boardOf r.payload).isSome (badPayload (partFault r.payload)),
           needQuiet s]

def boardWriteDo (s : State) (r : Req) : State := stayPend s r .boardWrite 0

def execFolBoardWrite (s : State) : Host.Outcome State Fault Refusal := .next (runCmd s 0x0110 boardWriteCheck boardWriteDo)

/-- The copy not in use is written, with the later write count. -/
def boardWritten (s : State) : State :=
  match s.jante.pend.find? (pendOp 0x0110) with
  | none => s
  | some p =>
    let bs := partBytes p.req.payload
    let n := max s.folio.count0 s.folio.count1 + 1
    let s := updFolio s (fun f => if f.copy then { f with board0 := bs, count0 := n } else { f with board1 := bs, count1 := n })
    finishPend s (pendOp 0x0110) .ok []

def execBoardWriteComplete (s : State) : Host.Outcome State Fault Refusal :=
  .next (if clocksRun s.dev ∧ !s.rst.mpDown then boardWritten s else s)

def folReadCheck (s : State) (r : Req) : Option Reply :=
  firstOf [unused r 1, need (decide (argOf r 0 < 256)) (badArg 0), needAny s]

def folReadDo (s : State) (r : Req) : State := doneOk s r (folioRead s (4096 * argOf r 0) 4096)

def execFolRead (s : State) : Host.Outcome State Fault Refusal := .next (runCmd s 0x0111 folReadCheck folReadDo)

/-! ### The slow-tier map (R378) -/

/-- `MEM_SLOWn_WIN` as the command sets it. -/
def slowWord (a1 : Nat) : W32 :=
  BitVec.ofNat 32 ((a1 / 2 ^ 63 % 2) * 2 ^ 31 + (a1 / 2 ^ 30 % 2 ^ 17) * 2 ^ 14 + a1 % 2 ^ 14)

def winBase (w : W32) : Nat := bits w 30 14
def winEnd (w : W32) : Nat := bits w 30 14 + bits w 13 0

/-- An enabled window beside window `n` overlaps the new one. -/
def winOverlaps (s : State) (n : Nat) (w : W32) : Bool :=
  (List.range 16).any (fun k =>
    let v := Tbl.get 0#32 s.cxl.slowWin k
    k != n && bitAt v 31 && decide (winBase v < winEnd w) && decide (winBase w < winEnd v))

/-- An enabled update group places state in window `n`. -/
def groupInWindow (s : State) (n : Nat) : Bool :=
  let w := Tbl.get 0#32 s.cxl.slowWin n
  let meets (a len : Nat) : Bool :=
    decide (slowOff a < winEnd w * 2 ^ 30) && decide (winBase w * 2 ^ 30 < slowOff a + len)
  bitAt w 31 && s.upd.any (fun e => e.2.groups.any (fun g =>
    let len := slotBytes g.2 (ruleAt e.2 g.2).mom
    g.2.en && slowGroup g.2 && (meets g.2.sbase0 len || meets g.2.sbase1 len)))

/-- Slow-tier lines that units have yet to request: an access of theirs is outstanding (R378, R379). -/
def slowWaiting (s : State) : List Nat :=
  s.movers.flatMap (fun e => e.2.queue.flatMap (fun a => a.slowTodo.map (·.1))) ++
  s.cmp.flatMap (fun e => e.2.exp.flatMap (fun x => x.2.flatMap (fun a => a.slowTodo.map (·.1)))) ++
  s.upd.flatMap (fun e => e.2.parks.flatMap (fun k => k.todo.map (·.1))) ++
  (s.cip.running.toList ++ s.cip.save0.toList ++ s.cip.save1.toList).flatMap (fun m => m.todo.map (fun t => t.1 % 0x800000000000))

/-- A slow-tier access to window `n` is outstanding (R378). -/
def windowBusy (s : State) (n : Nat) : Bool :=
  s.cxl.d2h.any (fun d => d.window == n) || (slowWaiting s).any (fun off => slowWindow s off == some n)

def slowMapCheck (s : State) (r : Req) : Option Reply :=
  let n := argOf r 0
  let w := slowWord (argOf r 1)
  let hpa := argOf r 2
  let changes := w != Tbl.get 0#32 s.cxl.slowWin n || BitVec.ofNat 32 (hpa / 2 ^ 30) != Tbl.get 0#32 s.cxl.slowHpa n
  firstOf [
    need (decide (argOf r 1 / 2 ^ 47 % 2 ^ 16 = 0) && decide (argOf r 1 / 2 ^ 14 % 2 ^ 16 = 0)) (badArg 1),
    need (decide (hpa % 2 ^ 30 = 0) && decide (hpa < 2 ^ 52)) (badArg 2), unused r 3,
    need (!bitAt w 31 || (bits w 13 0 != 0 && decide (winEnd w ≤ 131072) && !winOverlaps s n w)) (badArg 1),
    needLive s,
    need (!windowBusy s n && !(groupInWindow s n && changes)) (conflict s n 0xFF 0)]

def slowMapDo (s : State) (r : Req) : State :=
  doneOk { s with cxl := { s.cxl with slowWin := Tbl.set s.cxl.slowWin (argOf r 0) (slowWord (argOf r 1)),
                                      slowHpa := Tbl.set s.cxl.slowHpa (argOf r 0) (BitVec.ofNat 32 (argOf r 2 / 2 ^ 30)) } } r []

def execMemSlowMap (s : State) : Host.Outcome State Fault Refusal := .next (runCmd s 0x0301 slowMapCheck slowMapDo)

/-! ### Power (R396, R403, R407, R409, R414) -/

def capCheck (s : State) (r : Req) : Option Reply :=
  firstOf [need (decide (argOf r 0 ≤ 2000)) (badArg 0), unused r 1, if s.dev = .standby then none else needLive s]

/-- In STANDBY the cap is held; else a cap below the floor brings the floor and returns CAP_UNMET. -/
def capDo (s : State) (r : Req) : State :=
  let cap := argOf r 0
  if s.dev = .standby then doneOk (updPwr s (fun p => { p with cap := cap })) r []
  else if cap < floorW s then completeReq (setCap s cap) r .capUnmet (natBytes 4 (floorW s - cap))
  else doneOk (setCap s cap) r []

def execPwrCapSet (s : State) : Host.Outcome State Fault Refusal := .next (runCmd s 0x0901 capCheck capDo)

/-- Three different class codes, and bits 7 and 6 zero. -/
def orderOk (w : Nat) : Bool := decide (w < 64) && [0, 1, 2].all (fun c => (orderOf w).contains c)

def priorityCheck (s : State) (r : Req) : Option Reply :=
  firstOf [need (orderOk (argOf r 0)) (badArg 0), unused r 1, needLive s]

def priorityDo (s : State) (r : Req) : State := doneOk (updPwr s (fun p => { p with order := argOf r 0 })) r []

def execPwrPriority (s : State) : Host.Outcome State Fault Refusal := .next (runCmd s 0x0902 priorityCheck priorityDo)

def pavaneCheck (s : State) (r : Req) : Option Reply :=
  firstOf [need (decide (argOf r 0 < 2)) (badArg 0), unused r 1, needLive s]

def pavaneDo (s : State) (r : Req) : State := doneOk (setPavane s (argOf r 0 == 1)) r []

def execPwrPavane (s : State) : Host.Outcome State Fault Refusal := .next (runCmd s 0x0903 pavaneCheck pavaneDo)

/-- The last sample's draw. -/
def drawNow (s : State) : Nat := (s.pwr.samples.head?.map totalW).getD 0

def haltedOrLive (s : State) : Option Reply := need (live s || s.dev == .halted) (conflictNone s)

def pwrQueryCheck (s : State) (r : Req) : Option Reply := firstOf [unused r 0, haltedOrLive s]

def pwrQueryDo (s : State) (r : Req) : State :=
  doneOk s r (natBytes 4 s.pwr.cap ++ natBytes 4 (drawNow s) ++ natBytes 4 (floorW s) ++ natBytes 4 s.pwr.short ++
    natBytes 4 (pointMhz s.pwr.now) ++ natBytes 1 (b2n s.pwr.pavane) ++ List.replicate 11 0#8)

def execPwrQuery (s : State) : Host.Outcome State Fault Refusal := .next (runCmd s 0x0904 pwrQueryCheck pwrQueryDo)

def standbyCheck (s : State) (r : Req) : Option Reply := firstOf [unused r 0, needQuiet s]

/-- OK, then every clock outside the always-on domain stops; commands not complete are lost. -/
def standbyDo (s : State) (r : Req) : State := { standby (doneOk s r []) with jante := janteReset }

def execPwrStandby (s : State) : Host.Outcome State Fault Refusal := .next (runCmd s 0x0905 standbyCheck standbyDo)

def wakeCheck (s : State) (r : Req) : Option Reply :=
  firstOf [unused r 0, need (s.dev == .standby && r.src == 16) (conflictNone s)]

/-- OK and a start, or WAKEFAIL and STATE_CONFLICT (R414). -/
def wakeDo (lv : Levels) (s : State) (r : Req) : State :=
  let s := setLevels s lv
  if levelsOk s ∧ !s.devReset then wake (doneOk s r []) else wake (completeConflict s r noConflict)

def execPwrWake (lv : Levels) (s : State) : Host.Outcome State Fault Refusal := .next (runCmd s 0x0906 wakeCheck (wakeDo lv))

/-! ### Resets (R396, R419, R424, R431) -/

def rstPartCheck (s : State) (r : Req) : Option Reply :=
  firstOf [unused r 1, need (pstateOf s (argOf r 0) != .absent) (faultReply .notPresent (atArg 0)), needLive s,
           needPart s 0 (argOf r 0) .active]

def rstPartDo (s : State) (r : Req) : State := stayPend (requestFence s (argOf r 0) 0) r (.partition (argOf r 0)) 0

def execRstPartition (s : State) : Host.Outcome State Fault Refusal := .next (runCmd s 0x0A01 rstPartCheck rstPartDo)

/-- `lv` tells the power-goods that have been high for 1 ms (R399). -/
def activateCheck (lv : Levels) (s : State) (r : Req) : Option Reply :=
  let p := argOf r 0
  firstOf [unused r 1, need (pstateOf s p != .absent) (faultReply .notPresent (atArg 0)), needLive s, needPart s 0 p .idle,
           need (bitAt lv.rails p) (conflict s p (pstateCode (pstateOf s p)) 2)]

def activateDo (s : State) (r : Req) : State :=
  stayPend (updPwr s (fun p => { p with good := setBit p.good (argOf r 0) })) r (.partition (argOf r 0)) 0

def execRstPartActivate (lv : Levels) (s : State) : Host.Outcome State Fault Refusal :=
  .next (runCmd s 0x0A02 (activateCheck lv) activateDo)

def rstDeviceCheck (s : State) (r : Req) : Option Reply := firstOf [unused r 0, haltedOrLive s]

/-- OK; the warm reset follows. -/
def rstDeviceDo (lv : Levels) (s : State) (r : Req) : State :=
  updRst (setLevels (doneOk s r []) lv) (fun x => { x with warm := true })

def execRstDevice (lv : Levels) (s : State) : Host.Outcome State Fault Refusal :=
  .next (runCmd s 0x0A03 rstDeviceCheck (rstDeviceDo lv))

def rstQueryDo (s : State) (r : Req) : State :=
  let x := s.rst
  doneOk s r (natBytes 8 x.bTick.toNat ++ natBytes 1 x.kind ++ natBytes 1 0 ++ natBytes 2 x.detail ++ natBytes 4 x.bites ++
    natBytes 4 x.fences ++ natBytes 1 x.fPart ++ natBytes 1 x.fCause ++ natBytes 2 0 ++ natBytes 8 x.fTick.toNat)

def execRstQuery (s : State) : Host.Outcome State Fault Refusal := .next (runCmd s 0x0A04 pwrQueryCheck rstQueryDo)

/-! ### Firmware (R436, R443, R444) -/

/-- The bytes of the buffer an image can take up. -/
def stageLen (r : Req) : Nat := min (argOf r 1) 8388864

def staging (s : State) : Bool := s.jante.pend.any (pendOp 0x0B01)

/-- The buffer lies in memory up to its last byte (R8, R443). -/
def stageBuffer (s : State) (r : Req) : Option Reply :=
  let last := argOf r 0 + argOf r 1 - 1
  need (argOf r 1 == 0 || (decide (argOf r 1 ≤ hbmWindow) && match accOf s last with
    | .hbm _ => true
    | .fenced => true
    | _ => false)) (addrArg .lengthRange 1 last)

def fwStageCheck (s : State) (r : Req) : Option Reply :=
  firstOf [
    need (decide (argOf r 0 % 4096 = 0)) (badArg 0), unused r 2, needLive s, plenPasses r,
    need (!staging s) (conflictNone s), stageBuffer s r,
    match imageFault s (argOf r 0) (stageLen r) with
    | some (.ok a) => some (addrArg .lengthRange 0 a)
    | _ => none,
    match imageFault s (argOf r 0) (stageLen r) with
    | some (.error p) => some (conflict s p (pstateCode (pstateOf s p)) 2)
    | _ => none]

def fwStageRanges (_ : State) (r : Req) : List (Nat × Nat) × List (Nat × Nat) := ([(argOf r 0, stageLen r)], [])

/-- What R436 says of the image in the buffer, and the address to report: a bad tile of the image fails at the place of its
digest (R148). -/
def stageVerdict (s : State) (r : Req) (bs : List Byte) : Status × Nat :=
  let st := verifyImage bs (argOf r 1) s.sec.floor
  if st = .lengthRange ∨ st = .badArg ∨ st = .authFail then (st, argOf r 0)
  else match badTile s (argOf r 0) (min (stageLen r) (256 + natAt bs 20 4)) with
    | some a => (.checkFail, a)
    | none => (st, argOf r 0)

/-- The image is read through class 6 and verified, and the slot not used at this start begins to be written, or is marked
invalid. -/
def fwStageDo (s : State) (r : Req) : State :=
  let bs := devRead s (argOf r 0) (stageLen r)
  let s := meterVerify s none 6 (argOf r 0) (min (stageLen r) (256 + natAt bs 20 4))
  let slot := !s.sec.slot
  match stageVerdict s r bs with
  | (.ok, _) => stayPend (setSlotState s slot .writing) { r with payload := imageWhole bs } .firmware 0
  | (st, a) => completeReq (setSlotState s slot .invalid) r st
      (if st = .lengthRange ∨ st = .badArg ∨ st = .checkFail then faultPayload (atImage 0 a) else [])

def execSecFwStage (s : State) : Host.Outcome State Fault Refusal :=
  .next (runCmdMem s 0x0B01 fwStageCheck fwStageRanges fwStageDo)

/-- The slot is read back and verified again. -/
def fwStaged (s : State) : State :=
  match s.jante.pend.find? (pendOp 0x0B01) with
  | none => s
  | some p =>
    let slot := !s.sec.slot
    let bs := p.req.payload
    let s := updSec s (fun x => if slot then { x with img1 := some bs } else { x with img0 := some bs })
    match verifyImage bs bs.length s.sec.floor with
    | .ok => finishPend (setSlotState s slot .valid) (pendOp 0x0B01) .ok []
    | st => finishPend (setSlotState s slot .invalid) (pendOp 0x0B01) st
        (if st = .lengthRange ∨ st = .badArg ∨ st = .checkFail then faultPayload (atImage 0 0) else [])

def execSecFwStageComplete (s : State) : Host.Outcome State Fault Refusal :=
  .next (if clocksRun s.dev ∧ !s.rst.mpDown then fwStaged s else s)

def fwActivateCheck (s : State) (r : Req) : Option Reply :=
  firstOf [unused r 0, need (slotState s (!s.sec.slot) == .valid || staging s) (faultReply .notPresent ⟨0, 0, 0, 0, 0⟩),
           needQuiet s, need (!staging s) (conflictNone s)]

def fwActivateDo (s : State) (r : Req) : State :=
  doneOk (recordSave (updSec s (fun x => { x with next := !x.slot }))) r []

def execSecFwActivate (s : State) : Host.Outcome State Fault Refusal := .next (runCmd s 0x0B02 fwActivateCheck fwActivateDo)

end Sys2Proof.Machine
end

