-- ==== Sys2Proof/Machine/JanteStream.lean ====
section
/-!
DEFINITION. Commands on the action tables, the stream and the fill stream
(spec/08_stream_measures.md R170-R180, spec/09_caller_scoreboard_fill.md R192, R197, spec/18 R395).
-/

namespace Sys2Proof.Machine

/-! ### References to a bank (R175) -/

/-- A measure of either stream refers to a bank: fetched or delivered and not issued, or held in a segment (R175). -/
def bankRef (s : State) (b : Bool) : Bool :=
  s.cal.queue.any (fun m => m.fetched == .good && m.bank == b) || s.cal.delivered.any (fun m => m.bank == b) ||
    s.fill.fetched.any (fun m => m.fetched == .good && m.bank == b) || s.rpr.segs.any (fun g => g.2.any (fun m => effBank s m.w == b))

/-! ### Bank images (R173, R174) -/

/-- A section: where its header lies in the image, its fields, and its number. -/
structure Sec_ where
  no : Nat
  off : Nat
  kind : Nat
  unit : Nat
  first : Nat
  count : Nat
  deriving DecidableEq, Repr

/-- Bytes of an entry of a kind of table, and its entries; nothing for a reserved kind. -/
def kindShape : Nat → Option (Nat × Nat)
  | 1 => some (16, 4096) | 2 => some (32, 1024) | 3 => some (8, 4096) | 4 => some (32, 1024) | 5 => some (32, 1024)
  | 6 => some (32, 1024) | _ => none

def secBytes (x : Sec_) : Nat := match kindShape x.kind with
  | some (w, _) => 16 + (w * x.count + 15) / 16 * 16
  | none => 16

/-- The sections walked: up to the first whose kind is reserved, or that passes LENGTH. -/
def walkSections (bs : List Byte) (len : Nat) : Nat → Nat → Nat → List Sec_
  | 0, _, _ => []
  | left + 1, no, off =>
    let x : Sec_ := ⟨no, off, natAt bs off 1, natAt bs (off + 1) 1, natAt bs (off + 4) 4, natAt bs (off + 8) 4⟩
    if len < off + 16 then [x]
    else if (kindShape x.kind).isNone ∨ len < off + secBytes x then [x]
    else x :: walkSections bs len left (no + 1) (off + secBytes x)

def none32 : Nat := 0xFFFFFFFF

/-- The first nonzero byte among bytes that must be zero (notes/assumptions/43.md). -/
def dirtyByte (bs : List Byte) (off n : Nat) : Option Nat :=
  ((bytesAt bs off n).findIdx? (· != 0#8)).map (· + off)

/-- A failure in an image: its offset, unit, section and entry. -/
def imageReply (st : Status) (off unit sec ent : Nat) : Reply := faultReply st ⟨2, 0, unit, off, sec + ent * 2 ^ 32⟩

/-- An engine or a core a section names is there. -/
def unitThere (s : State) (x : Sec_) (u : Nat) : Bool :=
  if x.kind = 5 ∨ x.kind = 6 then pstateOf s u != .absent else enginePresent s u

/-- The engines or cores a section writes. -/
def secUnits (s : State) (x : Sec_) : List Nat :=
  if x.unit = 0xFF then (List.range (if x.kind = 5 ∨ x.kind = 6 then 8 else 80)).filter (unitThere s x) else [x.unit]

/-- Word `i` of a section. -/
def secWord (bs : List Byte) (x : Sec_) (i : Nat) : Nat :=
  let w := ((kindShape x.kind).map (·.1)).getD 0
  natAt bs (x.off + 16 + w * i) w

/-- One table of one unit with the words of a section written. -/
def writeWords {n : Nat} (bs : List Byte) (x : Sec_) (t : Tbl (BitVec n)) : Tbl (BitVec n) :=
  (List.range x.count).foldl (fun t i => Tbl.set t (x.first + i) (BitVec.ofNat n (secWord bs x i))) t

/-- A section written into a bank for one unit. -/
def writeSec (bs : List Byte) (x : Sec_) (t : Tables) (u : Nat) : Tables :=
  match x.kind with
  | 1 => { t with array := Tbl.set t.array u (writeWords bs x (Tbl.get [] t.array u)) }
  | 2 => { t with element := Tbl.set t.element u (writeWords bs x (Tbl.get [] t.element u)) }
  | 3 => { t with figure := Tbl.set t.figure u (writeWords bs x (Tbl.get [] t.figure u)) }
  | 4 => { t with mover := Tbl.set t.mover u (writeWords bs x (Tbl.get [] t.mover u)) }
  | 5 => { t with coreMover := Tbl.set t.coreMover u (writeWords bs x (Tbl.get [] t.coreMover u)) }
  | 6 => { t with core := Tbl.set t.core u (writeWords bs x (Tbl.get [] t.core u)) }
  | _ => t

/-- The bank as the load leaves it; a word written is no longer poisoned or in error (R128). -/
def writeImage (s : State) (bs : List Byte) (xs : List Sec_) (t : Tables) : Tables :=
  xs.foldl (fun t x => (secUnits s x).foldl (fun t u =>
    let t := writeSec bs x t u
    let kept (p : Nat × Nat × Nat) : Bool := !(p.1 == x.kind && p.2.1 == u && decide (x.first ≤ p.2.2) &&
      decide (p.2.2 < x.first + x.count))
    { t with poison := t.poison.filter kept, flips := t.flips.filter kept }) t) t

/-- An entry as the bank will hold it is accepted (R67, R116, R151, R170, R172). -/
def entryOk (t : Tables) (kind u i : Nat) : Bool :=
  match kind with
  | 1 => (arrEntryOf (arrayWord t u i)).isSome && (i != 0 || arrayWord t u i == 0)
  | 2 => (eleEntryOf (elementWord t u i) (figureWord t u)).isSome && (i != 0 || elementWord t u i == 0)
  | 3 => true
  | 4 => (movEntryOf (moverWord t u i)).isSome && (i != 0 || moverWord t u i == 0)
  | 5 => (movEntryOf (coreMoverWord t u i)).isSome && (i != 0 || coreMoverWord t u i == 0)
  | 6 => (coreEntryOf u (coreWord t u i)).isSome && (i != 0 || coreWord t u i == 0)
  | _ => false

/-- Order 2: the image's length, its place, its sections. -/
def imageLengths (s : State) (a buf : Nat) (bs : List Byte) (xs : List Sec_) : Option Reply :=
  let len := natAt bs 16 4
  firstOf [
    need (imageFault s a 32).isNone (imageReply .lengthRange 0 0xFFFF none32 none32),
    need (decide (32 ≤ len) && decide (len ≤ buf) && (imageFault s a len).isNone) (imageReply .lengthRange 16 0xFFFF none32 none32),
    xs.findSome? (fun x =>
      let bad (o : Nat) : Option Reply := some (imageReply .lengthRange (x.off + o) 0xFFFF x.no none32)
      if len < x.off + 16 then bad 0
      else match kindShape x.kind with
        | none => none
        | some (_, n) => if len < x.off + secBytes x then bad 8 else if n < x.first + x.count then bad 4 else none)]

/-- The units a section may name: engines to 79, cores to 7, or all. -/
def unitOk (x : Sec_) : Bool := x.unit == 0xFF || decide (x.unit < if x.kind = 5 ∨ x.kind = 6 then 8 else 80)

/-- Order 4: a unit that is absent. -/
def imageUnits (s : State) (xs : List Sec_) : Option Reply :=
  xs.findSome? (fun x =>
    if (kindShape x.kind).isSome && x.unit != 0xFF && unitOk x && !unitThere s x x.unit then
      some (imageReply .notPresent (x.off + 1) x.unit x.no none32)
    else none)

/-- Order 5 in one section: its header, then its entries, then its padding. A COUNT of 0 is BAD_ARG at its field (DESIGN CHOICE,
notes/assumptions/69.md). -/
def secFields (s : State) (bs : List Byte) (t : Tables) (x : Sec_) : Option Reply :=
  let head (o : Nat) : Reply := imageReply .badArg (x.off + o) 0xFFFF x.no none32
  let dirty (o n : Nat) : Option Reply := (dirtyByte bs o n).map (fun b => imageReply .badArg b 0xFFFF x.no none32)
  match kindShape x.kind with
  | none => some (head 0)
  | some (w, _) =>
    firstOf [
      need (unitOk x) (head 1), dirty (x.off + 2) 2, need (x.count != 0) (head 8), dirty (x.off + 12) 4,
      (List.range x.count).findSome? (fun i => ((secUnits s x).find? (fun u => !entryOk t x.kind u (x.first + i))).map (fun u =>
        imageReply .badArg (x.off + 16 + w * i) u x.no (x.first + i))),
      dirty (x.off + 16 + w * x.count) (secBytes x - 16 - w * x.count)]

/-- An element entry that no section names and whose figure the image writes is checked again. -/
def figureAgain (s : State) (xs : List Sec_) (t : Tables) : Option Reply :=
  (List.range 80).findSome? (fun u =>
    let mine := xs.filter (fun x => (secUnits s x).contains u)
    let figs := mine.filter (fun x => x.kind == 3)
    let named (i : Nat) : Bool := mine.any (fun x => x.kind == 2 && decide (x.first ≤ i) && decide (i < x.first + x.count))
    if figs.isEmpty then none
    else (Tbl.get [] t.element u).findSome? (fun e =>
      match figureSpan e.2 with
      | none => none
      | some (lo, hi) =>
        let hit := figs.findSome? (fun x =>
          let w := max lo x.first
          if w < hi ∧ w < x.first + x.count then some (x.off + 16 + 8 * (w - x.first)) else none)
        match hit with
        | some o => if named e.1 || entryOk t 2 u e.1 then none else some (imageReply .badArg o u none32 e.1)
        | none => none))

/-- Order 5: a section of a reserved KIND, which alone is named where nothing of lower order was found; else the header, every
section, the entries whose figures change (R174). -/
def imageFields (s : State) (bs : List Byte) (t : Tables) (xs : List Sec_) : Option Reply :=
  let head (o : Nat) : Reply := imageReply .badArg o 0xFFFF none32 none32
  firstOf [
    (xs.find? (fun x => (kindShape x.kind).isNone)).map (fun x => imageReply .badArg x.off 0xFFFF x.no none32),
    need (natAt bs 0 4 == 0x4B4E4254) (head 0), need (natAt bs 4 2 == 1) (head 4), (dirtyByte bs 6 2).map head,
    need (natAt bs 8 4 != 0) (head 8), (dirtyByte bs 20 12).map head,
    xs.findSome? (secFields s bs t), figureAgain s xs t]

/-- The bytes of the buffer an image can take up. -/
def bankBytes (s : State) (r : Req) : List Byte :=
  let len := if (imageFault s (argOf r 1) 32).isNone then natAt (devRead s (argOf r 1) 32) 16 4 else 0
  if len ≤ argOf r 2 ∧ (imageFault s (argOf r 1) len).isNone then devRead s (argOf r 1) len else devRead s (argOf r 1) 32

/-- An image of a fenced partition cannot be read (notes/assumptions/41.md). -/
def imageFencedReply (s : State) (a n : Nat) : Option Reply :=
  match imageFault s a n with
  | some (.error p) => some (conflict s p (pstateCode (pstateOf s p)) 2)
  | _ => none

def loadBankCheck (s : State) (r : Req) : Option Reply :=
  let a := argOf r 1
  let bs := bankBytes s r
  let len := natAt bs 16 4
  let xs := walkSections bs len (natAt bs 12 4) 0 32
  let t := writeImage s bs (xs.filter (fun x => (kindShape x.kind).isSome && unitOk x)) (tablesOf s (bankArg r))
  firstOf [
    need (decide (a % 4096 = 0)) (badArg 1), unused r 3, needLive s, plenPasses r,
    need (!bankRef s (bankArg r)) (.tableBusy, []), imageFencedReply s a (max 32 (min len (argOf r 2))),
    imageLengths s a (argOf r 2) bs xs,
    (badTile s a len).map (fun x => imageReply .checkFail (x - a) 0xFFFF none32 none32),
    imageUnits s xs, imageFields s bs t xs]

def loadBankRanges (s : State) (r : Req) : List (Nat × Nat) × List (Nat × Nat) :=
  ([(argOf r 1, (bankBytes s r).length)], [])

/-- The image is taken and the bank is loading (R176). -/
def loadBankDo (s : State) (r : Req) : State :=
  stayPend (setLoading s (bankArg r) true) { r with payload := bankBytes s r } (.bank (argOf r 0)) 0

def execStreamLoadBank (s : State) : Host.Outcome State Fault Refusal :=
  .next (runCmdMem s 0x0201 loadBankCheck loadBankRanges loadBankDo)

/-- Every table of the bank is written and its version set (R174, R176). -/
def bankLoaded (s : State) (b : Nat) : State :=
  match s.jante.pend.find? (fun p => pendOp 0x0201 p && p.obj == .bank b) with
  | none => s
  | some p =>
    let bs := p.req.payload
    let bank := b == 1
    let t := writeImage s bs (walkSections bs (natAt bs 16 4) (natAt bs 12 4) 0 32) (tablesOf s bank)
    let v := BitVec.ofNat 32 (natAt bs 8 4)
    let s := if bank then { s with tabB := t, cal := { s.cal with verB := v } } else { s with tabA := t, cal := { s.cal with verA := v } }
    finishPend (setLoading s bank false) (fun p => pendOp 0x0201 p && p.obj == .bank b) .ok []

def execBankLoadComplete (b : Fin 2) (s : State) : Host.Outcome State Fault Refusal :=
  .next (if clocksRun s.dev ∧ !s.rst.mpDown then bankLoaded s b else s)

/-! ### STREAM_START (R179, R180) -/

def streamConflict (s : State) : Reply := conflict s 0xFFFF 0xFF 7

/-- Reserved bytes and fields of a stream image header. -/
def headerFault (h : List Byte) : Option Nat :=
  if natAt h 0 4 ≠ 0x4D545347 then some 0
  else if natAt h 4 2 ≠ 1 then some 4
  else if (dirtyByte h 6 2).isSome then dirtyByte h 6 2
  else if natAt h 8 4 = 0 then some 8
  else if natAt h 8 4 ≤ natAt h 12 4 then some 12
  else if (dirtyByte h 34 6).isSome then some 24
  else dirtyByte h 40 472

/-- The checks of R180 on an image at `a` that must lie in `[lo, hi)` too. -/
def streamImageCheck (s : State) (a lo hi : Nat) : Option Reply :=
  let h := devRead s a 512
  let size := 512 * (natAt h 8 4 + 1)
  let engmap := natAt h 24 16
  let fits (n : Nat) : Bool := decide (a % 4096 = 0) && usableHbm s a n && decide (lo ≤ a) && decide (a + n ≤ hi)
  let verBad (o : Nat) (b : Bool) : Bool := natAt h o 4 != 0 && bankVersion s (b != s.cal.bankxor) != BitVec.ofNat 32 (natAt h o 4)
  firstOf [
    need (fits 512) (addrArg .lengthRange 0 a),
    need (partActive s (hbmPart a)) (conflict s (hbmPart a) (pstateCode (pstateOf s (hbmPart a))) 2),
    need (fits size) (imageReply .lengthRange 8 0 a 0),
    (headerFault h).map (fun o => imageReply .badArg o 0 a 0),
    ((List.range 80).find? (fun e => engmap.testBit e && !enginePresent s e)).map (fun e => imageReply .notPresent 24 e a 0),
    need (!verBad 16 false) (imageReply .checkFail 16 0 a 0), need (!verBad 20 true) (imageReply .checkFail 20 0 a 0)]

def startCheck (s : State) (r : Req) : Option Reply :=
  firstOf [unused r 1, need (s.dev == .ready) (streamConflict s), plenPasses r, streamImageCheck s (argOf r 0) 0 (2 ^ 48)]

def startRanges (_ : State) (r : Req) : List (Nat × Nat) × List (Nat × Nat) := ([(argOf r 0, 512)], [])

/-- Counts that are cleared, added to `CAL_TOKDISC` (R190). -/
def discardCounts (s : State) (n : Nat) : State :=
  { s with cal := { s.cal with tokdisc := min 0xFFFFFFFF (s.cal.tokdisc + n) } }

def tblSum (t : Tbl Nat) : Nat := (t.map (fun e => e.2)).sum

/-- The caller begins to fetch at ENTRY; device RUNNING (R180, R169, R190, R195, R203). -/
def startDo (s : State) (r : Req) : State :=
  let a := argOf r 0
  let h := devRead s a 512
  let s := discardCounts s (tblSum s.tok.counts)
  doneOk { s with
    dev := .running, tok := { s.tok with counts := [] }, rpr := repriseReset,
    cal := { s.cal with run := true, issued := false, img := a, imgCount := natAt h 8 4, engmap := natAt h 24 16,
                        reqNext := natAt h 12 4, inflight := [], queue := [], replay := [], delivered := [], current := none, ran := 0,
                        faultPend := false, scyc := 0, spanBy := [], halting := false, draining := false, cause := 0 } } r []

def execStreamStart (s : State) : Host.Outcome State Fault Refusal :=
  .next (runCmdMem s 0x0202 startCheck startRanges startDo)

/-! ### STREAM_RESUME and STREAM_END (R192, R395, R422) -/

/-- RUNNING with the stream stopped, and no end under way. -/
def stopped (s : State) : Bool :=
  s.dev == .running && !s.cal.run && !s.cal.draining && !s.jante.pend.any (pendOp 0x0204)

def resumeCheck (s : State) (r : Req) : Option Reply :=
  firstOf [unused r 0, need (stopped s && !imageFenced s && (s.cal.issued || s.cal.err &&& s.cal.cause == 0)) (streamConflict s)]

/-- The span goes on where it stood, or the due measure is tested afresh; one that did not verify is fetched again. -/
def resumeDo (s : State) (r : Req) : State :=
  let again := match dueMeas s with
    | some m => !m.replayed && m.fetched != .good
    | none => false
  let s := if !s.cal.issued && again then redirect s s.cal.pc else s
  doneOk { s with cal := { s.cal with run := true, faultPend := false } } r []

def execStreamResume (s : State) : Host.Outcome State Fault Refusal := .next (runCmd s 0x0203 resumeCheck resumeDo)

def endCheck (s : State) (r : Req) : Option Reply := firstOf [unused r 0, need (stopped s) (streamConflict s)]

def execStreamEnd (s : State) : Host.Outcome State Fault Refusal :=
  .next (runCmd s 0x0204 endCheck (fun s r => stayPend s r .stream 0))

/-- The last accepted action has completed: READY, and an open recording is closed (R395). -/
def streamEnded (s : State) : State :=
  if !s.jante.pend.any (pendOp 0x0204) || !primaryIdle s || s.dev != .running then s
  else
    finishPend { s with
      dev := .ready, rpr := { s.rpr with recording := none },
      cal := { s.cal with queue := [], inflight := [], replay := [], delivered := [], current := none, issued := false,
                          faultPend := false, halting := false } } (pendOp 0x0204) .ok []

def execStreamEndComplete (s : State) : Host.Outcome State Fault Refusal :=
  .next (if clocksRun s.dev ∧ !s.rst.mpDown then streamEnded s else s)

/-! ### The fill stream (R197, R395) -/

def fillStartCheck (s : State) (r : Req) : Option Reply :=
  let base := argOf r 1
  let size := argOf r 2 * 0x100000
  firstOf [
    need (decide (base % 0x100000 = 0)) (badArg 1), unused r 3, need (live s && !s.fill.en) (streamConflict s), plenPasses r,
    need (decide (0 < size) && decide (size ≤ hbmWindow) && usableHbm s base size) (lengthArg 2),
    streamImageCheck s (argOf r 0) base (base + size)]

/-- The fill context is enabled: its image, window, token counts and shares (R197, R190). -/
def fillStartDo (s : State) (r : Req) : State :=
  let a := argOf r 0
  let h := devRead s a 512
  let s := discardCounts s (tblSum s.tok.fcounts)
  doneOk { s with
    tok := { s.tok with fcounts := [] },
    fill := { s.fill with en := true, run := true, base := argOf r 1, size := argOf r 2, img := a, imgCount := natAt h 8 4,
                          pc := natAt h 12 4, post := none, halting := false, stopping := false,
                          current := none, fetched := none } } r []

def execStreamFillStart (s : State) : Host.Outcome State Fault Refusal :=
  .next (runCmdMem s 0x0205 fillStartCheck startRanges fillStartDo)

/-- Suspended fill actions of a core are discarded. -/
def dropSuspended (s : State) (c : Nat) : State :=
  let s := (engineList c).foldl (fun s e => setEngine s e { engineOf s e with suspended := [], eleSuspended := [] }) s
  (List.range 11).foldl (fun s m => setMover s c m ⟨(moverOf s c m).queue.filter (fun a => !a.suspended)⟩) s

def fillStopCheck (s : State) (r : Req) : Option Reply :=
  firstOf [unused r 0, need (live s && s.fill.en && !s.fill.stopping) (streamConflict s)]

def fillStopDo (s : State) (r : Req) : State :=
  let s := (List.range 8).foldl dropSuspended s
  stayPend { s with fill := { s.fill with stopping := true }, bus := s.bus.filter (fun b => !b.fill) } r .fill 0

def execStreamFillStop (s : State) : Host.Outcome State Fault Refusal := .next (runCmd s 0x0206 fillStopCheck fillStopDo)

/-- Fill actions have ended at their boundaries; EN clears and every reservation goes (R395). The fill counts are discarded,
and the held posts, which the room so made lets in, with them (R189, R190). -/
def fillStopped (s : State) : State :=
  if !s.fill.stopping then s
  else
    let s := (List.range 8).foldl (fun s c => dropSuspended (suspendCore s c) c) s
    let held := (s.tok.held.filter (fun h => h.fill)).length
    let s := discardCounts s (tblSum s.tok.fcounts + tblSum s.tok.fown + held)
    finishPend { s with
      tok := { s.tok with fcounts := [], fown := [], held := s.tok.held.filter (fun h => !h.fill) },
      fill := { s.fill with en := false, run := false, stopping := false, halting := false, post := none, current := none,
                            fetched := none } } (pendOp 0x0206) .ok []

def execFillStopComplete (s : State) : Host.Outcome State Fault Refusal :=
  .next (if clocksRun s.dev ∧ !s.rst.mpDown then fillStopped s else s)

end Sys2Proof.Machine
end

