-- ==== Sys2Proof/Machine/Registers.lean ====
section
/-!
DEFINITION. The registers as words, the writes to them by access type, and BAR0 (R9-R11 and the register tables of every
chapter of spec/; spec/17 R373, R381, R384; spec/18 R385, R386).
-/

namespace Sys2Proof.Machine

/-! ### Fields into words -/

/-- A word from fields: the lowest bit of each, its width and its value. -/
def fieldsWord (fs : List (Nat × Nat × Nat)) : W32 :=
  BitVec.ofNat 32 ((fs.map (fun f => f.2.2 % 2 ^ f.2.1 * 2 ^ f.1)).sum)

/-- A word whose bit `i` is `f i`, for the `n` lowest bits. -/
def maskWord (n : Nat) (f : Nat → Bool) : W32 := fieldsWord ((List.range n).map (fun i => (i, 1, b2n (f i))))

def loWord (n : Nat) : W32 := BitVec.ofNat 32 n
def hiWord (n : Nat) : W32 := BitVec.ofNat 32 (n / 2 ^ 32)

/-! ### Engine registers (R69, R86, R123) -/

def arrStatusWord (x : Engine) : W32 :=
  let busy (a : Nat) : Bool := x.acts.any (fun t => t.ent.amask.testBit a && t.ent.op != .load && decide (t.done < t.rows))
  fieldsWord [(24, 8, (maskWord 8 (fun a => (arrOf x a).front.valid)).toNat), (16, 8, (maskWord 8 (fun a => (arrOf x a).back.valid)).toNat),
              (8, 8, (maskWord 8 (fun a => (arrOf x a).back.loading)).toNat), (0, 8, (maskWord 8 busy).toNat)]

def bankStCode : BankSt → Nat
  | .free => 0 | .filling => 1 | .queued => 2 | .draining => 3

def arrBankWord (x : Engine) : W32 :=
  fieldsWord ((List.range 8).flatMap (fun a => [(4 * a, 2, bankStCode (arrOf x a).bank0), (4 * a + 2, 2, bankStCode (arrOf x a).bank1)]))

/-- The tile an array has open, of either stream. -/
def shownTile (r : Arr) : Option Tile := r.tile.orElse (fun _ => r.ftile)

def arrTileWord (x : Engine) : W32 :=
  let t (a : Nat) : Option Tile := shownTile (arrOf x a)
  fieldsWord [(24, 8, (maskWord 8 (fun a => (t a).any (·.half))).toNat), (16, 8, (maskWord 8 (fun a => (t a).any (·.res))).toNat),
              (8, 8, (maskWord 8 (fun a => (arrOf x a).next)).toNat), (0, 8, (maskWord 8 (fun a => (t a).isSome)).toNat)]

def eleStatusWord (x : Engine) : W32 :=
  fieldsWord [(31, 1, b2n (x.eles.any eleReading)), (30, 1, b2n (x.eles.any eleWriting)),
              (29, 1, b2n ((x.eles.find? eleReading).any (·.fill))), (24, 5, x.queue.length), (0, 16, x.lastSeq)]

/-! ### Partition registers (R101, R154, R234, R291) -/

def cstatWord (x : Census) : W32 := (x.cstat &&& 0xD#32) ||| fieldsWord [(1, 1, b2n (x.merge.any (fun m => m.2.nrec != 0)))]

def rstateWord (u : Upd) (n : Nat) : W32 := fieldsWord ((List.range 16).map (fun k => (2 * k, 2, roundCode (usetOf u (16 * n + k)).st)))

/-- An expander's field of `CMP_STAT`: a descriptor whose post is held keeps its queue entry (R189, R291). -/
def expWord (s : State) (p k : Nat) : Nat :=
  let q := expQueue (cmpOf s p) k
  b2n (q.any (·.running)) * 8 + min 4 (q.length + heldFor s (.expander p k) true)

def cmpStatWord (s : State) (p : Nat) : W32 :=
  fieldsWord ([(31, 1, b2n (s.cmpLoading.contains 1)), (30, 1, b2n (s.cmpLoading.contains 0)), (29, 1, b2n (slotRefs s p 1)),
               (28, 1, b2n (slotRefs s p 0))] ++ (List.range 4).map (fun k => (4 * k, 4, expWord s p k)))

/-! ### Caller registers (R181, R203) -/

def calStatusWord (s : State) : W32 :=
  fieldsWord [(31, 1, b2n s.cal.run), (30, 1, b2n (bankRef s true)), (29, 1, b2n (bankRef s false)), (28, 1, b2n s.cal.loadB),
              (27, 1, b2n s.cal.loadA), (26, 1, b2n s.cal.issued)]

def calStopWord (s : State) : W32 :=
  if s.cal.run then fieldsWord [(16, 8, (stopReasons s).2), (0, 9, stopBits s)] else 0x00FF0000#32

/-- A post to a token is held, by a unit or by the caller (R159, R189). -/
def tokHeld (s : State) (fill : Bool) (t : Nat) : Bool :=
  s.tok.held.any (fun h => h.fill == fill && h.token == t) || ownHeld s fill t != 0

def tokWord (s : State) (fill : Bool) (t : Nat) : W32 := fieldsWord [(31, 1, b2n (tokHeld s fill t)), (0, 16, tokCount s fill t)]

def rprWord (s : State) : W32 :=
  fieldsWord [(16, 16, (maskWord 16 (fun k => !(segOf s k).isEmpty)).toNat), (15, 1, b2n s.rpr.recording.isSome), (0, 14, rprFree s)]

/-! ### Links and sets (R268) -/

def linkCode : LinkState → Nat
  | .down => 0 | .training => 1 | .up => 2 | .retrain => 3

/-- PEERDEV and PEERLINK show the plan only for a link entered as UP (R369). -/
def lnkStatusWord (s : State) (n : Nat) : W32 :=
  let x := linkOf s n
  let p := planned s n
  fieldsWord [(30, 2, linkCode x.state), (29, 1, b2n (x.half || s.pwr.cfg.half)), (28, 1, b2n s.pwr.cfg.vc6p),
              (8, 4, if x.upAsPlanned then p.2.1 else 0), (0, 8, if x.upAsPlanned then p.1 else 0xFF)]

def vcwtWord (s : State) (lo : Nat) : W32 := fieldsWord ((List.range 4).map (fun k => (8 * k, 8, (linkOf s 0).weights.getD (lo + k) 0)))

/-! ### Far exchange and cipher (R316, R333) -/

def farStatusWord (f : Far) : W32 :=
  fieldsWord [(31, 1, b2n f.en), (28, 3, farPhaseCode f.phase), (27, 1, b2n f.forced), (26, 1, b2n f.void),
              (0, 8, (f.partners.filter (fun e => e.2.st == .active)).length)]

def ownerField (o : Option Owner) : Nat := match o with
  | some o => ownerCode o
  | none => 0

def cipLockWord (c : Cip) : W32 :=
  fieldsWord [(9, 3, ownerField (c.save1.map (·.owner))), (6, 3, ownerField (c.save0.map (·.owner))), (3, 3, ownerField (topWaiter c)),
              (0, 3, ownerField c.owner)]

/-! ### Power, resets and security (R415, R431, R445) -/

def pwrStatWord (s : State) : W32 :=
  fieldsWord [(31, 1, b2n s.pwr.brake), (30, 1, b2n (atFloor s)), (29, 1, b2n s.pwr.unmet), (28, 1, b2n (s.pwr.now == 0)),
              (0, 12, s.pwr.short)] ||| (s.pwr.sticky &&& 0xF00000#32)

def pwrOpWord (s : State) : W32 := fieldsWord [(28, 4, s.pwr.now), (16, 5, gateDuty s), (0, 16, pointMhz s.pwr.now)]

def secBootWord (x : Sec) : W32 :=
  fieldsWord [(28, 4, x.stage), (24, 4, x.cause), (23, 1, b2n x.slot), (22, 1, b2n x.fallback), (21, 1, b2n x.warm)]

def slotStCode : SlotSt → Nat
  | .empty => 0 | .valid => 1 | .writing => 2 | .invalid => 3

def secFwslotWord (s : State) : W32 :=
  fieldsWord [(30, 2, slotStCode s.sec.slot1), (28, 2, slotStCode s.sec.slot0), (27, 1, b2n s.sec.next),
              (26, 1, b2n (s.jante.pend.any (pendOp 0x0B01)))]

/-- The words of the power, reset and security registers, chip-scoped but for those R415 and R431 name. -/
def sysWord (s : State) : Reg → W32
  | .pwrStat => pwrStatWord s
  | .pwrCap => fieldsWord [(0, 11, s.pwr.cap)]
  | .pwrCtl => fieldsWord [(31, 1, b2n s.pwr.pavane), (0, 6, s.pwr.order)]
  | .pwrDraw => fieldsWord [(16, 16, s.pwr.mean), (0, 16, (s.pwr.samples.head?.map totalW).getD 0)]
  | .pwrClass => fieldsWord [(21, 11, meanW (·.compute) s.pwr.samples), (10, 11, meanW (·.memory) s.pwr.samples), (0, 10, meanW (·.links) s.pwr.samples)]
  | .pwrOp => pwrOpWord s
  | .pwrTrim => fieldsWord [(31, 1, b2n s.pwr.cfg.vc6p), (30, 1, b2n s.pwr.cfg.half), (0, 9, s.pwr.cfg.scale)]
  | .pwrTemp => fieldsWord [(24, 8, s.pwr.shownTemp), (19, 5, s.pwr.sensor)]
  | .pwrWakeLo => s.pwr.wakeLo
  | .pwrWakeHi => s.pwr.wakeHi
  | .pwrAonStat => s.pwr.aonStat &&& 0x80000007#32
  | .pwrRail => fieldsWord [(16, 14, s.pwr.latch.toNat), (0, 14, s.pwr.good.toNat)]
  | .rstPstate => fieldsWord ((List.range 8).map (fun p => (3 * p, 3, pstateCode (pstateOf s p))))
  | .rstPolicy => s.rst.policy &&& 3#32
  | .rstFence => s.rst.fence &&& 0xFFFFFF07#32
  | .rstFledger => fieldsWord [(16, 16, s.rst.discard), (0, 16, s.rst.errans)]
  | .rstSbwdog => s.rst.sbwdog
  | .rstMpwdog => fieldsWord [(16, 16, s.rst.mpBites), (0, 16, s.rst.mpTimeout)]
  | .secBoot => secBootWord s.sec
  | .secSvn => if s.sec.shown then fieldsWord [(16, 16, s.sec.floor), (0, 16, s.sec.svn)] else 0#32
  | .secFwslot => if s.sec.shown then secFwslotWord s else 0#32
  | _ => 0#32

/-! ### Host interface and mailboxes (R384, R385) -/

def mbxDword (x : Mailbox) (off : Nat) : W32 :=
  if off = 0 then x.cmd else if off = 4 then x.plen else if off = 12 then x.status
  else if 0x10 ≤ off ∧ off < 0x50 then Tbl.get 0#32 x.args ((off - 0x10) / 4) else 0#32

/-- The words of the host interface's registers. -/
def hostWord (s : State) : Reg → W32
  | .mbxLink => fieldsWord [(31, 1, b2n s.cxl.up), (29, 2, s.cxl.rate), (24, 5, s.cxl.width), (16, 8, s.cxl.downs)]
  | .mbxIrqStat => s.cxl.irqStat
  | .mbxHerr => s.cxl.herr
  | .mbxTrack => fieldsWord [(0, 19, s.cxl.track.length)]
  | .memSlowWin n => Tbl.get 0#32 s.cxl.slowWin n
  | .memSlowHpa n => Tbl.get 0#32 s.cxl.slowHpa n &&& 0x3FFFFF#32
  | .mbxCmd i => (mailboxOf s i).cmd
  | .mbxPlen i => (mailboxOf s i).plen
  | .mbxStatus i => (mailboxOf s i).status
  | .mbxArgLo i n => Tbl.get 0#32 (mailboxOf s i).args (2 * n.val)
  | .mbxArgHi i n => Tbl.get 0#32 (mailboxOf s i).args (2 * n.val + 1)
  | r => sysWord s r

/-- The words of the far exchange's, the cipher engine's, the Bindery's and the Folio's registers. -/
def unitWord (s : State) : Reg → W32
  | .farStatus => farStatusWord s.far
  | .farRound => loWord s.far.k
  | .farErr => s.far.err
  | .farCnt => fieldsWord [(24, 8, s.far.disc), (16, 8, s.far.badsel), (8, 8, s.far.stale), (0, 8, s.far.badfrm)]
  | .farPort n => let p := if n.val = 0 then s.far.port0 else s.far.port1; fieldsWord [(31, 1, b2n p.up), (0, 16, p.drop)]
  | .farTickLo => loWord s.pwr.tick.toNat
  | .farTickHi => hiWord s.pwr.tick.toNat
  | .farPpsLo => loWord s.far.ppsTick.toNat
  | .farPpsHi => hiWord s.far.ppsTick.toNat
  | .farPpsCnt => fieldsWord [(16, 16, s.far.fast), (0, 16, s.far.edges)]
  | .farSbuf => baseWord ((s.far.cfg.map (·.sbuf)).getD 0)
  | .farRbuf => baseWord ((s.far.cfg.map (·.rbuf)).getD 0)
  | .farFrec p => baseWord (Tbl.get 0 s.far.frec p)
  | .cipLock => cipLockWord s.cip
  | .cipSlotLo => maskWord 32 (fun k => (Tbl.get? s.cip.slots k).isSome)
  | .cipSlotHi => maskWord 32 (fun k => (Tbl.get? s.cip.slots (32 + k)).isSome)
  | .cipLockto => fieldsWord [(0, 14, s.cip.lockto)]
  | .cipErr => s.cip.err
  | .cipCnt => fieldsWord [(20, 12, s.cip.tagfail), (10, 10, s.cip.nokey), (0, 10, s.cip.replay)]
  | .bndStatus => bndStatusWord s
  | .bndMb => loWord s.bnd.mbCount
  | .bndLanes => bndLanesWord s
  | .bndErr => s.bnd.err
  | .bndCnt => bndCntWord s
  | .bndSeedLo => s.bnd.seedLo
  | .bndSeedHi => s.bnd.seedHi
  | .folStatus => fieldsWord [(31, 1, b2n (s.jante.pend.any (pendOp 0x0110))), (30, 1, b2n s.folio.copy), (2, 1, b2n s.folio.dynOk),
                              (1, 1, b2n s.folio.boardOk), (0, 1, b2n s.folio.staticOk)]
  | r => hostWord s r

/-- The words of the update, link, set and compression registers. -/
def commWord (s : State) : Reg → W32
  | .updGtab p => (updOf s p).gtab
  | .updCrec p => (updOf s p).crec
  | .updNoise p => (updOf s p).noise
  | .updPark p => (updOf s p).park
  | .updParkSize p => fieldsWord [(0, 18, (updOf s p).parkSize)]
  | .updParkStat p => fieldsWord [(0, 18, (updOf s p).parks.length)]
  | .updParkLedger p => fieldsWord [(16, 16, (updOf s p).alloc), (0, 16, (updOf s p).freed)]
  | .updParityLo p => maskWord 32 (fun k => (usetOf (updOf s p) k).parity)
  | .updParityHi p => maskWord 32 (fun k => (usetOf (updOf s p) (32 + k)).parity)
  | .updRstate p n => rstateWord (updOf s p) n
  | .updSeedLo p => (updOf s p).seedLo
  | .updSeedHi p => (updOf s p).seedHi
  | .updErr p => (updOf s p).err
  | .updCnt p => fieldsWord [(16, 16, (updOf s p).dup), (0, 16, (updOf s p).chk)]
  | .lnkStatus n => lnkStatusWord s n
  | .lnkCnt n => let x := linkOf s n; fieldsWord [(16, 16, x.cntReplay), (8, 8, x.cntRetrain), (0, 8, x.lost)]
  | .lnkLedger n v => let x := linkOf s n; fieldsWord [(16, 16, Tbl.get 0 x.credits v), (0, 16, Tbl.get 0 x.occ v)]
  | .lnkVcwtLo => vcwtWord s 0
  | .lnkVcwtHi => vcwtWord s 4
  | .setState k => setStateWord s k
  | .setLedger k => setLedgerWord (setOf s k)
  | .setCnt k => setCntWord (setOf s k)
  | .setErr => s.setErr
  | .cmpStat p => cmpStatWord s p
  | .cmpSlot p k => let t := slotOf (cmpOf s p) k; fieldsWord [(8, 8, t.gen), (0, 3, t.w)]
  | .cmpErr p => (cmpOf s p).err
  | .cmpCnt p => fieldsWord [(16, 16, (cmpOf s p).cntBad), (0, 16, (cmpOf s p).cntGen)]
  | r => unitWord s r

/-- The words of the caller's registers. -/
def calWord (s : State) : Reg → W32
  | .calStatus => calStatusWord s
  | .calErr => s.cal.err
  | .calPc => loWord s.cal.pc
  | .calCtl => fieldsWord [(31, 1, b2n s.cal.bankxor)]
  | .calBankver b => if b.val = 0 then s.cal.verA else s.cal.verB
  | .calSpan n => Tbl.get 0#32 s.cal.span n
  | .calLoop n => loopOf s false n
  | .calImgLo => loWord (s.cal.img / 4096 * 4096)
  | .calImgHi => fieldsWord [(0, 16, s.cal.img / 2 ^ 32)]
  | .calScycLo => loWord (scycNow s).toNat
  | .calScycHi => hiWord (scycNow s).toNat
  | .calStop => calStopWord s
  | .calTok n => tokWord s false n
  | .calTokdisc => loWord (min s.cal.tokdisc 0xFFFFFFFF)
  | .calWdog => fieldsWord [(0, 17, s.cal.wdog.toNat)]
  | .calWdgStat => s.cal.wdgStat
  | .calRprStat => rprWord s
  | .calFillCtl => fieldsWord [(31, 1, b2n s.fill.en), (30, 1, b2n s.fill.run), (0, 8, s.fill.lent)]
  | .calFillBase => fieldsWord [(4, 28, s.fill.base / 2 ^ 20)]
  | .calFillSize => fieldsWord [(0, 20, s.fill.size)]
  | .calFerr => s.fill.err
  | .calFtok n => tokWord s true n
  | .calFloop n => loopOf s true n
  | r => commWord s r

/-- `BWR_STAT.SCALE`: its reset value from a partition's reset until the partition leaves it, when the power manager sets it
again (R154). -/
def bwrScale (s : State) (p : Nat) : Nat :=
  if pstateOf s p == .resetting || pstateOf s p == .idle then 0x100 else s.pwr.cfg.scale

/-- The words of a partition's memory registers, and of `MEM_GIL_CTL`. -/
def memWord (s : State) : Reg → W32
  | .memCringBase p => (memOf s p).census.base
  | .memCringCfg p => (memOf s p).census.cfg
  | .memCringHead p => (memOf s p).census.head
  | .memCringTail p => (memOf s p).census.tail
  | .memCctl p => (memOf s p).census.cctl
  | .memCthr0 p => (memOf s p).census.cthr0
  | .memCthr1 p => (memOf s p).census.cthr1
  | .memCstat p => cstatWord (memOf s p).census
  | .memCovf p => (memOf s p).census.covf
  | .memErr p => (memOf s p).err
  | .memErraddrLo p => loWord (memOf s p).erraddr
  | .memErraddrHi p => fieldsWord [(31, 1, b2n (memOf s p).erraddrSram), (0, 16, (memOf s p).erraddr / 2 ^ 32)]
  | .memEcnt p => fieldsWord [(16, 16, (memOf s p).sramCe), (0, 16, (memOf s p).chk)]
  | .memGilCtl => (s.gil &&& 0xA0007F7F#32) ||| fieldsWord [(30, 1, b2n (gilAvail s))]
  | .tipStatus p => fieldsWord [(31, 1, b2n (tipOf s p).fencing), (0, 10, (tipOf s p).lines.length)]
  | .tipLedger p => fieldsWord [(16, 16, (tipOf s p).alloc), (0, 16, (tipOf s p).freed)]
  | .bwrClass p c => classOf (memOf s p).regs c
  | .bwrStat p => fieldsWord [(31, 1, b2n (memOf s p).regs.cfgerr), (0, 9, bwrScale s p)]
  | r => calWord s r

/-- The words of an engine's registers. -/
def readReg (s : State) : Reg → W32
  | .arrStatus e => arrStatusWord (engineOf s e)
  | .arrErr e => (engineOf s e).arrErr
  | .arrBank e => arrBankWord (engineOf s e)
  | .arrTile e => arrTileWord (engineOf s e)
  | .arrAccErr e => (engineOf s e).accErr
  | .eleStatus e => eleStatusWord (engineOf s e)
  | .eleErr e => (engineOf s e).eleErr
  | .eleSeedLo e => (engineOf s e).seedLo
  | .eleSeedHi e => (engineOf s e).seedHi
  | .eleStep e => (engineOf s e).step
  | r => memWord s r

end Sys2Proof.Machine
end

