-- ==== Sys2Proof/Machine/Bar0.lean ====
section
/-!
DEFINITION. Writes to registers by access type (R9, R10), the writes that have an effect of their own, and BAR0
(spec/17 R373, R381; spec/18 R385, R386; spec/08 R161, R177; spec/09 R190, R193, R194).
-/

namespace Sys2Proof.Machine

/-! ### Units that are there (R365, R370) -/

/-- The engine, or the partition, in whose block a register lies. -/
def regEngine : Reg → Option Nat
  | .arrStatus e | .arrErr e | .arrBank e | .arrTile e | .arrAccErr e | .eleStatus e | .eleErr e | .eleSeedLo e
  | .eleSeedHi e | .eleStep e => some e
  | _ => none

def regPart : Reg → Option Nat
  | .memCringBase p | .memCringCfg p | .memCringHead p | .memCringTail p | .memCctl p | .memCthr0 p | .memCthr1 p
  | .memCstat p | .memCovf p | .memErr p | .memErraddrLo p | .memErraddrHi p | .memEcnt p | .tipStatus p | .tipFence p
  | .tipLedger p | .bwrClass p _ | .bwrStat p | .updGtab p | .updCrec p | .updNoise p | .updPark p | .updParkSize p
  | .updParkStat p | .updParkLedger p | .updParityLo p | .updParityHi p | .updRstate p _ | .updSeedLo p | .updSeedHi p
  | .updErr p | .updCnt p | .cmpStat p | .cmpSlot p _ | .cmpErr p | .cmpCnt p | .farFrec p => some p
  | _ => none

/-- A register's block is there: an absent engine has none, and an ABSENT partition's do not answer. -/
def regThere (s : State) (r : Reg) : Bool :=
  (match regEngine r with
   | some e => enginePresent s e
   | none => true) &&
  (match regPart r with
   | some p => pstateOf s p != .absent
   | none => true)

/-- What a read of a register returns; a missing block is a reserved range and reads zero (R373). -/
def regRead (s : State) (r : Reg) : W32 := if regThere s r then readReg s r else 0#32

/-! ### Write-one-to-clear fields (R9, R10) -/

/-- The bits of `mask` that the write clears, but for those hardware sets in the same cycle, which stay set. -/
def clearOnes (old mask v hw : W32) : W32 := (old &&& ~~~(v &&& mask)) ||| (hw &&& v &&& mask)

/-- Plain fields take the value written; the others keep theirs. -/
def setFields (old mask v : W32) : W32 := (old &&& ~~~mask) ||| (v &&& mask)

def updEngine (s : State) (e : Nat) (f : Engine → Engine) : State := setEngine s e (f (engineOf s e))
def updMem (s : State) (p : Nat) (f : MemSide → MemSide) : State := setMem s p (f (memOf s p))
def updCensus (s : State) (p : Nat) (f : Census → Census) : State := updMem s p (fun m => { m with census := f m.census })
def updUpd (s : State) (p : Nat) (f : Upd → Upd) : State := setUpd s p (f (updOf s p))

/-- A mailbox field written while BUSY is discarded, with OVERRUN (R386). -/
def mbxField (s : State) (i : Nat) (f : Mailbox → Mailbox) : State :=
  let x := mailboxOf s i
  if bitAt x.status 31 then setMailbox s i { x with status := setBit x.status 29 } else setMailbox s i (f x)

/-- Cause bits cleared; one that hardware sets in the same cycle stays and sends its message again (R381). -/
def irqClear (s : State) (v hw : W32) : State :=
  let gone := v &&& 0x1FFFFFF#32
  let s := { s with cxl := { s.cxl with irqStat := s.cxl.irqStat &&& ~~~gone } }
  ((List.range 25).filter (fun k => bitAt gone k && bitAt hw k)).foldl (fun s k => raiseVector s k) s

/-! ### REGISTER_WRITE -/

/-- Writes to the registers of the power manager, resets, security, host interface and mailboxes. -/
def writeSys (s : State) (v hw : W32) : Reg → State
  | .pwrStat => updPwr s (fun p => { p with sticky := clearOnes p.sticky 0xF00000#32 v hw })
  | .pwrWakeLo => updPwr s (fun p => { p with wakeLo := v })
  | .pwrWakeHi => updPwr s (fun p => { p with wakeHi := v })
  | .pwrAonStat => updPwr s (fun p => { p with aonStat := setFields (clearOnes p.aonStat 7#32 v hw) 0x80000000#32 v })
  | .pwrRail => updPwr s (fun p => { p with latch := (p.latch &&& ~~~(BitVec.ofNat 14 (bits v 29 16))) |||
                                                     BitVec.ofNat 14 (bits (v &&& hw) 29 16) })
  | .rstPolicy => { s with rst := { s.rst with policy := v &&& 3#32 } }
  | .rstFence => { s with rst := { s.rst with fence := clearOnes s.rst.fence 0xFFFFFF00#32 v hw } }
  | .rstSbwdog => { s with rst := { s.rst with sbwdog := clearOnes s.rst.sbwdog 0x80000000#32 v hw } }
  | .secBoot => { s with sec := { s.sec with fallback := (s.sec.fallback && !bitAt v 22) || (bitAt v 22 && bitAt hw 22) } }
  | .mbxIrqStat => irqClear s v hw
  | .mbxHerr => { s with cxl := { s.cxl with herr := clearOnes s.cxl.herr 0x1F#32 v hw } }
  | .mbxCmd i => mbxField s i (fun x => { x with cmd := v })
  | .mbxPlen i => mbxField s i (fun x => { x with plen := v &&& 0x1FFF#32 })
  | .mbxArgLo i n => mbxField s i (fun x => { x with args := Tbl.set x.args (2 * n.val) v })
  | .mbxArgHi i n => mbxField s i (fun x => { x with args := Tbl.set x.args (2 * n.val + 1) v })
  | .mbxStatus i => let x := mailboxOf s i; setMailbox s i { x with status := clearOnes x.status 0x60000000#32 v hw }
  | _ => s

/-- Writes to the registers of the caller and of the update, set, compression, far, cipher and Bindery units. -/
def writeUnit (s : State) (v hw : W32) : Reg → State
  | .calErr => { s with cal := { s.cal with err := clearOnes s.cal.err 0x3FF#32 v hw } }
  | .calWdgStat => { s with cal := { s.cal with wdgStat := clearOnes s.cal.wdgStat 0xE0000000#32 v hw } }
  | .calFerr => { s with fill := { s.fill with err := clearOnes s.fill.err 0x1F#32 v hw } }
  | .calFloop n => setLoopReg s true n v
  | .updSeedLo p => updUpd s p (fun u => { u with seedLo := v })
  | .updSeedHi p => updUpd s p (fun u => { u with seedHi := v })
  | .updErr p => updUpd s p (fun u => { u with err := clearOnes u.err 0x1F#32 v hw })
  | .setErr => { s with setErr := clearOnes s.setErr 0x3F#32 v hw }
  | .cmpErr p => let x := cmpOf s p; setCmp s p { x with err := clearOnes x.err 0x1F#32 v hw }
  | .farErr => { s with far := { s.far with err := clearOnes s.far.err 0xF#32 v hw } }
  | .cipErr => updCip s (fun c => { c with err := clearOnes c.err 0xF#32 v hw })
  | .bndErr => updBnd s (fun b => { b with err := clearOnes b.err 7#32 v hw })
  | .bndSeedLo => updBnd s (fun b => { b with seedLo := v })
  | .bndSeedHi => updBnd s (fun b => { b with seedHi := v })
  | r => writeSys s v hw r

/-- A write to a register without an effect of its own (R9): RW fields take the value, RW1C bits clear where 1 is written,
and RO, WO and reserved fields do not move. `hw` are bits that hardware sets in the same cycle (R10). -/
def writeReg (s : State) (v hw : W32) : Reg → State
  | .arrErr e => updEngine s e (fun x => { x with arrErr := clearOnes x.arrErr 0xF#32 v hw })
  | .arrAccErr e => updEngine s e (fun x => { x with accErr := clearOnes x.accErr 0x1F#32 v hw })
  | .eleErr e => updEngine s e (fun x => { x with eleErr := clearOnes x.eleErr 0xF#32 v hw })
  | .eleSeedLo e => updEngine s e (fun x => { x with seedLo := v })
  | .eleSeedHi e => updEngine s e (fun x => { x with seedHi := v })
  | .eleStep e => updEngine s e (fun x => { x with step := v })
  | .memCctl p => updCensus s p (fun c => { c with cctl := v &&& 0xFF#32 })
  | .memCthr0 p => updCensus s p (fun c => { c with cthr0 := v })
  | .memCthr1 p => updCensus s p (fun c => { c with cthr1 := v &&& 0xC03FFFFF#32 })
  | .memCstat p => updCensus s p (fun c => { c with cstat := clearOnes c.cstat 0xD#32 v hw })
  | .memErr p => updMem s p (fun m => { m with err := clearOnes m.err 0x1FF#32 v hw })
  | .bwrStat p => updRegs s p (fun r => { r with cfgerr := (r.cfgerr && !bitAt v 31) || (bitAt v 31 && bitAt hw 31) })
  | r => writeUnit s v hw r

/-! ### Writes with an effect of their own -/

/-- A ring of a mailbox's doorbell (R386): nothing but OVERRUN while BUSY, else the command is submitted. -/
def mbxRing (s : State) (i : Nat) (v : W32) : State :=
  if !bitAt v 0 then s
  else
    let x := mailboxOf s i
    if bitAt x.status 31 then setMailbox s i { x with status := setBit x.status 29 }
    else
      let s := setMailbox s i { x with status := 0x80010000#32 ||| (x.status &&& 0x20000000#32) }
      { s with jante := { s.jante with rung := s.jante.rung ++ [i] } }

/-- `CAL_TOKPOST`: one count on its way to the caller; a fill post while fill is off posts nothing (R190). -/
def tokPost (s : State) (v : W32) : State :=
  if bitAt v 31 && !s.fill.en then s else sendPost s .software (bitAt v 31) (bits v 5 0)

/-- `CAL_CTL.BANKXOR` (R177). -/
def bankxorSet (s : State) (v : W32) : State := { s with cal := { s.cal with bankxor := bitAt v 31 } }

/-- `CAL_WDOG.TIMEOUT`, 1 to 100,000, else ignored with CFGERR (R193). -/
def wdogSet (s : State) (v : W32) : State :=
  let t := bits v 16 0
  if t = 0 ∨ 100000 < t then { s with cal := { s.cal with wdgStat := setBit s.cal.wdgStat 29 } }
  else { s with cal := { s.cal with wdog := BitVec.ofNat 32 t } }

/-- `CIP_LOCK`: the request bit, then the release bit (R333). -/
def cipLockWrite (s : State) (v : W32) : State :=
  let s := if bitAt v 31 then lockRequest s .host else s
  if bitAt v 30 then lockRelease s .host else s

/-- A software write to any register: to the operation of its own where it has one. -/
def anyWrite (s : State) (v hw : W32) (r : Reg) : State :=
  if !regThere s r then s
  else
    match r with
    | .calTokpost => tokPost s v
    | .calCtl => bankxorSet s v
    | .calWdog => wdogSet s v
    | .calSpan n => setSpanReg s n v.toNat
    | .calLoop n => setLoopReg s false n v
    | .memCringCfg p => cringCfg s p v
    | .memCringBase p => cringBase s p v
    | .memCringTail p => cringTail s p v
    | .memGilCtl =>
      let s := gilWrite s v
      if bitAt v 29 && bitAt hw 29 then { s with gil := setBit s.gil 29 } else s
    | .bwrClass p c => classWrite s p c v
    | .tipFence p => if bitAt v 0 then tipFenceStart s p else s
    | .cipLock => cipLockWrite s v
    | .cipLockto => locktoWrite s v
    | .mbxDoorbell i => mbxRing s i v
    | r => writeReg s v hw r

def execRegisterWrite (r : Reg) (v hwSet : W32) (s : State) : Host.Outcome State Fault Refusal :=
  .next (if softUp s then anyWrite s v hwSet r else s)

def execCalTokpostWrite (v : W32) (s : State) : Host.Outcome State Fault Refusal := .next (if softUp s then tokPost s v else s)
def execBankxorWrite (v : W32) (s : State) : Host.Outcome State Fault Refusal := .next (if softUp s then bankxorSet s v else s)
def execCalWdogWrite (v : W32) (s : State) : Host.Outcome State Fault Refusal := .next (if softUp s then wdogSet s v else s)

def execCalSpanWrite (n : Fin 8) (v : W32) (s : State) : Host.Outcome State Fault Refusal :=
  .next (if softUp s then setSpanReg s n v.toNat else s)

def execCalLoopWrite (n : Fin 4) (v : W32) (s : State) : Host.Outcome State Fault Refusal :=
  .next (if softUp s then setLoopReg s false n v else s)

/-- The port is up and BAR0 answers (R373, R391, R439). -/
def bar0Up (s : State) : Bool := s.cxl.up && regsUp s

def execMbxDoorbellRing (i : Fin 16) (v : W32) (s : State) : Host.Outcome State Fault Refusal :=
  .next (if bar0Up s then mbxRing s i v else s)

/-! ### BAR0 (R373) -/

/-- The register the next higher dword holds, where the spec says which: the two halves of a pair and the mailbox layout
(R385; notes/assumptions/4.md). -/
def nextReg : Reg → Option Reg
  | .eleSeedLo e => some (.eleSeedHi e)
  | .memErraddrLo p => some (.memErraddrHi p)
  | .calImgLo => some .calImgHi
  | .calScycLo => some .calScycHi
  | .updParityLo p => some (.updParityHi p)
  | .updSeedLo p => some (.updSeedHi p)
  | .lnkVcwtLo => some .lnkVcwtHi
  | .farTickLo => some .farTickHi
  | .farPpsLo => some .farPpsHi
  | .cipSlotLo => some .cipSlotHi
  | .bndSeedLo => some .bndSeedHi
  | .pwrWakeLo => some .pwrWakeHi
  | .mbxCmd i => some (.mbxPlen i)
  | .mbxDoorbell i => some (.mbxStatus i)
  | .mbxArgLo i n => some (.mbxArgHi i n)
  | _ => none

/-- A dword of the MSI-X table written: an entry unmasked with its pending bit set sends its message (R381). -/
def msixWrite (s : State) (dw : Nat) (v : W32) : State :=
  if 128 ≤ dw then s
  else
    let k := dw / 4
    let s := { s with cxl := { s.cxl with msix := Tbl.set s.cxl.msix dw (if dw % 4 = 3 then v &&& 1#32 else v) } }
    if dw % 4 = 3 ∧ !bitAt v 0 ∧ bitAt s.cxl.pba k then
      { s with cxl := { s.cxl with pba := clrBit s.cxl.pba k }, out := .msi k :: s.out }
    else s

def msixRead (s : State) (dw : Nat) : W32 :=
  if 128 ≤ dw then 0#32 else Tbl.get (if dw % 4 = 3 then 1#32 else 0#32) s.cxl.msix dw

/-- A payload dword of a mailbox (R385, R386). -/
def payloadWrite (s : State) (i off : Nat) (v : W32) : State :=
  mbxField s i (fun x => { x with payload := memWrite x.payload off (natBytes 4 v.toNat) })

/-- A dword of a cipher descriptor bank; CTL carries GO (R323). -/
def cipBankWrite (s : State) (o : Owner) (off : Nat) (v : W32) : State :=
  if off = 0 then cipGo s o v else if off < 0x38 then setBankDw s o (off / 4) v else s

/-- A place in a mailbox's block (R385). -/
def mailboxDecode (i : Fin 16) (off : Nat) : Bar0Target :=
  if off = 0 then .reg (.mbxCmd i) else if off = 4 then .reg (.mbxPlen i)
  else if off = 8 then .reg (.mbxDoorbell i) else if off = 12 then .reg (.mbxStatus i)
  else if 0x10 ≤ off ∧ off < 0x50 then
    (if off % 8 = 0 then .reg (.mbxArgLo i (Fin.ofNat 8 ((off - 0x10) / 8))) else .reg (.mbxArgHi i (Fin.ofNat 8 ((off - 0x10) / 8))))
  else if 0x1000 ≤ off ∧ off < 0x2000 then .mailboxPayload i (off - 0x1000)
  else .reserved

/-- A place in the register blocks and descriptor banks, where REGMAP and the part put them (R365, R373; notes/assumptions/4.md). -/
def blockDecode (off : Nat) : Bar0Target :=
  match [Owner.host, .movers, .mp, .far].zipIdx.find? (fun o =>
    decide (Config.regBase 6 (o.2 + 1) ≤ off) && decide (off < Config.regBase 6 (o.2 + 1) + 0x38)) with
  | some o => .cipherBank o.1 (off - Config.regBase 6 (o.2 + 1))
  | none => (Config.regAt off).elim .reserved .reg

/-- The layout of BAR0, by the offset of a 4-byte access (R373). -/
def bar0Decode (off : Nat) : Bar0Target :=
  if off < 0x100000 then .folio off
  else if off < 0x200000 then mailboxDecode (Fin.ofNat 16 ((off - 0x100000) / 0x10000)) ((off - 0x100000) % 0x10000)
  else if off < 0x200200 then .msix (off - 0x200000)
  else if 0x201000 ≤ off ∧ off < 0x201008 then .pba (off - 0x201000)
  else if 0x1000000 ≤ off ∧ off < 0x10000000 then blockDecode off
  else .reserved

/-- One 4-byte write at a target; `hi` tells the upper half of an 8-byte access. -/
def bar0Put (s : State) (t : Bar0Target) (hi : Bool) (v : W32) : State :=
  let up := 4 * b2n hi
  match t with
  | .mailboxPayload i off => if off + up < 4096 then payloadWrite s i (off + up) v else s
  | .msix off => msixWrite s ((off + up) / 4) v
  | .reg r => match (if hi then nextReg r else some r) with
    | some r => anyWrite s v 0#32 r
    | none => s
  | .cipherBank o off => cipBankWrite s o (off + up) v
  | .folio _ | .pba _ | .reserved | .offset _ => s

/-- A 4-byte write: at an offset of BAR0 each half of an 8-byte access decodes its own. -/
def bar0Write4 (s : State) (t : Bar0Target) (hi : Bool) (v : W32) : State :=
  match t with
  | .offset off => bar0Put s (bar0Decode (off + 4 * b2n hi)) false v
  | t => bar0Put s t hi v

/-- One 4-byte read at a target. -/
def bar0Get (s : State) (t : Bar0Target) (hi : Bool) : Nat :=
  let up := 4 * b2n hi
  match t with
  | .folio off => bytesNat (folioRead s (off + up) 4)
  | .mailboxPayload i off => if off + up < 4096 then memReadNat (mailboxOf s i).payload (off + up) 4 else 0
  | .msix off => (msixRead s ((off + up) / 4)).toNat
  | .pba off => if off + up < 8 then (s.cxl.pba.toNat >>> (8 * (off + up))) % 2 ^ 32 else 0
  | .reg r => match (if hi then nextReg r else some r) with
    | some r => (regRead s r).toNat
    | none => 0
  | .cipherBank o off => if off + up < 0x38 then (bankDw s o ((off + up) / 4)).toNat else 0
  | .reserved | .offset _ => 0

def bar0Read4 (s : State) (t : Bar0Target) (hi : Bool) : Nat :=
  match t with
  | .offset off => bar0Get s (bar0Decode (off + 4 * b2n hi)) false
  | t => bar0Get s t hi

/-- The offset of a target within its range, where the command names one. -/
def targetOff : Bar0Target → Nat
  | .folio off | .mailboxPayload _ off | .msix off | .pba off | .cipherBank _ off | .offset off => off
  | .reg (.mbxPlen _) | .reg (.mbxStatus _) | .reg (.mbxArgHi _ _) => 4
  | _ => 0

/-- A host access: 4 or 8 bytes, naturally aligned, an 8-byte one as two of 4; any other size reads zero or is discarded
with BAR0SIZE (R373). -/
def bar0Access (s : State) (t : Bar0Target) (size : Nat) (write : Bool) (data : W64) : State :=
  if (size = 4 ∨ size = 8) ∧ targetOff t % size = 0 then
    if write then
      let s := bar0Write4 s t false (data.setWidth 32)
      if size = 8 then bar0Write4 s t true ((data >>> 32).setWidth 32) else s
    else
      let v := bar0Read4 s t false + (if size = 8 then bar0Read4 s t true * 2 ^ 32 else 0)
      answer s (.hostData (natBytes size v))
  else if write then setHerr s herrSize
  else answer (setHerr s herrSize) (.hostData (List.replicate size 0#8))

def execBar0Access (t : Bar0Target) (size : Nat) (write : Bool) (data : W64) (s : State) : Host.Outcome State Fault Refusal :=
  .next (if bar0Up s then bar0Access s t size write data else s)

end Sys2Proof.Machine
end

