-- ==== Sys2Proof/Machine/Jante.lean ====
section
/-!
DEFINITION. Jante takes up commands, their limits, and the sideband mailbox
(spec/18_mailbox_commands.md R386, R387, R389-R391).
-/

namespace Sys2Proof.Machine

/-! ### The check of every opcode (R387, R388) -/

/-- Levels with every rail high: the rail test of RST_PART_ACTIVATE comes with its own row. -/
def railsHigh : Levels := ⟨true, BitVec.ofNat 14 0x3FFF, 0⟩

def checkPower (s : State) (r : Req) : Option Reply :=
  match r.opcode with
  | 0x0901 => capCheck s r | 0x0902 => priorityCheck s r | 0x0903 => pavaneCheck s r | 0x0904 => pwrQueryCheck s r
  | 0x0905 => standbyCheck s r | 0x0906 => wakeCheck s r
  | 0x0A01 => rstPartCheck s r | 0x0A02 => activateCheck railsHigh s r | 0x0A03 => rstDeviceCheck s r
  | 0x0A04 => pwrQueryCheck s r | 0x0B01 => fwStageCheck s r | 0x0B02 => fwActivateCheck s r
  | _ => none

def checkCipher (s : State) (r : Req) : Option Reply :=
  match r.opcode with
  | 0x0701 => cipBindCheck s r | 0x0702 => cipUnbindCheck s r | 0x0703 => cipUnwrapCheck s r | 0x0704 => slotClearCheck s r
  | 0x0705 => cipInstallCheck s r | 0x0706 => farSwitchCheck s r | 0x0707 => farQueryCheck 0 s r | 0x0708 => cipMoveCheck s r
  | 0x0801 => fsCfgCheck s r | 0x0802 => filterCheck s r | 0x0803 => colourCheck s r | 0x0804 => jobSubmitCheck s r
  | 0x0805 => jobStopCheck s r | 0x0806 => farQueryCheck 0 s r
  | _ => checkPower s r

def checkRounds (s : State) (r : Req) : Option Reply :=
  match r.opcode with
  | 0x0501 => groupLoadCheck s r | 0x0502 => ruleLoadCheck s r | 0x0503 => parkCfgCheck s r | 0x0504 => baseCfgCheck s r
  | 0x0505 => updQueryCheck s r | 0x0506 => rollCheck s r
  | 0x0601 => farConfigCheck s r | 0x0602 => farLoadCheck s r | 0x0603 => partnerSetCheck s r | 0x0604 => partnerDelCheck s r
  | 0x0605 => farJoinCheck s r | 0x0606 => farEnableCheck s r | 0x0607 => farDisableCheck s r | 0x0608 => farQueryCheck 0 s r
  | 0x0609 => farQueryCheck 1 s r
  | _ => checkCipher s r

def checkSets (s : State) (r : Req) : Option Reply :=
  match r.opcode with
  | 0x0401 => setConfigCheck s r | 0x0402 => setCmdCheck idleEmpty s r | 0x0403 => setCmdCheck anyPhase s r
  | 0x0404 => setCmdCheck anyPhase s r | 0x0405 => setResolveCheck s r | 0x0406 => setCmdCheck (·.phase == .hold) s r
  | 0x0407 => setCmdCheck (·.phase == .hold) s r | 0x0408 => setCmdCheck anyPhase s r | 0x0409 => lnkConfigCheck s r
  | 0x040A => lnkRetrainCheck s r | 0x040B => tableLoadCheck s r | 0x040C => resCfgCheck s r | 0x040D => resClearCheck s r
  | 0x040E => encodeCheck s r
  | _ => checkRounds s r

/-- The checks of a command in their order, from step 3 of R387 on. -/
def cmdCheck (s : State) (r : Req) : Option Reply :=
  match r.opcode with
  | 0x0101 => devQueryCheck s r | 0x0110 => boardWriteCheck s r | 0x0111 => folReadCheck s r
  | 0x0201 => loadBankCheck s r | 0x0202 => startCheck s r | 0x0203 => resumeCheck s r | 0x0204 => endCheck s r
  | 0x0205 => fillStartCheck s r | 0x0206 => fillStopCheck s r | 0x0301 => slowMapCheck s r
  | _ => checkSets s r

/-- Memory that a command's checks and effect read and write, which a host may hold (R376). -/
def cmdRanges (s : State) (r : Req) : List (Nat × Nat) × List (Nat × Nat) :=
  match r.opcode with
  | 0x0201 => loadBankRanges s r | 0x0202 => startRanges s r | 0x0205 => startRanges s r
  | 0x040B => tableLoadRanges s r | 0x040C => resCfgRanges s r | 0x040D => resClearRanges s r | 0x040E => encodeRanges s r
  | 0x0501 => groupLoadRanges s r | 0x0502 => ruleLoadRanges s r | 0x0506 => rollRanges s r
  | 0x0504 => baseCfgRanges s r | 0x0601 => farConfigRanges s r | 0x0606 => repeatRanges s
  | 0x0602 => farLoadRanges s r | 0x0B01 => fwStageRanges s r
  | _ => ([], [])

/-! ### COMMAND_TAKE_UP (R387) -/

/-- The command standing in mailbox `i`. -/
def boxReq (s : State) (i : Nat) : Req :=
  let x := mailboxOf s i
  let plen := bits x.plen 12 0
  { src := i, opcode := bits x.cmd 15 0, tag := bits x.cmd 31 16, plen := plen,
    args := (List.range 8).map (fun n =>
      BitVec.ofNat 64 ((Tbl.get 0#32 x.args (2 * n)).toNat + (Tbl.get 0#32 x.args (2 * n + 1)).toNat * 2 ^ 32)),
    payload := memRead x.payload 0 (min plen 4096) }

/-- The next rung command: the mailbox, and the command. In STANDBY only the sideband is served (R391). -/
def nextRung (s : State) : Option Req :=
  match s.jante.rung with
  | [] => none
  | i :: _ =>
    if s.dev = .standby ∧ i ≠ 16 then none
    else if i = 16 then s.jante.sideband
    else some (boxReq s i)

/-- Commands whose chapter states an order of their own, in place of steps 3 to 6: the test of PLEN stands among their checks
behind the first two groups of R387 (R174, R180, R197, R320, R354, R367, R436). -/
def ownOrder : List Nat := [0x0110, 0x0201, 0x0202, 0x0205, 0x0703, 0x0804, 0x0B01]

/-- Every check of a command, steps 1 to 6 of R387. -/
def examine (s : State) (r : Req) : Option Reply :=
  firstOf [firstChecks s r, if ownOrder.contains r.opcode then none else plenPasses r, cmdCheck s r]

/-- Jante takes up the next rung command, one at a time; the first failed check completes it with no other effect. -/
def takeCommand (s : State) : State :=
  if s.jante.exam.isSome || !janteAnswers s then s
  else
    match nextRung s with
    | none => s
    | some r =>
      match hostHolds s (cmdRanges s r).1 (cmdRanges s r).2 with
      | some s => s
      | none =>
        let s' := { s with jante := { s.jante with rung := s.jante.rung.tail } }
        match examine s r with
        | some a => completeReq s' r a.1 a.2
        | none => { s' with jante := { s'.jante with exam := some r } }

def execCommandTakeUp (s : State) : Host.Outcome State Fault Refusal := .next (takeCommand s)

/-! ### COMMAND_TIMEOUT (R387) -/

/-- Commands with a limit of their own. -/
def limited (op : Nat) : Bool := [0x0110, 0x0201, 0x040B, 0x0605, 0x0A01, 0x0A02, 0x0B01].contains op

/-- What a command gives up when its limit passes: a load, a slot, a join. -/
def giveUp (s : State) (p : Pend) : State :=
  match p.req.opcode with
  | 0x0201 => setLoading s (bankArg p.req) false
  | 0x040B => { s with cmpLoading := s.cmpLoading.filter (· != argOf p.req 0) }
  | 0x0605 => setFarErr (updFar s (fun f => { f with phase := .none, join := none })) 3
  | 0x0B01 => setSlotState s (!s.sec.slot) .invalid
  | _ => s

/-- The limit of the command of a sender passes while it is PENDING. -/
def commandTimeout (s : State) (i : Nat) : State :=
  let mine (p : Pend) : Bool := p.req.src == i && limited p.req.opcode
  if s.rst.mpDown then s
  else
    match s.jante.pend.find? mine with
    | none => s
    | some p => finishPend (giveUp s p) mine .timeout []

def execCommandTimeout (i : Fin 17) (s : State) : Host.Outcome State Fault Refusal := .next (commandTimeout s i)

/-! ### SIDEBAND_REQUEST (R390, R391) -/

/-- An answer that leaves the pending sideband command as it is. -/
def sidebandAnswer (s : State) (opcode tag : Nat) (st : Status) (resp : List Byte) : State :=
  let msg := natBytes 2 opcode ++ natBytes 2 tag ++ natBytes 1 (statusCode st) ++ natBytes 3 0 ++ natBytes 4 resp.length ++ resp
  { s with out := .mctp tag (statusCode st) msg :: s.out }

/-- The bytes after the vendor header: OPCODE, TAG, PLEN, A0 to A7, then the payload (R390). -/
def sidebandReq (fields payload : List Byte) : Req :=
  let plen := natAt fields 4 4
  { src := 16, opcode := natAt fields 0 2, tag := natAt fields 2 2, plen := plen,
    args := (List.range 8).map (fun n => BitVec.ofNat 64 (natAt fields (8 + 8 * n) 8)), payload := payload.take (min plen 4096) }

/-- Opcodes the always-on domain answers in STANDBY (R391). -/
def standbyOps : List Nat := [0x0101, 0x0901, 0x0906]

/-- A request arrives: BUSY while one is pending; in STANDBY the always-on domain takes it at once or refuses it, else it
waits for Jante behind the host mailboxes rung before it. -/
def sidebandIn (s : State) (r : Req) : State :=
  let queued : State := { s with jante := { s.jante with sideband := some r } }
  if s.dev = .off then s
  else if s.jante.sideband.isSome then sidebandAnswer s r.opcode r.tag .busy []
  else if s.dev ≠ .standby then { queued with jante := { queued.jante with rung := s.jante.rung ++ [16] } }
  else if !commandSet.contains r.opcode then sidebandAnswer s r.opcode r.tag .badOpcode []
  else if !standbyOps.contains r.opcode then sidebandAnswer s r.opcode r.tag .stateConflict (statePayload s noConflict)
  else
    match examine s r with
    | some a => completeReq queued r a.1 a.2
    | none => { queued with jante := { queued.jante with exam := some r } }

/-- An MCTP message: only vendor-defined ones of the G9's vendor identifier carry commands (R390). -/
def sidebandMessage (s : State) (type vendor : Nat) (fields payload : List Byte) : State :=
  if type = 0x7F ∧ vendor = Config.mctpVendor then sidebandIn s (sidebandReq fields payload) else s

def execSidebandRequest (type vendor : Nat) (fields payload : List Byte) (s : State) : Host.Outcome State Fault Refusal :=
  .next (sidebandMessage s type vendor fields payload)

end Sys2Proof.Machine
end

