-- ==== Sys2Proof/Machine/Dispatch.lean ====
section
/-!
DEFINITION. The dispatch of the commands: one arm per constructor of `Instr`, each one direct call of its meaning.
-/

namespace Sys2Proof.Machine

def exec (i : Instr) (s : State) : Host.Outcome State Fault Refusal :=
  match i with
  | .mbxDoorbellRing m v => Sys2Proof.Machine.execMbxDoorbellRing m v s
  | .commandTakeUp => Sys2Proof.Machine.execCommandTakeUp s
  | .commandTimeout m => Sys2Proof.Machine.execCommandTimeout m s
  | .sidebandRequest type vendor fields payload => Sys2Proof.Machine.execSidebandRequest type vendor fields payload s
  | .devQuery => Sys2Proof.Machine.execDevQuery s
  | .folBoardWrite => Sys2Proof.Machine.execFolBoardWrite s
  | .boardWriteComplete => Sys2Proof.Machine.execBoardWriteComplete s
  | .folRead => Sys2Proof.Machine.execFolRead s
  | .memSlowMap => Sys2Proof.Machine.execMemSlowMap s
  | .streamLoadBank => Sys2Proof.Machine.execStreamLoadBank s
  | .bankLoadComplete b => Sys2Proof.Machine.execBankLoadComplete b s
  | .streamStart => Sys2Proof.Machine.execStreamStart s
  | .streamResume => Sys2Proof.Machine.execStreamResume s
  | .streamEnd => Sys2Proof.Machine.execStreamEnd s
  | .streamEndComplete => Sys2Proof.Machine.execStreamEndComplete s
  | .streamFillStart => Sys2Proof.Machine.execStreamFillStart s
  | .streamFillStop => Sys2Proof.Machine.execStreamFillStop s
  | .fillStopComplete => Sys2Proof.Machine.execFillStopComplete s
  | .setConfig => Sys2Proof.Machine.execSetConfig s
  | .setRelease => Sys2Proof.Machine.execSetRelease s
  | .setFreeze => Sys2Proof.Machine.execSetFreeze s
  | .setThaw => Sys2Proof.Machine.execSetThaw s
  | .setResolve => Sys2Proof.Machine.execSetResolve s
  | .setRedo => Sys2Proof.Machine.execSetRedo s
  | .setDiscard => Sys2Proof.Machine.execSetDiscard s
  | .setQuery => Sys2Proof.Machine.execSetQuery s
  | .lnkConfig => Sys2Proof.Machine.execLnkConfig s
  | .lnkRetrain => Sys2Proof.Machine.execLnkRetrain s
  | .cmpTableLoad => Sys2Proof.Machine.execCmpTableLoad s
  | .cmpTableLoadComplete k => Sys2Proof.Machine.execCmpTableLoadComplete k s
  | .cmpResCfg => Sys2Proof.Machine.execCmpResCfg s
  | .cmpResClear => Sys2Proof.Machine.execCmpResClear s
  | .cmpEncode => Sys2Proof.Machine.execCmpEncode s
  | .cmpEncodeComplete => Sys2Proof.Machine.execCmpEncodeComplete s
  | .updGroupLoad => Sys2Proof.Machine.execUpdGroupLoad s
  | .updGroupLoadComplete p => Sys2Proof.Machine.execUpdGroupLoadComplete p s
  | .updRuleLoad => Sys2Proof.Machine.execUpdRuleLoad s
  | .updParkCfg => Sys2Proof.Machine.execUpdParkCfg s
  | .updBaseCfg => Sys2Proof.Machine.execUpdBaseCfg s
  | .updSetQuery => Sys2Proof.Machine.execUpdSetQuery s
  | .updRollForward => Sys2Proof.Machine.execUpdRollForward s
  | .farConfig => Sys2Proof.Machine.execFarConfig s
  | .farGroupLoad => Sys2Proof.Machine.execFarGroupLoad s
  | .farPartnerSet => Sys2Proof.Machine.execFarPartnerSet s
  | .farPartnerDel => Sys2Proof.Machine.execFarPartnerDel s
  | .farJoin => Sys2Proof.Machine.execFarJoin s
  | .farJoinComplete => Sys2Proof.Machine.execFarJoinComplete s
  | .farEnable => Sys2Proof.Machine.execFarEnable s
  | .farDisable => Sys2Proof.Machine.execFarDisable s
  | .farRoundQuery => Sys2Proof.Machine.execFarRoundQuery s
  | .farTimeQuery => Sys2Proof.Machine.execFarTimeQuery s
  | .cipBind => Sys2Proof.Machine.execCipBind s
  | .cipUnbind => Sys2Proof.Machine.execCipUnbind s
  | .cipUnwrap => Sys2Proof.Machine.execCipUnwrap s
  | .cipSlotClear => Sys2Proof.Machine.execCipSlotClear s
  | .cipFarInstall => Sys2Proof.Machine.execCipFarInstall s
  | .cipFarSwitch => Sys2Proof.Machine.execCipFarSwitch s
  | .cipQuery => Sys2Proof.Machine.execCipQuery s
  | .cipMove => Sys2Proof.Machine.execCipMove s
  | .bndFsCfg => Sys2Proof.Machine.execBndFsCfg s
  | .bndFilterLoad => Sys2Proof.Machine.execBndFilterLoad s
  | .bndColourLoad => Sys2Proof.Machine.execBndColourLoad s
  | .bndJobSubmit => Sys2Proof.Machine.execBndJobSubmit s
  | .bndJobStop => Sys2Proof.Machine.execBndJobStop s
  | .bndJobStopComplete => Sys2Proof.Machine.execBndJobStopComplete s
  | .bndQuery => Sys2Proof.Machine.execBndQuery s
  | .pwrCapSet => Sys2Proof.Machine.execPwrCapSet s
  | .pwrPriority => Sys2Proof.Machine.execPwrPriority s
  | .pwrPavane => Sys2Proof.Machine.execPwrPavane s
  | .pwrQuery => Sys2Proof.Machine.execPwrQuery s
  | .pwrStandby => Sys2Proof.Machine.execPwrStandby s
  | .pwrWake lv => Sys2Proof.Machine.execPwrWake lv s
  | .rstPartition => Sys2Proof.Machine.execRstPartition s
  | .rstPartActivate lv => Sys2Proof.Machine.execRstPartActivate lv s
  | .partitionActivateComplete p => Sys2Proof.Machine.execPartitionActivateComplete p s
  | .rstDevice lv => Sys2Proof.Machine.execRstDevice lv s
  | .rstQuery => Sys2Proof.Machine.execRstQuery s
  | .secFwStage => Sys2Proof.Machine.execSecFwStage s
  | .secFwStageComplete => Sys2Proof.Machine.execSecFwStageComplete s
  | .secFwActivate => Sys2Proof.Machine.execSecFwActivate s
  | .registerWrite r v hwSet => Sys2Proof.Machine.execRegisterWrite r v hwSet s
  | .calTokpostWrite v => Sys2Proof.Machine.execCalTokpostWrite v s
  | .bankxorWrite v => Sys2Proof.Machine.execBankxorWrite v s
  | .calWdogWrite v => Sys2Proof.Machine.execCalWdogWrite v s
  | .calSpanWrite n v => Sys2Proof.Machine.execCalSpanWrite n v s
  | .calLoopWrite n v => Sys2Proof.Machine.execCalLoopWrite n v s
  | .memCringCfgWrite p v => Sys2Proof.Machine.execMemCringCfgWrite p v s
  | .memCringBaseWrite p v => Sys2Proof.Machine.execMemCringBaseWrite p v s
  | .memCringTailWrite p v => Sys2Proof.Machine.execMemCringTailWrite p v s
  | .memGilCtlWrite v => Sys2Proof.Machine.execMemGilCtlWrite v s
  | .bwrClassWrite p c v => Sys2Proof.Machine.execBwrClassWrite p c v s
  | .tipFenceGo p v => Sys2Proof.Machine.execTipFenceGo p v s
  | .reqHost => Sys2Proof.Machine.execReqHost s
  | .relHost => Sys2Proof.Machine.execRelHost s
  | .cipGo o v => Sys2Proof.Machine.execCipGo o v s
  | .cipLocktoWrite v => Sys2Proof.Machine.execCipLocktoWrite v s
  | .measureFetchRequest => Sys2Proof.Machine.execMeasureFetchRequest s
  | .measureFetchArrive => Sys2Proof.Machine.execMeasureFetchArrive s
  | .measureIssue cycles => Sys2Proof.Machine.execMeasureIssue cycles s
  | .spanEnd => Sys2Proof.Machine.execSpanEnd s
  | .controlNop => Sys2Proof.Machine.execControlNop s
  | .halt => Sys2Proof.Machine.execHalt s
  | .streamHaltComplete => Sys2Proof.Machine.execStreamHaltComplete s
  | .jump => Sys2Proof.Machine.execJump s
  | .loop => Sys2Proof.Machine.execLoop s
  | .setloop => Sys2Proof.Machine.execSetloop s
  | .rseg => Sys2Proof.Machine.execRseg s
  | .replay => Sys2Proof.Machine.execReplay s
  | .replayMeasureDeliver => Sys2Proof.Machine.execReplayMeasureDeliver s
  | .verchk => Sys2Proof.Machine.execVerchk s
  | .step => Sys2Proof.Machine.execStep s
  | .repriseStart => Sys2Proof.Machine.execRepriseStart s
  | .repriseEnd => Sys2Proof.Machine.execRepriseEnd s
  | .tokenPostArrive => Sys2Proof.Machine.execTokenPostArrive s
  | .heldPostCounted fill token => Sys2Proof.Machine.execHeldPostCounted fill token s
  | .streamWatchdogBite => Sys2Proof.Machine.execStreamWatchdogBite s
  | .fillWatchdogBite => Sys2Proof.Machine.execFillWatchdogBite s
  | .fillMeasureIssue => Sys2Proof.Machine.execFillMeasureIssue s
  | .reclaimStart c => Sys2Proof.Machine.execReclaimStart c s
  | .reclaimComplete c => Sys2Proof.Machine.execReclaimComplete c s
  | .arrayPass e => Sys2Proof.Machine.execArrayPass e s
  | .arrayLoad e => Sys2Proof.Machine.execArrayLoad e s
  | .arrayPassLoad e => Sys2Proof.Machine.execArrayPassLoad e s
  | .arrayElem e => Sys2Proof.Machine.execArrayElem e s
  | .weightLoadComplete e a => Sys2Proof.Machine.execWeightLoadComplete e a s
  | .rowStep e a => Sys2Proof.Machine.execRowStep e a s
  | .bankWrite e => Sys2Proof.Machine.execBankWrite e s
  | .elementRun e => Sys2Proof.Machine.execElementRun e s
  | .elementDrain e => Sys2Proof.Machine.execElementDrain e s
  | .elementSync e => Sys2Proof.Machine.execElementSync e s
  | .drainDescriptorsTaken e => Sys2Proof.Machine.execDrainDescriptorsTaken e s
  | .elementRowRead e => Sys2Proof.Machine.execElementRowRead e s
  | .elementOutputWrite e => Sys2Proof.Machine.execElementOutputWrite e s
  | .elementActionComplete e => Sys2Proof.Machine.execElementActionComplete e s
  | .copy c m => Sys2Proof.Machine.execCopy c m s
  | .zero c m => Sys2Proof.Machine.execZero c m s
  | .seal c m => Sys2Proof.Machine.execSeal c m s
  | .moverActionStart c m => Sys2Proof.Machine.execMoverActionStart c m s
  | .moverActionComplete c m => Sys2Proof.Machine.execMoverActionComplete c m s
  | .setEnqueue c => Sys2Proof.Machine.execSetEnqueue c s
  | .expandEnqueue c => Sys2Proof.Machine.execExpandEnqueue c s
  | .spanld c => Sys2Proof.Machine.execSpanld c s
  | .spanldWrite c => Sys2Proof.Machine.execSpanldWrite c s
  | .expanderStart p x => Sys2Proof.Machine.execExpanderStart p x s
  | .expanderComplete p x => Sys2Proof.Machine.execExpanderComplete p x s
  | .wholeLineWrite p line data => Sys2Proof.Machine.execWholeLineWrite p line data s
  | .partialWrite p addr data cls => Sys2Proof.Machine.execPartialWrite p addr data cls s
  | .tipinIdleFlush p line => Sys2Proof.Machine.execTipinIdleFlush p line s
  | .tipinLineFreed p line => Sys2Proof.Machine.execTipinLineFreed p line s
  | .tipinFenceComplete p => Sys2Proof.Machine.execTipinFenceComplete p s
  | .hbmRequestGrant p reqs => Sys2Proof.Machine.execHbmRequestGrant p reqs s
  | .censusRecordWrite p => Sys2Proof.Machine.execCensusRecordWrite p s
  | .censusMergeWrite p => Sys2Proof.Machine.execCensusMergeWrite p s
  | .updateChunkArrive p => Sys2Proof.Machine.execUpdateChunkArrive p s
  | .updateChunkApplied p => Sys2Proof.Machine.execUpdateChunkApplied p s
  | .parkStateArrive p slot => Sys2Proof.Machine.execParkStateArrive p slot s
  | .parkWritesComplete p slot => Sys2Proof.Machine.execParkWritesComplete p slot s
  | .roundApplied p k => Sys2Proof.Machine.execRoundApplied p k s
  | .roundCommit p k => Sys2Proof.Machine.execRoundCommit p k s
  | .commitRecordVisible p k => Sys2Proof.Machine.execCommitRecordVisible p k s
  | .roundAbort p k => Sys2Proof.Machine.execRoundAbort p k s
  | .linkTraining n r => Sys2Proof.Machine.execLinkTraining n r s
  | .dataFlitReceive n frame payload => Sys2Proof.Machine.execDataFlitReceive n frame payload s
  | .idleFlitReceive n frame payload => Sys2Proof.Machine.execIdleFlitReceive n frame payload s
  | .nakReceive n frame payload => Sys2Proof.Machine.execNakReceive n frame payload s
  | .retrainTimeout n => Sys2Proof.Machine.execRetrainTimeout n s
  | .laneHalveMarker n => Sys2Proof.Machine.execLaneHalveMarker n s
  | .setDescriptorStart k => Sys2Proof.Machine.execSetDescriptorStart k s
  | .chunkReceive n vc => Sys2Proof.Machine.execChunkReceive n vc s
  | .wcredReceive n vc => Sys2Proof.Machine.execWcredReceive n vc s
  | .voteEnter k => Sys2Proof.Machine.execVoteEnter k s
  | .voteReceive n vc => Sys2Proof.Machine.execVoteReceive n vc s
  | .abortReceive n vc => Sys2Proof.Machine.execAbortReceive n vc s
  | .nackReceive n vc => Sys2Proof.Machine.execNackReceive n vc s
  | .hopTimeout k => Sys2Proof.Machine.execHopTimeout k s
  | .freezeBoundary k => Sys2Proof.Machine.execFreezeBoundary k s
  | .farSelect => Sys2Proof.Machine.execFarSelect s
  | .farSelectComplete => Sys2Proof.Machine.execFarSelectComplete s
  | .farDeadline => Sys2Proof.Machine.execFarDeadline s
  | .farApply => Sys2Proof.Machine.execFarApply s
  | .chotinData port f => Sys2Proof.Machine.execChotinData port f s
  | .chotinSack port f => Sys2Proof.Machine.execChotinSack port f s
  | .chotinProbe port f => Sys2Proof.Machine.execChotinProbe port f s
  | .chotinProbeReply port f => Sys2Proof.Machine.execChotinProbeReply port f s
  | .chotinJoinReq port f => Sys2Proof.Machine.execChotinJoinReq port f s
  | .chotinBulk port f => Sys2Proof.Machine.execChotinBulk port f s
  | .chotinBulkEnd port f => Sys2Proof.Machine.execChotinBulkEnd port f s
  | .chotinHello port f => Sys2Proof.Machine.execChotinHello port f s
  | .chotinLeave port f => Sys2Proof.Machine.execChotinLeave port f s
  | .sackTimer entry => Sys2Proof.Machine.execSackTimer entry s
  | .rtoExpiry entry seg => Sys2Proof.Machine.execRtoExpiry entry seg s
  | .probeTimer => Sys2Proof.Machine.execProbeTimer s
  | .helloTimer entry => Sys2Proof.Machine.execHelloTimer entry s
  | .silenceTimeout entry => Sys2Proof.Machine.execSilenceTimeout entry s
  | .epochOverlapEnd entry => Sys2Proof.Machine.execEpochOverlapEnd entry s
  | .ppsEdge sub => Sys2Proof.Machine.execPpsEdge sub s
  | .farPortDown n => Sys2Proof.Machine.execFarPortDown n s
  | .neighborSolicitation port target => Sys2Proof.Machine.execNeighborSolicitation port target s
  | .echoRequest port dst data => Sys2Proof.Machine.execEchoRequest port dst data s
  | .pauseFrame port => Sys2Proof.Machine.execPauseFrame port s
  | .cipLockGrant => Sys2Proof.Machine.execCipLockGrant s
  | .cipLockWaitTimeout => Sys2Proof.Machine.execCipLockWaitTimeout s
  | .cipLockIdleRevoke => Sys2Proof.Machine.execCipLockIdleRevoke s
  | .cipMessageDone => Sys2Proof.Machine.execCipMessageDone s
  | .clipStart lane => Sys2Proof.Machine.execClipStart lane s
  | .clipDecodeDone lane => Sys2Proof.Machine.execClipDecodeDone lane s
  | .bufferHeaderPoll buf => Sys2Proof.Machine.execBufferHeaderPoll buf s
  | .pieceHeaderWrite piece => Sys2Proof.Machine.execPieceHeaderWrite piece s
  | .pieceHandoff => Sys2Proof.Machine.execPieceHandoff s
  | .jobComplete => Sys2Proof.Machine.execJobComplete s
  | .powerSample r => Sys2Proof.Machine.execPowerSample r s
  | .controlStep => Sys2Proof.Machine.execControlStep s
  | .operatingPointChangeDone => Sys2Proof.Machine.execOperatingPointChangeDone s
  | .dutyGateEnd cycles => Sys2Proof.Machine.execDutyGateEnd cycles s
  | .pwrBrakeAssert => Sys2Proof.Machine.execPwrBrakeAssert s
  | .pwrBrakeRelease => Sys2Proof.Machine.execPwrBrakeRelease s
  | .thermalThreshold temp sensor => Sys2Proof.Machine.execThermalThreshold temp sensor s
  | .thermalTrip temp sensor => Sys2Proof.Machine.execThermalTrip temp sensor s
  | .coolantLoss => Sys2Proof.Machine.execCoolantLoss s
  | .powerGoodFall rail => Sys2Proof.Machine.execPowerGoodFall rail s
  | .aonPowerGood lv => Sys2Proof.Machine.execAonPowerGood lv s
  | .aonPowerLost => Sys2Proof.Machine.execAonPowerLost s
  | .refclkInterrupt => Sys2Proof.Machine.execRefclkInterrupt s
  | .tickCompareWake lv => Sys2Proof.Machine.execTickCompareWake lv s
  | .devResetAssert => Sys2Proof.Machine.execDevResetAssert s
  | .devResetRelease lv => Sys2Proof.Machine.execDevResetRelease lv s
  | .perstAssert => Sys2Proof.Machine.execPerstAssert s
  | .perstRelease width rate => Sys2Proof.Machine.execPerstRelease width rate s
  | .fenceStart p => Sys2Proof.Machine.execFenceStart p s
  | .drainWindowEnd p errAnswered replies => Sys2Proof.Machine.execDrainWindowEnd p errAnswered replies s
  | .partitionResetDone p => Sys2Proof.Machine.execPartitionResetDone p s
  | .deviceWarmReset => Sys2Proof.Machine.execDeviceWarmReset s
  | .serviceBusWatchdogBite who => Sys2Proof.Machine.execServiceBusWatchdogBite who s
  | .mpWatchdogBite => Sys2Proof.Machine.execMpWatchdogBite s
  | .janteRestartDone => Sys2Proof.Machine.execJanteRestartDone s
  | .bootKeysDerived pufOk => Sys2Proof.Machine.execBootKeysDerived pufOk s
  | .imageSelect survives => Sys2Proof.Machine.execImageSelect survives s
  | .folioCheck => Sys2Proof.Machine.execFolioCheck s
  | .hbmTrained bad => Sys2Proof.Machine.execHbmTrained bad s
  | .memoryTestDone bad => Sys2Proof.Machine.execMemoryTestDone bad s
  | .linksTrained => Sys2Proof.Machine.execLinksTrained s
  | .dynamicPartSigned => Sys2Proof.Machine.execDynamicPartSigned s
  | .bar0Access t size write data => Sys2Proof.Machine.execBar0Access t size write data s
  | .bar2Read addr len => Sys2Proof.Machine.execBar2Read addr len s
  | .bar2Write addr data => Sys2Proof.Machine.execBar2Write addr data s
  | .cxlMemRead addr => Sys2Proof.Machine.execCxlMemRead addr s
  | .cxlMemWrite addr data => Sys2Proof.Machine.execCxlMemWrite addr data s
  | .hostLineTake line exclusive => Sys2Proof.Machine.execHostLineTake line exclusive s
  | .birspReceive line data => Sys2Proof.Machine.execBirspReceive line data s
  | .hostWriteback line data => Sys2Proof.Machine.execHostWriteback line data s
  | .slowTierCompletion id ok data => Sys2Proof.Machine.execSlowTierCompletion id ok data s
  | .doeRequest type data => Sys2Proof.Machine.execDoeRequest type data s
  | .doeAbort => Sys2Proof.Machine.execDoeAbort s
  | .getVersion => Sys2Proof.Machine.execGetVersion s
  | .getCapabilities => Sys2Proof.Machine.execGetCapabilities s
  | .negotiateAlgorithms => Sys2Proof.Machine.execNegotiateAlgorithms s
  | .getDigests => Sys2Proof.Machine.execGetDigests s
  | .getCertificate => Sys2Proof.Machine.execGetCertificate s
  | .challenge => Sys2Proof.Machine.execChallenge s
  | .getMeasurements => Sys2Proof.Machine.execGetMeasurements s
  | .tapInstruction ir => Sys2Proof.Machine.execTapInstruction ir s
  | .h2dSnoop addr => Sys2Proof.Machine.execH2dSnoop addr s
  | .cxlLinkDown => Sys2Proof.Machine.execCxlLinkDown s
  | .farPortUp n => Sys2Proof.Machine.execFarPortUp n s
  | .refclkReturn => Sys2Proof.Machine.execRefclkReturn s
  | .farPortDiscard port => Sys2Proof.Machine.execFarPortDiscard port s
  | .chotinReservedFrame port f => Sys2Proof.Machine.execChotinReservedFrame port f s

end Sys2Proof.Machine
end

