-- ==== Sys2Proof/Safety.lean ====
section
/-!
DEFINITION. What the claims about the block are said in: its invariant, a command under examination, and the conditions
under which an event of the block comes about.
-/

namespace Sys2Proof

open Machine

/-! ### The invariant of every state -/

/-- Every count of a token table is at most 65,535 (R188). -/
def countsOk (t : Tbl Nat) : Bool := t.all (fun e => decide (e.2 ≤ 65535))

/-- What every step keeps: both memories in their canonical form, and no token count above 65,535 (R188, R190). -/
structure Inv (s : State) : Prop where
  hbm : Memory.wf s.hbm = true
  sram : Memory.wf s.sram = true
  counts : countsOk s.tok.counts = true
  fcounts : countsOk s.tok.fcounts = true

/-! ### Jante commands -/

/-- Request `r` is under examination, has opcode `op`, is answered, and passes `check` (R387). -/
structure Passes (op : Nat) (check : State → Req → Option Reply) (s : State) (r : Req) : Prop where
  exam : s.jante.exam = some r
  opcode : r.opcode = op
  answers : janteAnswers s = true
  check : check s r = none

/-- As `Passes`, for a command that reads or writes HBM: no host holds a line of its ranges (R376). -/
structure PassesMem (op : Nat) (check : State → Req → Option Reply)
    (rw : State → Req → List (Nat × Nat) × List (Nat × Nat)) (s : State) (r : Req) : Prop extends Passes op check s r where
  free : hostHolds s (rw s r).1 (rw s r).2 = none

/-- The state in which Jante has taken the command off its bench. -/
def examined (s : State) : State := { s with jante := { s.jante with exam := none } }

/-- Wherever its checks pass, the command answers a next state, which is `eff`. -/
def Runs (c : Instr) (op : Nat) (check : State → Req → Option Reply) (eff : State → Req → State) : Prop :=
  ∀ s r, Passes op check s r → exec c s = .next (eff (examined s) r)

def RunsMem (c : Instr) (op : Nat) (check : State → Req → Option Reply)
    (rw : State → Req → List (Nat × Nat) × List (Nat × Nat)) (eff : State → Req → State) : Prop :=
  ∀ s r, PassesMem op check rw s r → exec c s = .next (eff (examined s) r)

/-- The effect of a command that completes with OK and response `resp`, after the change `f`. -/
def ok (f : State → Req → State) (resp : State → Req → List Byte) (s : State) (r : Req) : State :=
  completeReq (f s r) r .ok (resp s r)

/-- The effect of a command that stays PENDING and holds object `o`, after the change `f`. -/
def pends (f : State → Req → State) (o : Req → Obj) (s : State) (r : Req) : State :=
  { f s r with jante := { (f s r).jante with pend := (f s r).jante.pend ++ [⟨r, o r, 0⟩] } }

/-- The first PENDING command of opcode `op` is `p`. -/
def Pends (op : Nat) (p : Pend) (s : State) : Prop := s.jante.pend.find? (fun x => x.req.opcode == op) = some p

/-- PENDING command `p` of opcode `op` completes with OK and no response. -/
def completed (op : Nat) (p : Pend) (s : State) : State :=
  completeReq { s with jante := { s.jante with pend := s.jante.pend.eraseP (fun x => x.req.opcode == op) } } p.req .ok []

/-- The events of the block come about: its clocks run and Jante is up. -/
structure Alive (s : State) : Prop where
  clocks : clocksRun s.dev = true
  jante : s.rst.mpDown = false

/-! ### Measures -/

/-- Measure `m` stands at the issue test of the primary stream, verified (R157, R182). -/
structure DueAt (s : State) (m : Meas) : Prop where
  clocks : clocksRun s.dev = true
  run : s.cal.run = true
  idle : s.cal.current = none
  going : s.cal.draining = false
  gate : s.pwr.gate = .none
  flows : inSpanStop s = false
  sound : s.cal.faultPend = false
  parts : imageFenced s = false
  due : dueMeas s = some m
  good : m.fetched = .good

/-- As `DueAt`, and the measure is legal and nothing holds it back (R157, R183, R185). -/
structure Due (s : State) (m : Meas) : Prop extends DueAt s m where
  legal : decodeFault s m = none
  free : dueHeld s m = false

/-- The next fill measure meets every condition of its issue (R198, R199). -/
structure FillDue (s : State) : Prop where
  run : s.fill.run = true
  going : s.fill.stopping = false ∧ s.fill.halting = false
  gate : s.pwr.gate = .none
  flows : spanStop s true = false
  parts : fillFenced s = false
  taken : s.bus.any (fun b => b.fill) = false
  lent : ∀ m, s.fill.current = some m → coresLent s m.w = true
  there : s.fill.pc < s.fill.imgCount
  lines : s.fill.fetched = none → fillShut s = false ∧
    trackedDev s (measureAddr s.fill.img s.fill.pc / 4096 * 4096) 4096 false = []
  good : (fillMeas s).fetched = .good
  legal : fillDecodeBad s (fillMeas s) = false ∧ measureAbsent s (fillMeas s).w = false
  part : measureFillIdx s (fillMeas s).w (fillMeas s).bank true = false
  cores : coresLent s (fillMeas s).w = true
  free : fillHeldBack (fillSpanEnd s) (fillMeas s) = false
  version : ¬(mCtrl (fillMeas s).w = true ∧ mOp (fillMeas s).w = 0x07 ∧
    bankVersion s ((mArg8 (fillMeas s).w == 1) != s.cal.bankxor) ≠ BitVec.ofNat 32 (mArg32 (fillMeas s).w))

end Sys2Proof
end

