-- ==== Sys2Proof/Certificates/Slice0/Obligations.lean ====
section
/-!
DEFINITION. The statements about the block.
-/

open Sys2Proof Sys2Proof.Machine

/-! ### The queue, the clock, the invariant -/

/-- A step takes the command at the front of the queue and runs it on the state with the rest of the queue. -/
def Obligations.StepRunsFrontCommand : Prop :=
  ∀ (c : Instr) (rest : List Instr) (s : State),
    step { s with pending := c :: rest } = exec c { s with pending := rest }

/-- On an empty queue a step is one period of `REFCLK100` (the model's choice, notes/assumptions/6.md): the tick counter
gains 64 where the clock is there, and where no unit is clocked nothing else changes. -/
def Obligations.StepOnEmptyQueue : Prop :=
  ∀ s : State, s.pending = [] →
    (s.dev ≠ .off → s.pwr.refclk = true → ∃ t, step s = .next t ∧ t.pwr.tick = s.pwr.tick + 64) ∧
    (clocksRun s.dev = false → (s.dev = .off ∨ s.pwr.refclk = false) → step s = .next s)

/-- Every step keeps the invariant: both memories stay in their canonical form, and no token count passes 65,535. -/
def Obligations.StepKeepsInvariant : Prop :=
  ∀ s t : State, Inv s → step s = .next t → Inv t

/-- The invariant holds right after reset. -/
def Obligations.ResetHasInvariant : Prop := Inv State.reset

/-- No command touches the queue of commands or the set of engines the grade leaves out. -/
def Obligations.CommandsLeaveQueueAlone : Prop :=
  ∀ (c : Instr) (s t : State), exec c s = .next t → t.pending = s.pending ∧ t.absent = s.absent

/-- Nothing stops a run: every command and every step answers a next state (the model's choice, notes/assumptions/10.md). -/
def Obligations.EveryCommandCompletes : Prop :=
  (∀ (c : Instr) (s : State), ∃ t, exec c s = .next t) ∧ ∀ s : State, ∃ t, step s = .next t

/-! ### Mailboxes -/

/-- Software rings a host mailbox whose registers answer: BUSY, DONE, CODE and RLEN change in the cycle of the ring and the
mailbox waits behind those rung before it; while BUSY the ring is discarded and OVERRUN sets. -/
def Obligations.DoorbellRing : Prop :=
  ∀ (s : State) (i : Fin 16) (v : W32), bar0Up s = true → bitAt v 0 = true →
    (bitAt (mailboxOf s i).status 31 = false → ∃ t, exec (.mbxDoorbellRing i v) s = .next t ∧
      (mailboxOf t i).status = 0x80010000#32 ||| ((mailboxOf s i).status &&& 0x20000000#32) ∧
      t.jante.rung = s.jante.rung ++ [i.val] ∧ t.jante.pend = s.jante.pend ∧ t.jante.exam = s.jante.exam) ∧
    (bitAt (mailboxOf s i).status 31 = true → ∃ t, exec (.mbxDoorbellRing i v) s = .next t ∧
      (mailboxOf t i).status = (mailboxOf s i).status ||| 0x20000000#32 ∧ t.jante.rung = s.jante.rung)

/-- A command completes on a host mailbox in one update: BUSY clear, DONE set, OVERRUN kept, CODE and RLEN, and the response
in the first RLEN bytes of the payload; no other mailbox changes. -/
def Obligations.CompletionUpdatesMailbox : Prop :=
  ∀ (s : State) (r : Req) (st : Status) (resp : List Byte), r.src < 16 → resp.length ≤ 4096 →
    let t := completeReq s r st resp
    let w := (mailboxOf t r.src).status
    bitAt w 31 = false ∧ bitAt w 30 = true ∧ bitAt w 29 = bitAt (mailboxOf s r.src).status 29 ∧
      bits w 23 16 = statusCode st ∧ bits w 12 0 = resp.length ∧
      memRead (mailboxOf t r.src).payload 0 resp.length = resp ∧
      ∀ i, i ≠ r.src → mailboxOf t i = mailboxOf s i

/-- Jante takes up the command rung first where it examines none and no host holds a line of the command's ranges: a failed
check completes it and does nothing else, a command that passes stands on the bench. -/
def Obligations.CommandTakeUp : Prop :=
  ∀ (s : State) (i : Nat) (rest : List Nat), s.jante.exam = none → janteAnswers s = true → s.jante.rung = i :: rest → i < 16 →
    s.dev ≠ .standby → hostHolds s (cmdRanges s (boxReq s i)).1 (cmdRanges s (boxReq s i)).2 = none →
    let u : State := { s with jante := { s.jante with rung := rest } }
    (∀ st resp, examine s (boxReq s i) = some (st, resp) →
      exec .commandTakeUp s = .next (completeReq u (boxReq s i) st resp)) ∧
    (examine s (boxReq s i) = none →
      exec .commandTakeUp s = .next { s with jante := { s.jante with rung := rest, exam := some (boxReq s i) } })

/-- The first failure of R387 in order: an opcode outside the command set, an argument that names no object, an object that
a PENDING command holds, a PLEN above the payload or past the message that carried it. Which commands have an order of their
own, and test PLEN within it, is the model's choice (notes/assumptions/18.md), and so is a PLEN past its message. -/
def Obligations.FirstChecksInOrder : Prop :=
  ∀ (s : State) (r : Req),
    (r.opcode ∉ commandSet → examine s r = some (.badOpcode, [])) ∧
    (r.opcode ∈ commandSet → ∀ n, objectsOf r = .error n → examine s r = some (badArg n)) ∧
    (r.opcode ∈ commandSet → ∀ os o, objectsOf r = .ok os → o ∈ os → o ∈ heldObjects s r.opcode → examine s r = some (.busy, [])) ∧
    (r.opcode ∈ commandSet → r.opcode ∉ ownOrder → ∀ os, objectsOf r = .ok os → (∀ o ∈ os, o ∉ heldObjects s r.opcode) →
      (4096 < r.plen ∨ r.payload.length < r.plen) → ∃ bs, examine s r = some (.lengthRange, bs) ∧ bs.length = 16) ∧
    (r.opcode ∈ commandSet → r.opcode ∈ ownOrder → ∀ os, objectsOf r = .ok os → (∀ o ∈ os, o ∉ heldObjects s r.opcode) →
      examine s r = cmdCheck s r)

/-- A command of a sender whose own limit passes while it is PENDING completes with TIMEOUT and no response. A bank load
leaves its bank as it is and no longer loading, a table load its slot; a join ends with error 3; an image half staged makes
its slot invalid.
(Which commands have a limit is the model's list of those to which R389 gives one, notes/assumptions/18.md.) -/
def Obligations.CommandTimeout : Prop :=
  ∀ (s : State) (i : Fin 17) (p : Pend), s.rst.mpDown = false →
    s.jante.pend.find? (fun x => x.req.src == i.val && limited x.req.opcode) = some p →
    let out (u : State) : State := completeReq
      { u with jante := { u.jante with pend := s.jante.pend.eraseP (fun x => x.req.src == i.val && limited x.req.opcode) } }
      p.req .timeout []
    (p.req.opcode = 0x0110 ∨ p.req.opcode = 0x0A01 ∨ p.req.opcode = 0x0A02 → exec (.commandTimeout i) s = .next (out s)) ∧
    (p.req.opcode = 0x0201 → ∃ u, exec (.commandTimeout i) s = .next (out u) ∧ u.tabA = s.tabA ∧ u.tabB = s.tabB ∧
      bankLoading u (argOf p.req 0 == 1) = false ∧ bankLoading u (argOf p.req 0 != 1) = bankLoading s (argOf p.req 0 != 1)) ∧
    (p.req.opcode = 0x040B → exec (.commandTimeout i) s =
      .next (out { s with cmpLoading := s.cmpLoading.filter (· != argOf p.req 0) })) ∧
    (p.req.opcode = 0x0605 → ∃ u, exec (.commandTimeout i) s = .next (out u) ∧ u.far.phase = .none ∧ u.far.join = none ∧
      u.far.err = setBit s.far.err 3) ∧
    (p.req.opcode = 0x0B01 → exec (.commandTimeout i) s = .next (out (setSlotState s (!s.sec.slot) .invalid)))

/-- The sideband: a request while one is pending is answered BUSY and changes nothing else; in STANDBY an opcode the
always-on domain does not answer returns STATE_CONFLICT; with the power up a request waits behind the rung mailboxes. A message
of another type or vendor changes nothing (the model's choice, notes/assumptions/40.md). -/
def Obligations.SidebandRequest : Prop :=
  ∀ (s : State) (fields pl : List Byte),
    let op := natAt fields 0 2
    let tag := natAt fields 2 2
    let c := Instr.sidebandRequest 0x7F Config.mctpVendor fields pl
    (s.dev ≠ .off → ∀ q, s.jante.sideband = some q → ∃ msg, exec c s = .next { s with out := .mctp tag (statusCode .busy) msg :: s.out }) ∧
    (s.dev = .standby → s.jante.sideband = none → op ∈ commandSet → op ∉ standbyOps →
      ∃ msg, exec c s = .next { s with out := .mctp tag (statusCode .stateConflict) msg :: s.out }) ∧
    (s.dev ≠ .off → s.dev ≠ .standby → s.jante.sideband = none → ∃ r, exec c s =
      .next { s with jante := { s.jante with sideband := some r, rung := s.jante.rung ++ [16] } } ∧ r.src = 16 ∧ r.opcode = op ∧
        r.tag = tag ∧ r.plen = natAt fields 4 4 ∧ r.payload = pl.take (min r.plen 4096) ∧
        ∀ n, n < 8 → argOf r n = natAt fields (8 + 8 * n) 8) ∧
    (∀ type vendor, type ≠ 0x7F ∨ vendor ≠ Config.mctpVendor → exec (.sidebandRequest type vendor fields pl) s = .next s)

/-! ### Commands on the device, the Folio and the slow-tier map -/

/-- DEV_QUERY, FOL_READ and MEM_SLOW_MAP complete with OK where their checks pass, FOL_BOARD_WRITE stays PENDING until
the copy not in use is written with the later write count.
(Where the parts of the Folio lie, and the answer outside READY, are the model's choice, notes/assumptions/52.md.) -/
def Obligations.DeviceCommands : Prop :=
  Runs .devQuery 0x0101 devQueryCheck
    (ok (fun s _ => s) (fun s _ => statePayload s noConflict ++ revisionsBody s)) ∧
  Runs .folRead 0x0111 folReadCheck (ok (fun s _ => s) (fun s r => folioRead s (4096 * argOf r 0) 4096)) ∧
  Runs .memSlowMap 0x0301 slowMapCheck (ok (fun s r => { s with cxl := { s.cxl with
    slowWin := Tbl.set s.cxl.slowWin (argOf r 0) (slowWord (argOf r 1)),
    slowHpa := Tbl.set s.cxl.slowHpa (argOf r 0) (BitVec.ofNat 32 (argOf r 2 / 2 ^ 30)) } }) (fun _ _ => [])) ∧
  Runs .folBoardWrite 0x0110 boardWriteCheck (pends (fun s _ => s) (fun _ => .boardWrite)) ∧
  (∀ s p, Alive s → Pends 0x0110 p s → exec .boardWriteComplete s = .next (completed 0x0110 p
    { s with folio := if s.folio.copy
        then { s.folio with board0 := partBytes p.req.payload, count0 := max s.folio.count0 s.folio.count1 + 1 }
        else { s.folio with board1 := partBytes p.req.payload, count1 := max s.folio.count0 s.folio.count1 + 1 } }))

/-! ### Commands on the streams -/

/-- STREAM_LOAD_BANK takes the image and its bank is loading until the load completes and sets the version. -/
def Sys2Proof.BankCommands : Prop :=
  (∀ s r, PassesMem 0x0201 loadBankCheck loadBankRanges s r → ∃ t, exec .streamLoadBank s = .next t ∧
    bankLoading t (argOf r 0 == 1) = true ∧ bankLoading t (argOf r 0 != 1) = bankLoading s (argOf r 0 != 1) ∧
    t.jante.pend = s.jante.pend ++ [⟨{ r with payload := bankBytes (examined s) r }, .bank (argOf r 0), 0⟩] ∧
    t.tabA = s.tabA ∧ t.tabB = s.tabB ∧ t.cal.verA = s.cal.verA ∧ t.cal.verB = s.cal.verB) ∧
  (∀ (s : State) (b : Fin 2) (p : Pend), Alive s →
    s.jante.pend.find? (fun x => pendOp 0x0201 x && x.obj == .bank b.val) = some p →
    ∃ t, exec (.bankLoadComplete b) s = .next t ∧ bankLoading t (b.val == 1) = false ∧
      bankVersion t (b.val == 1) = BitVec.ofNat 32 (natAt p.req.payload 8 4) ∧
      bankVersion t (b.val != 1) = bankVersion s (b.val != 1))

/-- STREAM_START, STREAM_RESUME and STREAM_END where their checks pass. A start clears every count of the stream's tokens
and adds what it clears to `CAL_TOKDISC`. -/
def Sys2Proof.PrimaryCommands : Prop :=
  (∀ s r, PassesMem 0x0202 startCheck startRanges s r → ∃ t, exec .streamStart s = .next t ∧
    t.dev = .running ∧ t.cal.run = true ∧ t.cal.img = argOf r 0 ∧ t.cal.scyc = 0 ∧ t.tok.counts = [] ∧
    t.cal.tokdisc = min 0xFFFFFFFF (s.cal.tokdisc + tblSum s.tok.counts) ∧
    t.cal.reqNext = natAt (devRead (examined s) (argOf r 0) 512) 12 4 ∧ t.cal.queue = [] ∧ t.hbm = s.hbm ∧ t.sram = s.sram) ∧
  (∀ s r, Passes 0x0203 resumeCheck s r → ∃ t, exec .streamResume s = .next t ∧
    t.cal.run = true ∧ t.cal.faultPend = false ∧ t.cal.pc = s.cal.pc ∧ t.cal.issued = s.cal.issued ∧ t.dev = s.dev ∧
    t.tok = s.tok ∧ (s.cal.issued = true → t.cal.current = s.cal.current ∧ t.cal.queue = s.cal.queue)) ∧
  Runs .streamEnd 0x0204 endCheck (pends (fun s _ => s) (fun _ => .stream)) ∧
  (∀ s p, Alive s → Pends 0x0204 p s → primaryIdle s = true → s.dev = .running → ∃ t, exec .streamEndComplete s = .next t ∧
    t.dev = .ready ∧ t.cal.current = none ∧ t.rpr.recording = none ∧ t.jante.pend = s.jante.pend.eraseP (pendOp 0x0204) ∧
    t.tok = s.tok)

/-- The fill context: STREAM_FILL_START enables it with its window, STREAM_FILL_STOP is PENDING until the fill actions have
ended, which clears EN and its counts; the lends are the running measure's and stay. -/
def Sys2Proof.FillCommands : Prop :=
  (∀ s r, PassesMem 0x0205 fillStartCheck startRanges s r → ∃ t, exec .streamFillStart s = .next t ∧
    t.fill.en = true ∧ t.fill.run = true ∧ t.fill.base = argOf r 1 ∧ t.fill.size = argOf r 2 ∧ t.fill.img = argOf r 0 ∧
    t.fill.lent = s.fill.lent ∧ t.tok.fcounts = [] ∧ t.tok.counts = s.tok.counts ∧
    t.cal.tokdisc = min 0xFFFFFFFF (s.cal.tokdisc + tblSum s.tok.fcounts) ∧ t.dev = s.dev) ∧
  (∀ s r, Passes 0x0206 fillStopCheck s r → ∃ t, exec .streamFillStop s = .next t ∧
    t.fill.stopping = true ∧ t.fill.en = s.fill.en ∧ t.bus = s.bus.filter (fun b => !b.fill) ∧
    t.jante.pend = s.jante.pend ++ [⟨r, .fill, 0⟩]) ∧
  (∀ s p, Alive s → Pends 0x0206 p s → s.fill.stopping = true → ∃ t, exec .fillStopComplete s = .next t ∧
    t.fill.en = false ∧ t.fill.run = false ∧ t.fill.stopping = false ∧ t.fill.lent = s.fill.lent ∧ t.tok.fcounts = [] ∧ t.tok.fown = [] ∧
    t.tok.counts = s.tok.counts ∧ t.jante.pend = s.jante.pend.eraseP (pendOp 0x0206))

/-- The commands on banks, on the stream and on the fill stream.
(That a bank load captures its image when it starts is the model's choice, notes/assumptions/19.md; that FILL_STOP drops the fill actions
on the bus and held fill posts, notes/assumptions/44.md.) -/
def Obligations.StreamCommands : Prop := BankCommands ∧ PrimaryCommands ∧ FillCommands

/-! ### Commands on sets, links and compression -/

/-- The commands on a set, where their checks pass: its entry is written or goes, the set is told to freeze, a set on HOLD
starts afresh or drops its queue, a query answers the words of its registers. That windows start full, that a release drops a
post owed and that FREEZE and THAW are legal in every state are the model's choices (notes/assumptions/45.md). -/
def Sys2Proof.SetEntryCommands : Prop :=
  Runs .setConfig 0x0401 setConfigCheck (ok (fun s r => setSet s (argOf r 0)
    { setOf s (argOf r 0) with cfg := some (entryOf r.payload), phase := .idle, wcred := [] }) (fun _ _ => [])) ∧
  Runs .setRelease 0x0402 (setCmdCheck idleEmpty) (ok (fun s r => setSet s (argOf r 0)
    { setOf s (argOf r 0) with cfg := none, phase := .unconfigured, commitWait := [] }) (fun _ _ => [])) ∧
  Runs .setFreeze 0x0403 (setCmdCheck anyPhase) (ok (fun s r => setSet s (argOf r 0)
    { setOf s (argOf r 0) with freezing := (setOf s (argOf r 0)).freezing || !(setOf s (argOf r 0)).frozen }) (fun _ _ => [])) ∧
  Runs .setThaw 0x0404 (setCmdCheck anyPhase) setThawDo ∧
  (∀ s r, Passes 0x0404 (setCmdCheck anyPhase) s r → (setOf s (argOf r 0)).cfg = none → exec .setThaw s = .next (completeReq
    (pumpSet (setSet (examined s) (argOf r 0) { setOf s (argOf r 0) with freezing := false, frozen := false }) (argOf r 0)) r .ok [])) ∧
  Runs .setDiscard 0x0407 (setCmdCheck (·.phase == .hold)) (ok (fun s r => setSet s (argOf r 0)
    { setOf s (argOf r 0) with phase := if (setOf s (argOf r 0)).cfg.isSome then .idle else .unconfigured,
                               queue := [], redos := 0 }) (fun _ _ => [])) ∧
  Runs .setQuery 0x0408 (setCmdCheck anyPhase) setQueryDo

/-- SET_RESOLVE decides a set in DOUBT for COMMIT or, with an ABORT message, for ABORT; SET_REDO sends a set on HOLD back to
RUN, PENDING until its first descriptor starts, or to IDLE where its queue is empty (notes/assumptions/45.md: the model's
choice, as is that the command then completes at once). -/
def Sys2Proof.SetResolveAndRedo : Prop :=
  (∀ s r c, Passes 0x0405 setResolveCheck s r → (setOf s (argOf r 0)).cfg = some c → exec .setResolve s = .next (completeReq
    (if argOf r 1 = 0 then decideCommit (examined s) (argOf r 0) c
     else decideAbort (sendAbort (examined s) (argOf r 0) c 4) (argOf r 0) c 4 false) r .ok [])) ∧
  (∀ s r, Passes 0x0406 (setCmdCheck (·.phase == .hold)) s r → ∃ t, exec .setRedo s = .next t ∧
    setOf t (argOf r 0) = { setOf s (argOf r 0) with
      redos := 0, phase := if (setOf s (argOf r 0)).queue.isEmpty then .idle else .run } ∧
    (∀ k, k ≠ argOf r 0 → setOf t k = setOf s k) ∧
    ((setOf s (argOf r 0)).queue.isEmpty = false → t.jante.pend = s.jante.pend ++ [⟨r, .set (argOf r 0), 0⟩]))

/-- The commands on a set.
(Full window credits at SET_CONFIG, FREEZE and THAW in every state, a SET_REDO with an empty queue, and the post SET_RELEASE drops are the
model's choice, notes/assumptions/45.md.) -/
def Obligations.SetCommands : Prop := SetEntryCommands ∧ SetResolveAndRedo

/-- LNK_CONFIG sets weights and credits for the next training of a link or of all twelve and touches nothing of the present
one; LNK_RETRAIN starts the training of a recorded link and completes when it has trained; of another link it completes
at once (the model's choice, notes/assumptions/28.md). -/
def Sys2Proof.LinkCommands : Prop :=
  (∀ s r, Passes 0x0409 lnkConfigCheck s r → ∃ t, exec .lnkConfig s = .next t ∧
    ∀ n, n < 12 → linkOf t n = if argOf r 0 = n ∨ argOf r 0 = 0xFF
      then { linkOf s n with nextWeights := lnkWeights r, nextCredits := lnkCredits r } else linkOf s n) ∧
  (∀ s r, Passes 0x040A lnkRetrainCheck s r →
    (recorded (gath s) (argOf r 0) = true → exec .lnkRetrain s =
      .next (stayPend (startTraining (examined s) (argOf r 0)) r (.link (argOf r 0)) 0)) ∧
    (recorded (gath s) (argOf r 0) = false → exec .lnkRetrain s = .next (completeReq (examined s) r .ok [])))

/-- CMP_TABLE_LOAD keeps its slot busy until the table is in every partition; CMP_RES_CFG and CMP_RES_CLEAR write zeros over
the residual area; CMP_ENCODE takes the tiles and, when the stream is written, answers its length. The model's choices
(notes/assumptions/45.md): which partitions get a table, those ACTIVE at its completion; that an encode takes its source at
acceptance, seals the tiles its stream fills whole, and answers INTERNAL where a fence took an engine of its tiles. -/
def Sys2Proof.CompressionCommands : Prop :=
  RunsMem .cmpTableLoad 0x040B tableLoadCheck tableLoadRanges (fun s r => { s with
    cmpLoading := argOf r 0 :: s.cmpLoading,
    jante := { s.jante with pend := s.jante.pend ++
      [⟨{ r with payload := devRead s (argOf r 2) (tableBytes s r) }, .tableSlot (argOf r 0), 0⟩] } }) ∧
  (∀ (s : State) (k : Fin 2) (p : Pend) (w : Nat) (lens : List (List Nat)), Alive s →
    s.jante.pend.find? (fun x => pendOp 0x040B x && x.obj == .tableSlot k.val) = some p → tableOf p.req.payload = some (w, lens) →
    ∃ t, exec (.cmpTableLoadComplete k) s = .next t ∧ t.cmpLoading = s.cmpLoading.filter (· != k.val) ∧
      (∀ q, q < 8 → partActive s q = true → slotOf (cmpOf t q) k.val = ⟨w, lens, argOf p.req 1⟩) ∧
      ∀ q, q < 8 → partActive s q = false → cmpOf t q = cmpOf s q) ∧
  (∀ s r, PassesMem 0x040C resCfgCheck resCfgRanges s r → ∃ t, exec .cmpResCfg s = .next t ∧
    t = completeReq (updSet (zeroArea (examined s) (areaOf r)) (argOf r 0) (fun x => { x with res := some (areaOf r) })) r .ok [] ∧
    (setOf t (argOf r 0)).res = some (areaOf r)) ∧
  (∀ s r a, PassesMem 0x040D resClearCheck resClearRanges s r → (setOf s (argOf r 0)).res = some a →
    exec .cmpResClear s = .next (completeReq (zeroArea (examined s) a) r .ok [])) ∧
  (∀ s r, PassesMem 0x040E encodeCheck encodeRanges s r → ∃ t, exec .cmpEncode s = .next t ∧ t.hbm = s.hbm ∧ t.sram = s.sram ∧
    t.jante = { s.jante with exam := none, pend := s.jante.pend ++
      [⟨{ r with payload := devRead (examined s) (argOf r 1) (4096 * argOf r 2) }, .tableSlot (argOf r 0), 0⟩] }) ∧
  (∀ s p, Alive s → Pends 0x040E p s →
    (∀ q, q < 8 → q < argOf p.req 2 → partActive s q = true) →
    hostHolds s [] [(argOf p.req 3, (encodeOut s p.req).length)] = none →
    exec .cmpEncodeComplete s = .next (completeReq
      { apart s 4 (fun u => sealWhole (devWrite u 4 (argOf p.req 3) (encodeOut s p.req)) 4 (argOf p.req 3) (encodeOut s p.req).length)
          with jante := { s.jante with pend := s.jante.pend.eraseP (pendOp 0x040E) } }
      p.req .ok (natBytes 8 (encodeOut s p.req).length))) ∧
  (∀ s p q, Alive s → Pends 0x040E p s → q < 8 → q < argOf p.req 2 → partActive s q = false → exec .cmpEncodeComplete s =
    .next (completeReq { s with jante := { s.jante with pend := s.jante.pend.eraseP (pendOp 0x040E) } } p.req .internal []))

/-- The commands on links, table slots and streams of codes.
(LNK_RETRAIN of an unrecorded link is the model's choice, notes/assumptions/28.md; when CMP_ENCODE takes its source and which tiles it
seals, and when a table reaches the partitions, notes/assumptions/45.md.) -/
def Obligations.LinkAndCompressionCommands : Prop := LinkCommands ∧ CompressionCommands

/-! ### Commands on the update units -/

/-- The commands on an update unit, where their checks pass: groups and rules are written, the parking area and the bases
set, a query answers the state of a set's round. The model's choices: groups take effect when the load is accepted, the done maps
follow (notes/assumptions/46.md); a roll forward waits while another set's record is under way (notes/assumptions/23.md). -/
def Sys2Proof.UpdateUnitCommands : Prop :=
  (∀ s r, PassesMem 0x0501 groupLoadCheck groupLoadRanges s r → ∃ t, exec .updGroupLoad s = .next t ∧
    t.jante.pend = s.jante.pend ++ [⟨r, .partition (argOf r 0), 0⟩] ∧
    (updOf t (argOf r 0)).groups = (withGroups (updOf s (argOf r 0)) (argOf r 2)
      ((imageEntries (examined s) (argOf r 1) 64 (argOf r 3)).map groupOf)).groups ∧
    ∀ p, p ≠ argOf r 0 → updOf t p = updOf s p) ∧
  (∀ (s : State) (p : Fin 8) (x : Pend), Alive s →
    s.jante.pend.find? (fun x => pendOp 0x0501 x && x.obj == .partition p.val) = some x →
    hostHolds s [] (((List.range (argOf x.req 3)).filterMap (fun i => groupAt (updOf s p) (argOf x.req 2 + i))).map
      (fun g => (g.dmap, chunksOfGroup g))) = none →
    ∃ t, exec (.updGroupLoadComplete p) s = .next t ∧ t.upd = s.upd ∧
      t.jante.pend = s.jante.pend.eraseP (fun x => pendOp 0x0501 x && x.obj == .partition p.val)) ∧
  RunsMem .updRuleLoad 0x0502 ruleLoadCheck ruleLoadRanges ruleLoadDo ∧
  Runs .updParkCfg 0x0503 parkCfgCheck (ok (fun s r => setUpd s (argOf r 0)
    { updOf s (argOf r 0) with park := BitVec.ofNat 32 (argOf r 1 / 65536), parkSize := argOf r 2 }) (fun _ _ => [])) ∧
  (∀ s r, PassesMem 0x0504 baseCfgCheck baseCfgRanges s r → ∃ t, exec .updBaseCfg s = .next t ∧
    (updOf t (argOf r 0)).gtab = BitVec.ofNat 32 (argOf r 1 / 65536) ∧
    (updOf t (argOf r 0)).crec = BitVec.ofNat 32 (argOf r 2 / 65536) ∧
    (updOf t (argOf r 0)).noise = BitVec.ofNat 32 (argOf r 3 / 65536) ∧ ∀ p, p ≠ argOf r 0 → updOf t p = updOf s p) ∧
  Runs .updSetQuery 0x0505 updQueryCheck (ok (fun s _ => s) (fun s r =>
    let u := updOf s (argOf r 0)
    let v := usetOf u (argOf r 1)
    natBytes 1 (roundCode v.st) ++ natBytes 1 (b2n v.parity) ++ natBytes 1 v.attempt ++ [0#8] ++ natBytes 4 v.step.toNat ++
      natBytes 8 u.seq)) ∧
  (∀ s r, PassesMem 0x0506 rollCheck rollRanges s r →
    exec .updRollForward s = .next (if committing (updOf s (argOf r 0)) then s else rollDo (examined s) r))

/-- UPD_RULE_LOAD of rules for one partition gives every rule its image's entry; UPD_ROLL_FORWARD flips the parity of the set,
adds one to its step and to SEQ, in which it takes the place of the next record (notes/assumptions/23.md, the model's choice). -/
def Sys2Proof.RulesAndRollForward : Prop :=
  (∀ s r (i : Nat), PassesMem 0x0502 ruleLoadCheck ruleLoadRanges s r → argOf r 0 < 8 → i < argOf r 3 →
    ∃ t, exec .updRuleLoad s = .next t ∧ ∀ d, Tbl.get d (updOf t (argOf r 0)).rules (argOf r 2 + i) =
      ruleOf (devRead (examined s) (argOf r 1 + 192 * i) 192)) ∧
  (∀ s r, PassesMem 0x0506 rollCheck rollRanges s r → committing (updOf s (argOf r 0)) = false → ∃ t, exec .updRollForward s = .next t ∧
    (usetOf (updOf t (argOf r 0)) (argOf r 1)).parity = !(usetOf (updOf s (argOf r 0)) (argOf r 1)).parity ∧
    (usetOf (updOf t (argOf r 0)) (argOf r 1)).step = (usetOf (updOf s (argOf r 0)) (argOf r 1)).step + 1 ∧
    (updOf t (argOf r 0)).seq = (updOf s (argOf r 0)).seq + 1)

/-- The commands on an update unit.
(When groups and done maps take effect is the model's choice, notes/assumptions/46.md; what a record is and when UPD_ROLL_FORWARD waits,
notes/assumptions/23.md.) -/
def Obligations.UpdateCommands : Prop := UpdateUnitCommands ∧ RulesAndRollForward

/-! ### Commands on the far exchange -/

/-- FAR_CONFIG and FAR_GROUP_LOAD where their checks pass: the configuration stands and no round is open; the table holds the
entries of the image, and other partitions' tables are as before. -/
def Sys2Proof.FarSetUpCommands : Prop :=
  (∀ s r, PassesMem 0x0601 farConfigCheck farConfigRanges s r → ∃ t, exec .farConfig s = .next t ∧
    t.far.cfg = some (farCfgOf r.payload) ∧ t.far.phase = .none ∧ t.far.terms = [] ∧ t.far.partners = s.far.partners ∧
    t.far.en = s.far.en) ∧
  (∀ s r, PassesMem 0x0602 farLoadCheck farLoadRanges s r → ∃ t, exec .farGroupLoad s = .next t ∧
    t.far.groups = (farTable s (argOf r 0) (imageEntries (examined s) (argOf r 1) 16 (argOf r 2))).far.groups ∧
    t.far.partners = s.far.partners ∧ t.far.cfg = s.far.cfg)

/-- The commands on partners where their checks pass. -/
def Sys2Proof.PartnerCommands : Prop :=
  Runs .farPartnerSet 0x0603 partnerSetCheck (ok (fun s r => { s with far := { s.far with
    partners := Tbl.set s.far.partners (argOf r 0)
      (bucketFilled s (partnerNew (partnerOf s (argOf r 0)) r.payload)) } }) (fun _ _ => [])) ∧
  (∀ s r, Passes 0x0604 partnerDelCheck s r → (partnerOf s (argOf r 0)).st ≠ .left →
    exec .farPartnerDel s = .next (completeReq (tryClose (unpin (updPartner (sendFrame (examined s) (argOf r 0) (bareFrame typeLeave))
      (argOf r 0) (fun p => { p with st := .left, sends := [], recvs := [] })))) r .ok [])) ∧
  Runs .farJoin 0x0605 farJoinCheck (fun s r => stayPend (sendFrame { s with far := { s.far with
    phase := .joining, join := some ⟨argOf r 0, 0, 0, 0, false⟩ } } (argOf r 0) (bareFrame typeJoin)) r (.partner (argOf r 0)) 0) ∧
  Runs .farTimeQuery 0x0609 (farQueryCheck 1) timeQueryDo

/-- FAR_ENABLE sets EN, FAR_DISABLE clears it and voids a round in SELECT or OPEN, and FAR_ROUND_QUERY answers at most 4,096
bytes and changes nothing else. -/
def Sys2Proof.FarRoundCommands : Prop :=
  (∀ s r, PassesMem 0x0606 farEnableCheck (fun s _ => repeatRanges s) s r → s.far.stopped = false → exec .farEnable s =
    .next (completeReq { examined s with far := { s.far with
      en := true, enStep := (s.far.cfg.map (farStep (examined s))).getD 0 } } r .ok [])) ∧
  (∀ s r, Passes 0x0607 farDisableCheck s r → ∃ t, exec .farDisable s = .next t ∧ t.far.en = false ∧
    (s.far.phase = .select ∨ s.far.phase = .opened → t.far.phase = .none ∧ t.far.void = true ∧ t.far.sel = [] ∧
      t.far.k = s.far.k + 1) ∧
    (s.far.phase ≠ .select → s.far.phase ≠ .opened → t.far.phase = s.far.phase ∧ t.far.k = s.far.k)) ∧
  (∀ s r, Passes 0x0608 (farQueryCheck 0) s r → ∃ t bs, exec .farRoundQuery s = .next t ∧
    t = completeReq (examined s) r .ok bs ∧ bs.length ≤ 4096)

/-- The commands on the far exchange.
(The order of checks within one command is the model's choice, notes/assumptions/18.md; what FAR_CONFIG, FAR_JOIN, FAR_DISABLE and the
queries answer, notes/assumptions/49.md; what a stop leaves, notes/assumptions/47.md.) -/
def Obligations.FarCommands : Prop := FarSetUpCommands ∧ PartnerCommands ∧ FarRoundCommands

/-! ### Commands on the cipher engine -/

/-- Nobody holds, awaits or has suspended the cipher engine, and no command is PENDING. -/
def Sys2Proof.EngineFree (s : State) : Prop :=
  s.jante.pend = [] ∧ s.cip.wait = [] ∧ s.cip.owner = none ∧ s.cip.running = none ∧ s.cip.save0 = none ∧ s.cip.save1 = none

/-- Bindings and slots: a binding takes its public key and its key-encryption key or loses both, a slot is cleared, a switch of
epochs makes RX current and the current one old, a query changes nothing. That a query's answer is cut at 4,096 bytes is the
model's choice (notes/assumptions/49.md). -/
def Sys2Proof.CipherTableCommands : Prop :=
  Runs .cipBind 0x0701 cipBindCheck (ok (fun s r => { s with cip := { s.cip with
    binds := Tbl.set s.cip.binds (argOf r 0) (r.payload.take 64),
    keks := Tbl.set s.cip.keks (argOf r 0) (kekOf (argOf r 0) (r.payload.take 64)) } }) (fun _ _ => [])) ∧
  Runs .cipUnbind 0x0702 cipUnbindCheck (ok (fun s r => { s with cip := { s.cip with
    binds := Tbl.del s.cip.binds (argOf r 0), keks := Tbl.del s.cip.keks (argOf r 0) } }) (fun _ _ => [])) ∧
  Runs .cipSlotClear 0x0704 slotClearCheck (ok (fun s r => { s with cip := { s.cip with
    slots := Tbl.del s.cip.slots (argOf r 0) } }) (fun _ _ => [])) ∧
  (∀ s r, Passes 0x0706 farSwitchCheck s r → ∃ t, exec .cipFarSwitch s = .next t ∧
    (partnerOf t (argOf r 0)).epochs.map (fun e => (e.num, e.key)) = (partnerOf s (argOf r 0)).epochs.map (fun e => (e.num, e.key)) ∧
    (partnerOf t (argOf r 0)).epochs.map (·.st) =
      (partnerOf s (argOf r 0)).epochs.map (fun e => if e.st = .rx then .cur else .old) ∧
    ∀ e, e ≠ argOf r 0 → partnerOf t e = partnerOf s e) ∧
  (∀ s r, Passes 0x0707 (farQueryCheck 0) s r → ∃ bs, exec .cipQuery s = .next (completeReq (examined s) r .ok bs) ∧
    bs.length ≤ 4096)

/-- With the engine free CIP_UNWRAP, CIP_FAR_INSTALL and CIP_MOVE are served at once: the blob's key stands in its slot where
it unwraps, the key joins the partner's epochs, the movers' message runs where its checks pass. That the grant comes with the
command is the model's choice (notes/assumptions/32.md). -/
def Sys2Proof.CipherEngineCommands : Prop :=
  (∀ s r, Passes 0x0703 cipUnwrapCheck s r → EngineFree s → ∃ t, exec .cipUnwrap s = .next t ∧
    t.cip.slots = (match (blobKek s r.payload).bind (fun k => unwrapBlob k (natAt r.payload 4 1) (r.payload.take 64)) with
      | some k => Tbl.set s.cip.slots (argOf r 0) k
      | none => s.cip.slots) ∧
    EngineFree t) ∧
  (∀ s r k, Passes 0x0705 cipInstallCheck s r → EngineFree s → Tbl.get? s.cip.slots (argOf r 0) = some k →
    ∃ t, exec .cipFarInstall s = .next t ∧
    (partnerOf t (argOf r 1)).epochs = (partnerOf s (argOf r 1)).epochs ++
      [⟨argOf r 2, k.key, if (curEpoch (partnerOf s (argOf r 1))).isSome then .rx else .cur⟩] ∧ EngineFree t) ∧
  (∀ s r, Passes 0x0708 cipMoveCheck s r → EngineFree s → s.cxl.d2h = [] →
    msgCheck (moverBank (examined s) r.payload) (bankMsg (moverBank (examined s) r.payload) .movers) = .ok →
    ∃ t m, exec .cipMove s = .next t ∧ t.cip.running = some m ∧ m.owner = .movers ∧ t.cip.owner = some .movers)

/-- The commands on the cipher engine.
(How commands ask for the lock and are served is the model's choice, notes/assumptions/32.md; what a binding and an install answer,
notes/assumptions/50.md.) (The parts name notes/assumptions/49.md too.) -/
def Obligations.CipherCommands : Prop := CipherTableCommands ∧ CipherEngineCommands

/-! ### Commands on the Bindery -/

/-- The commands on the Bindery, where their checks pass. A job joins the queue under the next number, which the response
carries, and starts at once where no job runs, unless its buffers lie in a partition that is not ACTIVE, which stops it; a
stop is PENDING until the clips in flight are done. That the first job's number is 1 and that a query's answer is padded to 32
bytes are the model's choices (notes/assumptions/51.md). -/
def Obligations.BinderyCommands : Prop :=
  Runs .bndFsCfg 0x0801 fsCfgCheck (ok (fun s r => { s with bnd := { s.bnd with fsOff := argOf r 0, fsSize := argOf r 1 } })
    (fun _ _ => [])) ∧
  Runs .bndFilterLoad 0x0802 filterCheck (ok (fun s r => { s with bnd := { s.bnd with
    filters := Tbl.set s.bnd.filters (argOf r 0) (coeffsOf r.payload) } }) (fun _ _ => [])) ∧
  (∀ s r, Passes 0x0803 colourCheck s r → ∃ t, exec .bndColourLoad s = .next t ∧
    ∀ i, i < 18 → 4 * i + 4 ≤ r.plen →
      (Tbl.get [] t.bnd.colours (argOf r 0)).getD i 0 = natAt r.payload (4 * i) 4) ∧
  (∀ s r, Passes 0x0804 jobSubmitCheck s r → s.bnd.run.isSome = true → exec .bndJobSubmit s = .next (completeReq
    { examined s with bnd := { s.bnd with nextJob := (s.bnd.nextJob + 1) % 65536,
                                          queue := s.bnd.queue ++ [jobOf ((s.bnd.nextJob + 1) % 65536) r.payload] } }
    r .ok (natBytes 2 ((s.bnd.nextJob + 1) % 65536)))) ∧
  (∀ s r, Passes 0x0804 jobSubmitCheck s r → s.bnd.run = none → s.bnd.queue = [] →
    let n := (s.bnd.nextJob + 1) % 65536
    let j := jobOf n r.payload
    ∃ u, exec .bndJobSubmit s = .next (completeReq u r .ok (natBytes 2 n)) ∧
      u.bnd.nextJob = n ∧ u.bnd.lastJob = n ∧ u.bnd.queue = [] ∧
      (partActive s (hbmPart j.buf) = true → u.bnd.run = some (runBegin j) ∧ u.bnd.err = s.bnd.err) ∧
      (partActive s (hbmPart j.buf) = false → u.bnd.run = none ∧ u.bnd.err = setBit s.bnd.err 2)) ∧
  Runs .bndJobStop 0x0805 jobStopCheck (pends (fun s _ => { s with bnd := { s.bnd with
    run := s.bnd.run.map (fun x => { x with stopping := true }) } }) (fun _ => .bindery)) ∧
  (∀ s r, Passes 0x0806 (farQueryCheck 0) s r → ∃ bs, exec .bndQuery s = .next (completeReq (examined s) r .ok bs) ∧
    bs.length ≤ 32)

/-! ### Commands on power, resets and firmware -/

/-- The power commands where their checks pass: a cap at or above the floor is set, one below it is answered CAP_UNMET with
what it lacks; the class order and the query; STANDBY stops every clock outside the always-on domain. A wake with every level
high starts the part, which halts at once where the junction stands at 105 °C or more or the reference clock is missing (the
model's choice, notes/assumptions/38.md). -/
def Sys2Proof.PowerCommands : Prop :=
  (∀ s r, Passes 0x0901 capCheck s r → s.dev ≠ .standby →
    (floorW s ≤ argOf r 0 → exec .pwrCapSet s = .next (completeReq (setCap (examined s) (argOf r 0)) r .ok [])) ∧
    (argOf r 0 < floorW s → exec .pwrCapSet s =
      .next (completeReq (setCap (examined s) (argOf r 0)) r .capUnmet (natBytes 4 (floorW s - argOf r 0))))) ∧
  Runs .pwrPriority 0x0902 priorityCheck (ok (fun s r => { s with pwr := { s.pwr with order := argOf r 0 } }) (fun _ _ => [])) ∧
  (∀ s r, Passes 0x0903 pavaneCheck s r → ∃ t, exec .pwrPavane s = .next t ∧ t.pwr.pavane = (argOf r 0 == 1) ∧ t.dev = s.dev) ∧
  Runs .pwrQuery 0x0904 pwrQueryCheck (ok (fun s _ => s) (fun s _ => natBytes 4 s.pwr.cap ++ natBytes 4 (drawNow s) ++
    natBytes 4 (floorW s) ++ natBytes 4 s.pwr.short ++ natBytes 4 (pointMhz s.pwr.now) ++ natBytes 1 (b2n s.pwr.pavane) ++
    List.replicate 11 0#8)) ∧
  (∀ s r, Passes 0x0905 standbyCheck s r → ∃ t, exec .pwrStandby s = .next t ∧ t.dev = .standby ∧ t.jante = janteReset) ∧
  (∀ (lv : Levels) s r, Passes 0x0906 wakeCheck s r → lv.coolant = true → lv.rails = 0x3FFF#14 → s.devReset = false →
    ∃ t, exec (.pwrWake lv) s = .next t ∧ t.sec.stage = 1 ∧
      (lv.junction < 105 → s.pwr.refclk = true → t.dev = .booting) ∧
      (105 ≤ lv.junction ∨ s.pwr.refclk = false → t.dev = .halted ∧ t.sec.cause = 1)) ∧
  (∀ (lv : Levels) s r, Passes 0x0906 wakeCheck s r → (lv.coolant = false ∨ lv.rails ≠ 0x3FFF#14 ∨ s.devReset = true) →
    ∃ t, exec (.pwrWake lv) s = .next t ∧ t.dev = .standby ∧ t.pwr.aonStat = setBit s.pwr.aonStat 1)

/-- The reset commands where their checks pass: a partition reset is PENDING and its fence follows, an activation is PENDING,
a device reset answers OK before the warm reset, a query answers the records of bites and fences. -/
def Sys2Proof.ResetCommands : Prop :=
  Runs .rstPartition 0x0A01 rstPartCheck (pends (fun s r => requestFence s (argOf r 0) 0) (fun r => .partition (argOf r 0))) ∧
  (∀ lv, Runs (.rstPartActivate lv) 0x0A02 (activateCheck lv) (pends (fun s r => { s with pwr := { s.pwr with
    good := setBit s.pwr.good (argOf r 0) } }) (fun r => .partition (argOf r 0)))) ∧
  (∀ lv s r, Passes 0x0A03 rstDeviceCheck s r → ∃ t, exec (.rstDevice lv) s = .next t ∧ t.rst.warm = true ∧ t.dev = s.dev) ∧
  Runs .rstQuery 0x0A04 pwrQueryCheck rstQueryDo

/-- SEC_FW_STAGE of an image that verifies is PENDING while the slot not in use is written, and one that does not makes the slot
invalid (the model's choice, notes/assumptions/52.md); SEC_FW_ACTIVATE makes the slot the next one and writes the record, whose
counter is one higher and whose HMAC holds (its layout is the model's choice, notes/assumptions/53.md). -/
def Sys2Proof.FirmwareCommands : Prop :=
  (∀ s r, PassesMem 0x0B01 fwStageCheck fwStageRanges s r →
    let bs := devRead s (argOf r 0) (stageLen r)
    let v := (stageVerdict s r bs).1
    ∃ t, exec .secFwStage s = .next t ∧ slotState t s.sec.slot = slotState s s.sec.slot ∧ t.sec.counter = s.sec.counter + 1 ∧
    (v = .ok → slotState t (!s.sec.slot) = .writing ∧
      t.jante.pend = s.jante.pend ++ [⟨{ r with payload := imageWhole bs }, .firmware, 0⟩]) ∧
    (v ≠ .ok → slotState t (!s.sec.slot) = .invalid ∧ t.jante.pend = s.jante.pend)) ∧
  (∀ s p, Alive s → Pends 0x0B01 p s → ∃ t, exec .secFwStageComplete s = .next t ∧
    (slotState t (!s.sec.slot) = .valid ↔ verifyImage p.req.payload p.req.payload.length s.sec.floor = .ok) ∧
    slotState t s.sec.slot = slotState s s.sec.slot ∧ t.jante.pend = s.jante.pend.eraseP (pendOp 0x0B01)) ∧
  (∀ s r, Passes 0x0B02 fwActivateCheck s r → ∃ u, exec .secFwActivate s = .next (completeReq u r .ok []) ∧
    u.sec.next = (!s.sec.slot) ∧ u.sec.counter = s.sec.counter + 1 ∧ (recordHeld u).next = (!s.sec.slot) ∧
    (recordHeld u).count = s.sec.counter + 1 ∧ (recordHeld u).floor = s.sec.floor ∧ recordSurvives u = true)

/-- The commands on power, resets and firmware.
(The limits of the power commands are the model's choice, notes/assumptions/31.md; what RST_DEVICE and an activation do,
notes/assumptions/33.md; the start's first stage, notes/assumptions/38.md; firmware, notes/assumptions/52.md and 53.md.) -/
def Obligations.SystemCommands : Prop := PowerCommands ∧ ResetCommands ∧ FirmwareCommands

/-! ### Registers -/

/-- Registers of one plain 32-bit field that software writes. -/
def Sys2Proof.plainReg : Reg → Bool
  | .eleSeedLo _ | .eleSeedHi _ | .eleStep _ | .memCthr0 _ | .updSeedLo _ | .updSeedHi _ | .bndSeedLo | .bndSeedHi | .calLoop _
  | .calFloop _ | .pwrWakeLo | .pwrWakeHi => true
  | _ => false

/-- The write-one-to-clear bits of a register, but for CFGERR of `MEM_GIL_CTL`, which a write of that very register can set. -/
def Sys2Proof.clearMask : Reg → W32
  | .arrErr _ | .eleErr _ | .farErr | .cipErr => 0xF#32
  | .arrAccErr _ | .calFerr | .updErr _ | .cmpErr _ | .mbxHerr => 0x1F#32
  | .memCstat _ => 0xD#32
  | .memErr _ => 0x1FF#32
  | .bwrStat _ | .rstSbwdog => 0x80000000#32
  | .calErr => 0x3FF#32
  | .calWdgStat => 0xE0000000#32
  | .setErr => 0x3F#32
  | .bndErr | .pwrAonStat => 7#32
  | .pwrStat => 0xF00000#32
  | .pwrRail => 0x3FFF0000#32
  | .rstFence => 0xFFFFFF00#32
  | .secBoot => 0x400000#32
  | .mbxIrqStat => 0x1FFFFFF#32
  | .mbxStatus _ => 0x60000000#32
  | _ => 0#32

/-- A plain register reads back what was written last. -/
def Sys2Proof.PlainRegistersReadBack : Prop :=
  ∀ (s : State) (r : Reg) (v hw : W32), softUp s = true → regThere s r = true → plainReg r = true →
    ∃ t, exec (.registerWrite r v hw) s = .next t ∧ regRead t r = v

/-- A write of 1 clears a write-one-to-clear bit and a write of 0 leaves it; a bit that hardware sets in the same cycle as a write of
1 reads set afterwards.
(Which partitions' registers answer, and what REGISTER_WRITE carries of the same cycle, are the model's, notes/assumptions/16.md and
17.md.) -/
def Obligations.WriteOneToClear : Prop :=
  (∀ (s : State) (r : Reg) (v hw : W32) (i : Nat), softUp s = true → regThere s r = true → i < 32 → bitAt (clearMask r) i = true →
    ∃ t, exec (.registerWrite r v hw) s = .next t ∧
      (bitAt v i = false → bitAt (regRead t r) i = bitAt (regRead s r) i) ∧
      (bitAt v i = true → bitAt (regRead t r) i = bitAt hw i)) ∧
  ∀ (s : State) (v hw : W32), softUp s = true → bitAt v 29 = true → bitAt hw 29 = true →
    ∃ t, exec (.registerWrite .memGilCtl v hw) s = .next t ∧ bitAt (regRead t .memGilCtl) 29 = true

/-- A register of an absent engine or of an ABSENT partition reads zero and discards writes. -/
def Sys2Proof.AbsentRegisters : Prop :=
  ∀ (s : State) (r : Reg) (v hw : W32), regThere s r = false →
    regRead s r = 0#32 ∧ exec (.registerWrite r v hw) s = .next s

/-- Plain registers read back what was written last, and a register that is not there reads zero and discards writes.
(Which registers answer is the model's choice, notes/assumptions/16.md; how an access names one, notes/assumptions/4.md; what an MSI-X
entry keeps, notes/assumptions/17.md.) -/
def Obligations.RegisterReadsAndWrites : Prop := PlainRegistersReadBack ∧ AbsentRegisters

/-- The writes of the caller's registers with an effect of their own: a count on its way, BANKXOR, the watchdog's limit, a
span register, a loop counter.
(That registers answer in HALTED as in READY is the model's choice, notes/assumptions/16.md.) -/
def Obligations.CallerRegisterWrites : Prop :=
  ∀ (s : State) (v : W32), softUp s = true →
    (bitAt v 31 = false ∨ s.fill.en = true → exec (.calTokpostWrite v) s = .next { s with tok := { s.tok with
      flight := s.tok.flight ++ [⟨.software, bitAt v 31, bits v 5 0, 0⟩] } }) ∧
    (bitAt v 31 = true → s.fill.en = false → exec (.calTokpostWrite v) s = .next s) ∧
    exec (.bankxorWrite v) s = .next { s with cal := { s.cal with bankxor := bitAt v 31 } } ∧
    (1 ≤ bits v 16 0 → bits v 16 0 ≤ 100000 → exec (.calWdogWrite v) s =
      .next { s with cal := { s.cal with wdog := BitVec.ofNat 32 (bits v 16 0) } }) ∧
    (bits v 16 0 = 0 ∨ 100000 < bits v 16 0 → exec (.calWdogWrite v) s =
      .next { s with cal := { s.cal with wdgStat := setBit s.cal.wdgStat 29 } }) ∧
    (∀ n : Fin 8, ∃ t, exec (.calSpanWrite n v) s = .next t ∧ (Tbl.get 0#32 t.cal.span n).toNat = v.toNat % 2 ^ 17 ∧
      ∀ k, k ≠ n.val → Tbl.get 0#32 t.cal.span k = Tbl.get 0#32 s.cal.span k) ∧
    ∀ n : Fin 4, ∃ t, exec (.calLoopWrite n v) s = .next t ∧ loopOf t false n = v ∧
      ∀ k, k ≠ n.val → loopOf t false k = loopOf s false k

/-- The census ring's registers: while EN is clear BASE takes its bits and a write that sets EN with a fit SIZE starts an empty
ring; while EN is set BASE and SIZE are refused with CFGERR; TAIL moves only up to HEAD and no further back than the ring holds. -/
def Sys2Proof.CensusRingWrites : Prop :=
  ∀ (s : State) (p : Fin 8) (v : W32), softUp s = true →
    (ringEn (censusOf s p) = false → exec (.memCringBaseWrite p v) s =
      .next (setCensus s p { censusOf s p with base := v &&& 0x1FFFFFF#32 })) ∧
    (ringEn (censusOf s p) = true → exec (.memCringBaseWrite p v) s = .next (cfgErr s p)) ∧
    (ringEn (censusOf s p) = false → bitAt v 31 = true → ringOk (censusOf s p) (bits v 3 0) = true →
      exec (.memCringCfgWrite p v) s =
        .next (setCensus s p { censusOf s p with cfg := v &&& 0x8000000F#32, head := 0, tail := 0 })) ∧
    (ringEn (censusOf s p) = true → bitAt v 31 = true → bits v 3 0 ≠ bits (censusOf s p).cfg 3 0 →
      exec (.memCringCfgWrite p v) s = .next (cfgErr s p)) ∧
    (((censusOf s p).head - v).toNat ≤ ringRecords (censusOf s p) → exec (.memCringTailWrite p v) s =
      .next (setCensus s p { censusOf s p with tail := v })) ∧
    (ringRecords (censusOf s p) < ((censusOf s p).head - v).toNat → exec (.memCringTailWrite p v) s = .next (cfgErr s p))

/-- The global-interleave control: a write that sets EN with SIZE 0, with OFFSET + SIZE above 127 or with an ABSENT partition is
refused, leaving EN 0 and setting CFGERR; any other write sets EN, OFFSET and SIZE. -/
def Sys2Proof.GlobalInterleaveWrite : Prop :=
  ∀ (s : State) (v : W32), softUp s = true →
    let refused := bits v 6 0 = 0 ∨ 127 < bits v 14 8 + bits v 6 0 ∨ (∃ p, p < 8 ∧ pstateOf s p = .absent)
    (bitAt v 31 = true → refused → ∃ t, exec (.memGilCtlWrite v) s = .next t ∧ bitAt t.gil 31 = false ∧ bitAt t.gil 29 = true) ∧
    (bitAt v 31 = false ∨ ¬ refused → ∃ t, exec (.memGilCtlWrite v) s = .next t ∧ bitAt t.gil 31 = bitAt v 31 ∧
      bits t.gil 14 8 = bits v 14 8 ∧ bits t.gil 6 0 = bits v 6 0)

/-- GO of a tip-in fence covers every line the buffer holds; a write without GO does nothing. -/
def Sys2Proof.TipFenceWrites : Prop :=
  ∀ (s : State) (p : Fin 8) (v : W32), softUp s = true →
    (bitAt v 0 = true → exec (.tipFenceGo p v) s = .next (updTip s p (fun t => { t with
      fencing := true, lines := t.lines.map (fun l => { l with covered := true, flushing := true }) }))) ∧
    (bitAt v 0 = false → exec (.tipFenceGo p v) s = .next s)

/-- The memory system's registers with an effect of their own: the census ring, the global interleave, the tip-in fence.
(What is under way when `MEM_GIL_CTL` changes is the model's, notes/assumptions/11.md; the fence of the tip-in buffer,
notes/assumptions/12.md.) -/
def Obligations.MemoryRegisterWrites : Prop := CensusRingWrites ∧ GlobalInterleaveWrite ∧ TipFenceWrites

/-- A class write is refused, with CFGERR and the registers as they were, where the eight shares would exceed 256, BURST would be 0, or
SHARE and BORROW would both be 0 outside class 7; any other write takes its fields. Class 7 with neither is never granted, and its
request waits without fault. -/
def Obligations.ClassWriteRefusals : Prop :=
  ∀ (s : State) (p : Fin 8) (reqs : List HbmAccess),
    (∀ (c : Fin 8) (v : W32), softUp s = true →
      let share (k : Nat) : Nat := bits (if k = c then v else classOf (memOf s p).regs k) 7 0
      let refused := 256 < ((List.range 8).map share).sum ∨ bits v 23 16 = 0 ∨ (bits v 7 0 = 0 ∧ bitAt v 31 = false ∧ c ≠ 7)
      (refused → exec (.bwrClassWrite p c v) s = .next (updRegs s p (fun r => { r with cfgerr := true }))) ∧
      (¬refused → exec (.bwrClassWrite p c v) s = .next (updRegs s p (fun r => { r with
        cls := Tbl.set r.cls c (v &&& 0x80FF00FF#32) })))) ∧
    (clocksRun s.dev = true → partActive s p = true → (∀ q ∈ (memOf s p).regs.reqs, q.cls = 7) → (∀ q ∈ reqs, q.cls = 7) →
      bits (classOf (memOf s p).regs 7) 7 0 = 0 → bitAt (classOf (memOf s p).regs 7) 31 = false →
      exec (.hbmRequestGrant p reqs) s = .next (updRegs s p (askAll reqs)))

/-- The lock of the cipher engine and its limit: REQ_HOST waits once, REL_HOST of a holder without a message frees the engine
where nothing is saved, GO without the lock sets NOLOCK and runs nothing, a limit outside 1 to 10,000 sets CFGERR. -/
def Sys2Proof.CipherLockWrites : Prop :=
  ∀ (s : State) (v : W32), softUp s = true →
    (s.cip.owner ≠ some .host → Owner.host ∉ s.cip.wait → exec .reqHost s =
      .next { s with cip := { s.cip with wait := s.cip.wait ++ [.host] } }) ∧
    (s.cip.owner = some .host ∨ Owner.host ∈ s.cip.wait → exec .reqHost s = .next s) ∧
    (s.cip.owner = some .host → s.cip.running = none → s.cip.save0 = none → s.cip.save1 = none →
      ∃ t, exec .relHost s = .next t ∧ t.cip.owner = none ∧ t.cip.wait = s.cip.wait ∧ t.cip.running = none) ∧
    (∀ o, s.cip.owner ≠ some o → bitAt v 31 = true → ∃ t, exec (.cipGo o v) s = .next t ∧ bitAt t.cip.err 0 = true ∧
      t.cip.running = s.cip.running) ∧
    (∀ o, bitAt v 31 = false → exec (.cipGo o v) s = .next (setBankDw s o 0 ((v &&& 0x303F0000#32) ||| (bankDw s o 0 &&& 0x400000FF#32)))) ∧
    (∀ o, s.cip.owner = some o → bitAt v 31 = true → bits v 29 28 ≤ 1 → s.cip.running = none →
      let u := setBankDw (ctlWrite s o v) o 0 (v &&& 0x303F0000#32)
      msgCheck u (bankMsg u o) = .ok → exec (.cipGo o v) s = .next (msgStart u (bankMsg u o))) ∧
    (1 ≤ bits v 13 0 → bits v 13 0 ≤ 10000 → exec (.cipLocktoWrite v) s =
      .next { s with cip := { s.cip with lockto := bits v 13 0 } }) ∧
    (bits v 13 0 = 0 ∨ 10000 < bits v 13 0 → ∃ t, exec (.cipLocktoWrite v) s = .next t ∧ t.cip.lockto = s.cip.lockto ∧
      bitAt t.cip.err 3 = true)

/-! ### The caller and the streams -/

/-- The waits of measure `w` are consumed from `s` to `t`, in the primary stream or in the fill stream. -/
def Sys2Proof.TookWaits (s t : State) (fill : Bool) (w : MeasW) : Prop :=
  ∀ k, tokCount t fill k = tokCount s fill k - (if k = mTok0 w then mThr0 w else 0) - (if k = mTok1 w then mThr1 w else 0)

/-- Measures are requested in order while fewer than 112 are queued or in flight, and arrive in order with the bank their BANK
bit and BANKXOR give, once no host holds a line of their tile; of a tile that is poisoned, fails its checksum or is fenced no
byte is decoded. The measures of a replayed segment are delivered one by one. That BANKXOR acts at the fetch and at the delivery
is the model's choice (notes/assumptions/19.md). -/
def Sys2Proof.MeasureFetch : Prop :=
  (∀ s : State, clocksRun s.dev = true → s.cal.run = true → s.cal.inflight.length + s.cal.queue.length < 112 →
    s.cal.reqNext < s.cal.imgCount → exec .measureFetchRequest s = .next { s with cal := { s.cal with
      inflight := s.cal.inflight ++ [s.cal.reqNext], reqNext := s.cal.reqNext + 1 } }) ∧
  (∀ (s : State) (k : Nat) (rest : List Nat), clocksRun s.dev = true → s.cal.inflight = k :: rest →
    trackedDev s (measureAddr s.cal.img k / 4096 * 4096) 4096 false = [] → ∃ t m, exec .measureFetchArrive s = .next t ∧
      t.cal.inflight = rest ∧ t.cal.queue = s.cal.queue ++ [m] ∧ m.idx = k ∧
      m.fetched = fetchTile s (s.cal.img + 512 * (k + 1)) ∧
      (m.fetched = .good → m.w = BitVec.ofNat 4096 (bytesNat (devRead s (s.cal.img + 512 * (k + 1)) 512)) ∧
        m.bank = (bitAt m.w 59 != s.cal.bankxor)) ∧ (m.fetched ≠ .good → m.w = 0)) ∧
  (∀ (s : State) (m : Meas) (rest : List Meas), clocksRun s.dev = true → s.cal.replay = m :: rest → s.cal.delivered = [] →
    s.cal.current = none → ∃ t, exec .replayMeasureDeliver s = .next t ∧ t.cal.replay = rest ∧
      t.cal.delivered = [{ m with bank := bitAt m.w 59 != s.cal.bankxor, replayed := true, fetched := .good }] ∧
      t.cal.queue = s.cal.queue)

/-- A due measure that meets every condition issues: its span begins, its waits are consumed and the actions it names, but for
those whose entries are poisoned, go to their units. Issue touches neither memory. -/
def Sys2Proof.MeasureIssue : Prop :=
  ∀ (s : State) (cycles : Nat) (m : Meas), Due (gateTest s cycles) m → issueFault (gateTest s cycles) m = none → mCtrl m.w = false →
    ∃ t, exec (.measureIssue cycles) s = .next t ∧ t.cal.current = some (m, spanOf s m.w) ∧ t.cal.pc = m.idx ∧
      t.bus = s.bus ++ (measureActs s m.w m.bank false (spanOf s m.w)).filter (fun a => !actPoisoned s a) ∧
      TookWaits s t false m.w ∧ (∀ c, c < 8 → (mLend m.w).testBit c = true → t.fill.lent.testBit c = true) ∧
      t.hbm = s.hbm ∧ t.sram = s.sram ∧ t.cal.loop = s.cal.loop ∧ t.cal.span = s.cal.span

/-- How measures come to the caller, and the issue of one that is due.
(When BANK acts and a checksum failure is recorded is the model's choice, notes/assumptions/19.md; when a unit counts as free,
notes/assumptions/20.md; the class of a fetch, notes/assumptions/63.md.) -/
def Obligations.MeasureFetchAndIssue : Prop := MeasureFetch ∧ MeasureIssue

/-- A due measure that breaks R157, names an absent engine, a lent core or an entry of the fill part stops the stream without
issuing, with bit 0, 2, 3 or 4 of CAL_ERR, but for entries of a loading bank, for which it waits; a span out of range, a mark
refused and a failed VERCHK do so with bit 5, 9 or 8. That the mark is tested between the two is the model's choice
(notes/assumptions/69.md). -/
def Sys2Proof.MeasureStops : Prop :=
  ∀ (s : State) (cycles : Nat) (m : Meas), DueAt (gateTest s cycles) m →
    let stops (b : Nat) : Prop := ∃ t, exec (.measureIssue cycles) s = .next t ∧ t.cal.run = false ∧ t.cal.issued = false ∧
      t.cal.err = setBit s.cal.err b ∧ t.cal.pc = m.idx ∧ t.bus = s.bus ∧ t.tok = s.tok ∧ t.engines = s.engines ∧
      t.hbm = s.hbm ∧ t.sram = s.sram
    (measureOk m.w = false → stops 0) ∧
    (measureOk m.w = true → measureAbsent s m.w = true → stops 2) ∧
    (measureOk m.w = true → measureAbsent s m.w = false → measureLend m.w = true → stops 3) ∧
    (measureOk m.w = true → measureAbsent s m.w = false → measureLend m.w = false → bankLoading s m.bank = false →
      measureFillIdx s m.w m.bank false = true → stops 4) ∧
    (measureOk m.w = true → measureAbsent s m.w = false → measureLend m.w = false → bankLoading s m.bank = true →
      exec (.measureIssue cycles) s = .next (gateTest s cycles)) ∧
    (decodeFault s m = none → dueHeld s m = false → spanBad (spanOf s m.w) = true → stops 5) ∧
    (decodeFault s m = none → dueHeld s m = false → spanBad (spanOf s m.w) = false → repriseBad s m = true → stops 9) ∧
    (decodeFault s m = none → dueHeld s m = false → spanBad (spanOf s m.w) = false → repriseBad s m = false → mCtrl m.w = true →
      mOp m.w = 0x07 → bankVersion s ((mArg8 m.w == 1) != s.cal.bankxor) ≠ BitVec.ofNat 32 (mArg32 m.w) → stops 8)

/-- The control measures: each issues with its own action, and none names an action of a unit. -/
def Sys2Proof.ControlMeasures : Prop :=
  ∀ (s : State) (m : Meas), Due s m → s.pwr.debt < 4096 → issueFault s m = none → mCtrl m.w = true →
    let issued (t : State) : Prop := t.cal.current = some (m, spanOf s m.w) ∧ t.cal.pc = m.idx ∧ t.bus = s.bus ∧
      TookWaits s t false m.w ∧ t.hbm = s.hbm ∧ t.sram = s.sram
    let flows (t : State) (k : Nat) : Prop := k ≠ m.idx + 1 → t.cal.queue = [] ∧ t.cal.inflight = [] ∧ t.cal.reqNext = k
    let still (t : State) : Prop := t.cal.queue = (dropDue s).cal.queue ∧ t.cal.inflight = s.cal.inflight ∧
      t.cal.reqNext = s.cal.reqNext
    (mOp m.w = 0x00 → ∃ t, exec .controlNop s = .next t ∧ issued t ∧ still t ∧ t.cal.loop = s.cal.loop ∧ t.engines = s.engines) ∧
    (mOp m.w = 0x01 → ∃ t, exec .halt s = .next t ∧ issued t ∧ still t ∧ t.cal.halting = true ∧ t.engines = s.engines) ∧
    (mOp m.w = 0x02 → ∃ t, exec .jump s = .next t ∧ issued t ∧ flows t (mArg32 m.w) ∧ t.cal.loop = s.cal.loop) ∧
    (mOp m.w = 0x03 → ∃ t, exec .loop s = .next t ∧ issued t ∧
      (loopOf s false (mArg8 m.w) = 0 → still t ∧ t.cal.loop = s.cal.loop) ∧
      (loopOf s false (mArg8 m.w) ≠ 0 → flows t (mArg32 m.w) ∧ loopOf t false (mArg8 m.w) = loopOf s false (mArg8 m.w) - 1)) ∧
    (mOp m.w = 0x04 → ∃ t, exec .setloop s = .next t ∧ issued t ∧ still t ∧
      loopOf t false (mArg8 m.w) = BitVec.ofNat 32 (mArg32 m.w) ∧
      ∀ k, k ≠ mArg8 m.w → loopOf t false k = loopOf s false k) ∧
    (mOp m.w = 0x05 → ∃ t, exec .rseg s = .next t ∧ issued t ∧ still t ∧ t.rpr.seg = mArg8 m.w ∧ t.rpr.segs = s.rpr.segs) ∧
    (mOp m.w = 0x06 → ∃ t, exec .replay s = .next t ∧ issued t ∧ still t ∧ t.cal.replay = segOf s (mArg8 m.w) ∧
      t.cal.delivered = [] ∧ t.rpr.segs = s.rpr.segs) ∧
    (mOp m.w = 0x07 → bankVersion s ((mArg8 m.w == 1) != s.cal.bankxor) = BitVec.ofNat 32 (mArg32 m.w) ∧
      ∃ t, exec .verchk s = .next t ∧ issued t ∧ still t ∧ t.engines = s.engines) ∧
    (mOp m.w = 0x08 → ∃ t, exec .step s = .next t ∧ issued t ∧ still t ∧ ∀ e, e < 80 →
      (engineOf t e).step = (engineOf s e).step + (if enginePresent s e then 1 else 0))

/-- The measures that stop the stream at their issue, and the control measures.
(The place of REPRISE in the order of issue faults is the model's choice, notes/assumptions/69.md.) -/
def Obligations.ControlAndStoppedMeasures : Prop := MeasureStops ∧ ControlMeasures

/-- A mark START begins the segment RSEG names with the measure that carries it, each later measure is recorded as it issues,
and END closes the recording with its own measure; MARK 3 is both. -/
def Sys2Proof.RepriseRecording : Prop :=
  ∀ (s : State) (m : Meas), Due s m → s.pwr.debt < 4096 → issueFault s m = none → m.replayed = false →
    (mRep m.w = 1 → ∃ t, exec .repriseStart s = .next t ∧ segOf t s.rpr.seg = [m] ∧ t.rpr.recording = some s.rpr.seg) ∧
    (mRep m.w = 3 → ∃ t, exec .repriseStart s = .next t ∧ segOf t s.rpr.seg = [m] ∧ t.rpr.recording = none) ∧
    (mRep m.w = 2 → ∃ k t, s.rpr.recording = some k ∧ exec .repriseEnd s = .next t ∧ segOf t k = segOf s k ++ [m] ∧
      t.rpr.recording = none ∧ ∀ j, j ≠ k → segOf t j = segOf s j) ∧
    (mRep m.w = 0 → mCtrl m.w = false → ∀ k, s.rpr.recording = some k → ∃ t,
      exec (.measureIssue 0) s = .next t ∧ segOf t k = segOf s k ++ [m] ∧ t.rpr.recording = some k)

/-- A span ends once its actions are taken and no array stops the stream within it: the span is added to CAL_SCYC, and to the
gating debt with what DUTY leaves of 16 (the model's choice of the moment, notes/assumptions/31.md), the measure's own post is counted, or held by the caller at 65,535, and after a HALT nothing further issues; the last action's completion
brings the device to READY. -/
def Sys2Proof.SpanEnd : Prop :=
  (∀ (s : State) (m : Meas) (n : Nat), clocksRun s.dev = true → s.cal.current = some (m, n) → s.cal.run = true → busQuiet s = true →
    inSpanStop s = false → s.pwr.gate = .none → ∃ t, exec .spanEnd s = .next t ∧ t.cal.current = none ∧
      t.cal.scyc = s.cal.scyc + BitVec.ofNat 64 n ∧ t.pwr.debt = s.pwr.debt + ((16 - gateDuty s) * n : Nat) ∧
      (mPostEn m.w = false → t.tok = s.tok) ∧
      (mPostEn m.w = true → tokCount s false (mPostTok m.w) < 65535 → t.tok =
        { s.tok with counts := Tbl.set s.tok.counts (mPostTok m.w) (tokCount s false (mPostTok m.w) + 1) }) ∧
      (mPostEn m.w = true → 65535 ≤ tokCount s false (mPostTok m.w) → t.tok =
        { s.tok with own := Tbl.set s.tok.own (mPostTok m.w) (ownHeld s false (mPostTok m.w) + 1) }) ∧
      t.cal.run = !s.cal.halting ∧ (s.cal.halting = true → t.cal.draining = true ∧ t.cal.halting = false) ∧
      t.hbm = s.hbm ∧ t.sram = s.sram ∧ t.engines = s.engines) ∧
  (∀ s : State, clocksRun s.dev = true → s.cal.draining = true → primaryIdle s = true → s.dev = .running →
    s.jante.pend.all (fun p => p.req.opcode != 0x0204) = true → exec .streamHaltComplete s =
      .next { s with cal := { s.cal with draining := false }, dev := .ready })

/-- How a span ends, and what a reprise segment records.
(When SPAN_END may come, and the cycles of a span, are the model's choice, notes/assumptions/20.md; the gating debt,
notes/assumptions/31.md.) -/
def Obligations.SpansAndSegments : Prop := RepriseRecording ∧ SpanEnd

/-- A post that reaches the caller adds one to its count; at 65,535 a unit holds it, one software wrote is not made, and one for
a fill context that is not enabled is dropped. A held post is counted once there is room, the caller's own before a unit's.
(When a post queue's entry is free, and what a held post counts against, are the model's choice, notes/assumptions/19.md.) -/
def Obligations.PostCounting : Prop :=
  (∀ (s : State) (p : Post) (rest : List Post), clocksRun s.dev = true → s.tok.flight = p :: rest →
    let u : State := { s with tok := { s.tok with flight := rest } }
    (p.fill = true → s.fill.en = false → exec .tokenPostArrive s = .next u) ∧
    (p.fill = false ∨ s.fill.en = true → tokCount s p.fill p.token < 65535 →
      exec .tokenPostArrive s = .next (setTok u p.fill p.token (tokCount s p.fill p.token + 1))) ∧
    (p.fill = false ∨ s.fill.en = true → 65535 ≤ tokCount s p.fill p.token → p.by_ ≠ .software →
      exec .tokenPostArrive s = .next { u with tok := { u.tok with held := s.tok.held ++ [p] } }) ∧
    (p.fill = false ∨ s.fill.en = true → 65535 ≤ tokCount s p.fill p.token → p.by_ = .software →
      exec .tokenPostArrive s = .next u)) ∧
  (∀ (s : State) (t : Fin 64), clocksRun s.dev = true → tokCount s false t < 65535 → ownHeld s false t ≠ 0 →
    ∃ u, exec (.heldPostCounted false t) s = .next u ∧ tokCount u false t = tokCount s false t + 1 ∧
      ownHeld u false t = ownHeld s false t - 1 ∧ u.tok.held = s.tok.held) ∧
  (∀ (s : State) (t : Fin 64) (fill : Bool) (h : Post), clocksRun s.dev = true → tokCount s fill t < 65535 → ownHeld s fill t = 0 →
    s.tok.held.find? (fun h => h.fill == fill && h.token == t.val) = some h →
    ∃ u, exec (.heldPostCounted fill t) s = .next u ∧ tokCount u fill t = tokCount s fill t + 1 ∧
      u.tok.held = s.tok.held.erase h)

/-- A stop of the primary or of the fill stream that outlasts TIMEOUT stops that stream and is recorded as a bite.
(The two vectors of a bite are the model's choice, notes/assumptions/17.md.) -/
def Obligations.StreamWatchdogs : Prop :=
  (∀ s : State, clocksRun s.dev = true → s.cal.run = true → stopBits s ≠ 0 → s.pwr.gate = .none → ∃ t,
    exec .streamWatchdogBite s = .next t ∧ t.cal.run = false ∧ bitAt t.cal.wdgStat 31 = true ∧ bits t.cal.wdgStat 8 0 = stopBits s ∧
      t.rst.kind = 1 ∧ t.rst.detail = stopBits s ∧ t.rst.bites = s.rst.bites + 1 ∧ t.rst.bTick = s.pwr.tick ∧
      t.cal.issued = s.cal.current.isSome ∧ t.tok = s.tok ∧ t.hbm = s.hbm) ∧
  (∀ s : State, clocksRun s.dev = true → s.fill.run = true → s.pwr.gate = .none →
    (∀ m, s.fill.current = some m → coresLent s m.w = true) →
    (spanStop s true = true ∨ (s.fill.pc < s.fill.imgCount ∧ (s.fill.fetched = none ∨
      ∃ m, s.fill.fetched = some m ∧ coresLent s m.w = true ∧ fillHeldBack s m = true))) → ∃ t, exec .fillWatchdogBite s = .next t ∧ t.fill.run = false ∧ bitAt t.fill.err 4 = true ∧
      bitAt t.cal.wdgStat 30 = true ∧ t.rst.kind = 2 ∧ t.rst.bites = s.rst.bites + 1 ∧ t.cal.run = s.cal.run ∧ t.tok = s.tok)

/-- A fill measure issues on lent cores with the waits of the fill context's own counts. A core is reclaimed where the next
primary measure does not lend it on: its fill passes leave the engines and its fill moves wait.
(How a figure is judged against the share is the model's reading, notes/assumptions/13.md; what a reclaimed pass does again,
notes/assumptions/14.md; the error bits of a fill fault, notes/assumptions/15.md.) -/
def Obligations.FillIssueAndReclaim : Prop :=
  (∀ s : State, clocksRun s.dev = true → FillDue s → ∃ t, exec .fillMeasureIssue s = .next t ∧
    t.fill.current = some (fillMeas (fillSpanEnd s)) ∧ TookWaits (fillSpanEnd s) t true (fillMeas (fillSpanEnd s)).w ∧
    t.tok.counts = s.tok.counts ∧ t.cal.current = s.cal.current ∧ t.hbm = s.hbm ∧ t.sram = s.sram ∧
    t.bus = s.bus ++ (measureActs s (fillMeas s).w (fillMeas s).bank true
      (if mSpan (fillMeas s).w = 0 then 65536 else mSpan (fillMeas s).w)).filter (fun a => !actPoisoned s a)) ∧
  (∀ (s : State) (c : Fin 8), clocksRun s.dev = true → s.pwr.gate = .none → s.cal.run = true → s.fill.lent.testBit c = true →
    s.fill.reclaiming.testBit c = false → nextLends s c = false → ∃ t, exec (.reclaimStart c) s = .next t ∧
      t.fill.reclaiming.testBit c = true ∧ t.fill.lent = s.fill.lent ∧
      (∀ m, m < 11 → ∀ a ∈ (moverOf t c m).queue, a.fill = true → a.suspended = true) ∧
      ((∀ m, m < 11 → ∀ a ∈ (moverOf s c m).queue, a.fill = true → a.running = false) →
        (∀ e, e / 10 = c.val → (engineOf s e).outs = []) → t.hbm = s.hbm ∧ t.sram = s.sram ∧
          ∀ m, m < 11 → ∀ a ∈ (moverOf t c m).queue, a.fill = true → a.running = false) ∧
      ∀ e, e / 10 = c.val → ∀ a ∈ (engineOf t e).acts, a.fill = true → a.rows = 0) ∧
  (∀ (s : State) (c : Fin 8), clocksRun s.dev = true → s.pwr.gate = .none → s.fill.reclaiming.testBit c = true → ∃ t,
    exec (.reclaimComplete c) s = .next t ∧ t.fill.reclaiming.testBit c = false ∧ t.fill.lent.testBit c = false ∧
      (∀ k, k < 8 → k ≠ c.val → t.fill.lent.testBit k = s.fill.lent.testBit k) ∧ t.movers = s.movers ∧
      ((∀ e, e / 10 = c.val → ∀ a ∈ (engineOf s e).acts ++ (engineOf s e).suspended, a.fill = true → a.loads = 0) →
        t.engines = s.engines))

/-! ### The arrays and the element engines -/

/-- An array action at the head of its engine's actions on the bus whose checks all pass begins: PASS and ELEM join the
engine's actions with their rows before them, LOAD and PASS_LOAD read the image of every named array into its back set. A fill
action whose core does not serve the fill stream waits outside the engine. -/
def Sys2Proof.ArrayActionsBegin : Prop :=
  ∀ (s : State) (e : Fin 80) (b : BusAct) (x : ArrEntry), clocksRun s.dev = true → s.pwr.gate = .none → busFirst s (.array e) = some b →
    arrEntryOf (b.entry.setWidth 128) = some (some x) →
    arrErrBits s (engineOf s e) x b.fill (actRows x b.span) b.delta = 0 →
    accErrBits (engineOf s e) x b.fill (actRows x b.span) = 0 → maskBits x.amask ≠ [] → actRows x b.span ≠ 0 →
    (∀ a ∈ (engineOf s e).acts, a.swap = false ∧ a.loadDue = 0 ∧ actEnded a = false) →
    let rowsOver : Prop := ∀ a ∈ maskBits x.amask, passOn (engineOf s e) a = none
    let serves : Prop := mustWait s (e / 10) b.fill = false
    let joins (t : State) : Prop := t.bus = s.bus.erase b ∧ t.sram = s.sram ∧ t.hbm = s.hbm ∧
      ∃ a, (engineOf t e).acts = (engineOf s e).acts ++ [a] ∧ a.rows = (if x.op = .load then 0 else actRows x b.span) ∧
        a.done = 0 ∧ a.fill = b.fill ∧ a.step = (engineOf s e).step.toNat
    let image (a : Nat) : Nat := scratchBase e + (baseAfter x.wbase x.dsel b.delta).toNat + a * arrImageBytes x
    let takes (t : State) : Prop := ∀ a ∈ maskBits x.amask,
      (arrOf (engineOf t e) a).back = wsetOf x (sramRead s (image a) (arrImageBytes x))
    let clean : Prop := ∀ a ∈ maskBits x.amask, sramPoisoned s (image a) (arrImageBytes x) = none
    (x.op = .pass → rowsOver → serves → ∃ t, exec (.arrayPass e) s = .next t ∧ joins t) ∧
    (x.op = .pass → rowsOver → ¬serves → ∃ t a, exec (.arrayPass e) s = .next t ∧ (engineOf t e).acts = (engineOf s e).acts ∧
      (engineOf t e).suspended = (engineOf s e).suspended ++ [a] ∧ a.rows = actRows x b.span ∧ a.done = 0) ∧
    (x.op = .elem → rowsOver → serves → ∃ t, exec (.arrayElem e) s = .next t ∧ joins t) ∧
    (x.op = .load → serves → backsLoading (engineOf s e) x.amask = false → clean → ∃ t, exec (.arrayLoad e) s = .next t ∧ joins t ∧
      takes t) ∧
    (x.op = .passLoad → rowsOver → serves → clean →
      (if x.swap then backsValid (engineOf s e) x.amask = true ∧ ∀ a ∈ maskBits x.amask, (arrOf (engineOf s e) a).front.loading = false
        else backsLoading (engineOf s e) x.amask = false) →
      ∃ t, exec (.arrayPassLoad e) s = .next t ∧ joins t ∧ takes t)

/-- An array action that fails a check begins nothing: its bits of ARR_ERR and ARR_ACC_ERR set and the stream stops at its
measure, which has issued. -/
def Sys2Proof.ArrayActionsFail : Prop :=
  ∀ (s : State) (e : Fin 80) (b : BusAct) (x : ArrEntry), clocksRun s.dev = true → s.pwr.gate = .none → busFirst s (.array e) = some b →
    arrEntryOf (b.entry.setWidth 128) = some (some x) → x.op = .pass → b.fill = false → s.cal.run = true →
    (∀ a ∈ maskBits x.amask, passOn (engineOf s e) a = none) →
    let eb := arrErrBits s (engineOf s e) x false (actRows x b.span) b.delta
    let ab := accErrBits (engineOf s e) x false (actRows x b.span)
    eb ≠ 0 ∨ ab ≠ 0 → ∃ t, exec (.arrayPass e) s = .next t ∧ (engineOf t e).acts = (engineOf s e).acts ∧
      (engineOf t e).arrs = (engineOf s e).arrs ∧
      (engineOf t e).arrErr = (engineOf s e).arrErr ||| BitVec.ofNat 32 eb ∧
      (engineOf t e).accErr = (engineOf s e).accErr ||| BitVec.ofNat 32 ab ∧
      t.cal.run = false ∧ t.cal.issued = true ∧ bitAt t.cal.err 1 = true ∧ t.cal.pc = s.cal.pc ∧ t.sram = s.sram ∧ t.hbm = s.hbm

/-- A weight load completes: the back set is valid, and an action that waited for it exchanges the sets. A row step advances
its pass by one row and sends its results towards the banks; the banks as the arrays see them do not change when results land. -/
def Sys2Proof.ArraySteps : Prop :=
  (∀ (s : State) (e : Fin 80) (a : Fin 8), clocksRun s.dev = true → s.pwr.gate = .none → (arrOf (engineOf s e) a).back.loading = true →
    (∀ t ∈ (engineOf s e).acts, t.swap = false ∧ t.loadDue = 0) → ∃ t, exec (.weightLoadComplete e a) s = .next t ∧
      (arrOf (engineOf t e) a).back = { (arrOf (engineOf s e) a).back with loading := false, valid := true } ∧
      (arrOf (engineOf t e) a).front = (arrOf (engineOf s e) a).front ∧
      ∀ k, k ≠ a.val → arrOf (engineOf t e) k = arrOf (engineOf s e) k) ∧
  (∀ (s : State) (e : Fin 80) (a : Fin 8) (w : ArrAct), clocksRun s.dev = true → s.pwr.gate = .none → (arrOf (engineOf s e) a).back.loading = true →
    (engineOf s e).acts = [w] → w.swap = true → w.loadDue = 0 → w.ent.amask = 2 ^ a.val →
    ∃ t, exec (.weightLoadComplete e a) s = .next t ∧
      (arrOf (engineOf t e) a).front = { (arrOf (engineOf s e) a).back with loading := false, valid := true } ∧
      (arrOf (engineOf t e) a).back = (arrOf (engineOf s e) a).front) ∧
  (∀ (s : State) (e : Fin 80) (a : Fin 8) (i : Nat) (w : ArrAct), clocksRun s.dev = true → s.pwr.gate = .none →
    passOn (engineOf s e) a = some (i, w) → stepWaits (engineOf s e) w = false →
    (stepAddrs e w).findSome? (fun p => sramPoisoned s p (arrRowBytes w.ent)) = none →
    ∃ t ws, exec (.rowStep e a) s = .next t ∧ (engineOf t e).inflight = (engineOf s e).inflight ++ [ws] ∧
      (engineOf t e).bankMem = (engineOf s e).bankMem ∧ t.sram = s.sram ∧ t.hbm = s.hbm ∧
      (w.done + 1 < w.rows → ∃ v ∈ (engineOf t e).acts, v.ent.amask = w.ent.amask ∧ v.done = w.done + 1 ∧ v.rows = w.rows) ∧
      (finishesTile w = false → (engineOf t e).queue = (engineOf s e).queue) ∧
      (opensTile w = true → ∀ k ∈ maskBits w.ent.amask, nextBank (arrOf (engineOf t e) k) w.fill =
        !nextBank (arrOf (engineOf s e) k) w.fill)) ∧
  (∀ (s : State) (e : Fin 80) (ws : List (Nat × W48)) (rest : List (List (Nat × W48))), clocksRun s.dev = true → s.pwr.gate = .none →
    (engineOf s e).inflight = ws :: rest → (ws.map (·.1)).Nodup → ∃ t, exec (.bankWrite e) s = .next t ∧
      (engineOf t e).inflight = rest ∧ ∀ k, bankWord (engineOf t e) k = bankWord (engineOf s e) k)

/-- The actions of the arrays: how they begin, fail and run.
(MATCH and the height of a pass without an open tile are the model's choice, notes/assumptions/58.md; what an ELEM counts,
notes/assumptions/59.md; when a load takes its image, notes/assumptions/19.md; acceptance, notes/assumptions/20.md.) -/
def Obligations.ArrayActions : Prop := ArrayActionsBegin ∧ ArrayActionsFail ∧ ArraySteps

/-- RUN, DRAIN and SYNC at the head of the bus: a RUN whose streams are in range and do not overlap joins the engine's actions
with its rows, a DRAIN joins without its tiles, a SYNC is taken once every earlier action has landed its last write. -/
def Sys2Proof.ElementActionsBegin : Prop :=
  ∀ (s : State) (e : Fin 80) (b : BusAct) (x : EleEntry) (is : List FInstr) (ks : List Val), clocksRun s.dev = true → s.pwr.gate = .none →
    busFirst s (.element e) = some b → busElement b = some (some (x, is, ks)) →
    let rows := if x.rowsrc then b.span else x.rows
    let bus' := s.bus.erase b
    let serves : Prop := mustWait s (e / 10) b.fill = false
    let slow := b.fill && decide (32 < rowCycles x is)
    (x.op = .run → serves → eleFree (engineOf s e) b.fill = true → slow = false → eleErrBits s x is b.fill b.delta rows = 0 →
      ∃ t a, exec (.elementRun e) s = .next t ∧ t.bus = bus' ∧ (engineOf t e).eles = (engineOf s e).eles ++ [a] ∧
        a.ent = x ∧ a.rows = rows ∧ a.row = 0 ∧ a.taken = true ∧ a.fill = b.fill ∧ t.sram = s.sram ∧ t.hbm = s.hbm) ∧
    (x.op = .drain → serves → eleFree (engineOf s e) b.fill = true → slow = false →
      ∃ t a, exec (.elementDrain e) s = .next t ∧ t.bus = bus' ∧ (engineOf t e).eles = (engineOf s e).eles ++ [a] ∧
        a.ent = x ∧ a.taken = false ∧ a.tiles = [] ∧ a.fill = b.fill ∧ (engineOf t e).queue = (engineOf s e).queue ∧
        t.sram = s.sram ∧ t.hbm = s.hbm) ∧
    (x.op = .sync → eleQuiet (engineOf s e) = true → exec (.elementSync e) s = .next { s with bus := bus' })

/-- A drain takes its descriptors where enough of its context wait, they agree and its streams are in range; a row of an action
is read and evaluated; outputs land in the scratchpad, no other byte moves; the oldest action completes with its records. -/
def Sys2Proof.ElementSteps : Prop :=
  (∀ (s : State) (e : Fin 80) (a : EleAct) (i : Nat), clocksRun s.dev = true → s.pwr.gate = .none →
    (engineOf s e).eles.zipIdx.find? (fun p => !p.1.taken && !p.1.dead) = some (a, i) →
    let ds := ((engineOf s e).queue.filter (fun d => d.fill == a.fill)).take a.ent.tiles
    let rows := match ds with | d :: _ => drainRows d | [] => 0
    ds.length = a.ent.tiles → (a.fill = true → ∀ b ∈ (engineOf s e).eles, b.fill = true) → descsDiffer ds = false → eleErrBits s a.ent a.instrs a.fill a.delta rows = 0 →
    ∃ t, exec (.drainDescriptorsTaken e) s = .next t ∧
      (engineOf t e).eles = (engineOf s e).eles.set i { a with tiles := ds, taken := true, rows := rows } ∧
      (∀ d ∈ ds, bankState (arrOf (engineOf t e) d.array) d.bank = .draining) ∧ (∀ d ∈ (engineOf t e).queue, d ∉ ds) ∧
      t.sram = s.sram) ∧
  (∀ (s : State) (e : Fin 80) (a : EleAct) (i : Nat), clocksRun s.dev = true → s.pwr.gate = .none →
    (engineOf s e).eles.zipIdx.find? (fun p => eleReading p.1) = some (a, i) → a.taken = true → a.row < a.rows →
    rowUnwritten (engineOf s e) a = false →
    (a.fill = true → ∀ b ∈ (engineOf s e).eles, b.fill = true) → rowPoisoned s a = none → ∃ t v, exec (.elementRowRead e) s = .next t ∧
      (engineOf t e).eles = (engineOf s e).eles.set i v ∧ v.row = a.row + 1 ∧ v.rows = a.rows ∧ v.ent = a.ent ∧ t.sram = s.sram ∧
      (a.row + 1 = a.rows → ∀ d ∈ a.tiles, bankState (arrOf (engineOf t e) d.array) d.bank = .free)) ∧
  (∀ (s : State) (e : Fin 80) (o : EleOut) (rest : List EleOut), clocksRun s.dev = true → s.pwr.gate = .none → (engineOf s e).outs = o :: rest →
    Memory.wf s.sram = true → (o.bytes.map (·.1)).Nodup → ∃ t, exec (.elementOutputWrite e) s = .next t ∧ (engineOf t e).outs = rest ∧
      (∀ w ∈ o.bytes, memGet t.sram w.1 = w.2) ∧ (∀ k, k ∉ o.bytes.map (·.1) → memGet t.sram k = memGet s.sram k) ∧
      t.hbm = s.hbm) ∧
  (∀ (s : State) (e : Fin 80) (a : EleAct) (rest : List EleAct), clocksRun s.dev = true → s.pwr.gate = .none → (engineOf s e).eles = a :: rest →
    eleReading a = false → eleWriting a = false → ∃ t, exec (.elementActionComplete e) s = .next t ∧
      (engineOf t e).eles = rest ∧ (memOf t (e.val / 10)).census.waiting = (memOf s (e.val / 10)).census.waiting ++
        (if a.dead then [] else a.recs.map (·.2)) ∧ t.sram = s.sram)

/-- The actions of an element engine: how they begin and run.
(The integer codes are the model's choice, notes/assumptions/60.md; the unused bits of a row, notes/assumptions/61.md; acceptance,
notes/assumptions/20.md.) -/
def Obligations.ElementActions : Prop := ElementActionsBegin ∧ ElementSteps

/-! ### Movers, core actions, expanders -/

/-- COPY, ZERO and SEAL at the head of a mover's actions: with room among the four entries and no failed check the action joins
the queue with the slot's delta added, suspended where it is of the fill stream and its core does not serve that; a failed check sets its bits of MEM_ERR, queues nothing and stops the stream. That a delta below 0 leads outside every map is the model's choice (notes/assumptions/69.md). -/
def Sys2Proof.MoverActionsIssue : Prop :=
  ∀ (s : State) (c : Fin 8) (m : Fin 11) (b : BusAct) (x : MovEntry), clocksRun s.dev = true → s.pwr.gate = .none →
    busFirst s (.mover c m) = some b → movEntryOf b.entry = some (some x) →
    ((moverOf s c m).queue.filter (fun a => !a.suspended)).length < 4 →
    let y := (movDelta x b.delta).1
    let neg := (movDelta x b.delta).2
    let u : State := { s with bus := s.bus.erase b }
    let queued := setMover u c m { queue := (moverOf s c m).queue ++
      [⟨y, b.fill, false, [], [], [], false, none, mustWait s c b.fill, (movRows y).map (fun r => (r.1, r.2, y.len)), false⟩] }
    (movErrBits s y b.fill neg = (0, false) →
      (x.op = .copy → exec (.copy c m) s = .next queued) ∧ (x.op = .zero → exec (.zero c m) s = .next queued) ∧
      (x.op = .seal → exec (.seal c m) s = .next queued)) ∧
    ((movErrBits s y b.fill neg).1 ≠ 0 → b.fill = false → x.op = .copy → s.cal.run = true → ∃ t, exec (.copy c m) s = .next t ∧
      (moverOf t c m).queue = (moverOf s c m).queue ∧ t.cal.run = false ∧ bitAt t.cal.err 1 = true ∧
      (∀ k, k < 9 → (movErrBits s y b.fill neg).1.testBit k = true → bitAt (memOf t c).err k = true) ∧
      t.hbm = s.hbm ∧ t.sram = s.sram)

/-- A mover starts its next action where no host holds a line of the source: ZERO carries zeros, COPY what its source rows hold.
An action that has all its data and meets no fault writes it, leaves the queue and posts; SEAL leaves each tile of its
destination with the checksum of its data. -/
def Sys2Proof.MoverActionsRun : Prop :=
  ∀ (s : State) (c : Fin 8) (m : Fin 11) (a : MovAct) (i : Nat), clocksRun s.dev = true →
    s.gilLoose = a.loose →
    (nextMov (moverOf s c m).queue = some (a, i) → heldFor s (.mover c m) a.fill = 0 →
      (a.ent.op = .copy → a.ent.srcSram = true ∨ a.left.flatMap (fun r => trackedDev s r.1 r.2.2 false) = []) →
      ∃ t v, exec (.moverActionStart c m) s = .next t ∧ (moverOf t c m).queue = (moverOf s c m).queue.set i v ∧
        v.running = true ∧ v.ent = a.ent ∧ t.hbm = s.hbm ∧ t.sram = s.sram ∧
        (a.ent.op = .zero → v.data = a.left.map (fun r => (r.2.1, List.replicate r.2.2 0#8))) ∧
        (a.ent.op = .copy → (∀ r ∈ a.left, srcRowFault s a.ent r.1 r.2.2 = none) → a.ent.srcSram = true →
          v.data = a.left.map (fun r => (r.2.1, sramRead s r.1 r.2.2)))) ∧
    ((moverOf s c m).queue.zipIdx.find? (fun p => p.1.running && !p.1.suspended) = some (a, i) →
      a.slowTodo = [] → a.slow = [] → a.faultAt = none → trafficWaits s (.mover c m) = false →
      let after (t : State) : Prop := (moverOf t c m).queue = (moverOf s c m).queue.eraseIdx i ∧ t.tok.flight = s.tok.flight ++
        (if a.ent.post then [⟨.mover c m, a.fill, a.ent.token, 0⟩] else [])
      (a.ent.dstSram = true → a.ent.op ≠ .seal → a.ent.produce = false → ∃ t, exec (.moverActionComplete c m) s = .next t ∧ after t ∧
        t.hbm = s.hbm ∧ t.sram = a.data.foldl (fun m r => memWrite m r.1 r.2) s.sram) ∧
      (a.ent.dstSram = false → slowWrites a = [] → a.data.flatMap (fun r => trackedDev s r.1 r.2.length true) = [] →
        a.data.any (fun r => shutAt s (movClass a.fill) r.1 r.2.length) = false → a.ent.op ≠ .seal → a.ent.produce = false → (writeRows s a.ent (movClass a.fill) a.data).2 = none →
        ∃ t, exec (.moverActionComplete c m) s = .next t ∧ after t ∧ t.sram = s.sram) ∧
      (a.ent.op = .seal → a.ent.dstSram = false → a.data = [] → s.cxl.track = [] → s.hbmPoison = [] → a.loose = false →
        (∀ d ∈ devTiles a.ent, devFault s d 4096 = none) → ∃ t, exec (.moverActionComplete c m) s = .next t ∧
          after t ∧ t.hbm = s.hbm ∧ t.sram = s.sram ∧ ∀ h ∈ dstTiles s a.ent, tileOk t h = true))

/-- The actions of a mover: how they join its queue and run.
(When a mover's bytes are taken and placed is the model's choice, notes/assumptions/22.md; what MEM_ERRADDR takes, and a delta below 0,
notes/assumptions/69.md.) -/
def Obligations.MoverActions : Prop := MoverActionsIssue ∧ MoverActionsRun

/-- The actions of a core: a SET joins its set's queue where its context owns the set, an EXPAND its expander's queue where its
ranges are in order, a SPANLD reads its word, or waits in its turn while a post of the core's is held, and later writes bits 16 to 0 of its span register and
posts, but where a higher core's of its measure has written (notes/assumptions/19.md: the model's choice of what "last" means). -/
def Sys2Proof.CoreActions : Prop :=
  (∀ (s : State) (c : Fin 8) (b : BusAct) (d : SetBody), clocksRun s.dev = true → s.pwr.gate = .none → busFirst s (.core c) = some b →
    coreEntryOf c b.entry = some (some (.set d)) →
    (setOf s d.set).queue.length < 256 →
    let u : State := { s with bus := s.bus.erase b }
    ((∀ g, (setOf s d.set).cfg = some g → g.fill = b.fill) → exec (.setEnqueue c) s =
      .next (setSet u d.set { setOf s d.set with queue := (setOf s d.set).queue ++ [d] })) ∧
    (∀ g, (setOf s d.set).cfg = some g → g.fill ≠ b.fill → ∃ t, exec (.setEnqueue c) s = .next t ∧ t.sets = s.sets ∧
      t.bus = u.bus)) ∧
  (∀ (s : State) (c : Fin 8) (b : BusAct) (d : ExpBody), clocksRun s.dev = true → s.pwr.gate = .none → busFirst s (.core c) = some b →
    coreEntryOf c b.entry = some (some (.expand d)) → (expQueue (cmpOf s c) d.exp).length < 4 → expIndexOk s c d = true →
    (movErrBits s (expDst d) false (0, 0)).1 = 0 → ∃ t v, exec (.expandEnqueue c) s = .next t ∧
      expQueue (cmpOf t c) d.exp = expQueue (cmpOf s c) d.exp ++ [v] ∧ v.body = d ∧ v.running = false ∧
      t.bus = s.bus.erase b) ∧
  (∀ (s : State) (c : Fin 8) (b : BusAct) (d : SpanBody), clocksRun s.dev = true → s.pwr.gate = .none → busFirst s (.core c) = some b →
    coreEntryOf c b.entry = some (some (.spanld d)) → (∀ x ∈ s.spanlds, x.core = c.val → x.wait = none) →
    let x (v : Nat) (w : Option Nat) : SpanLoad := ⟨c.val, d.reg, v, if d.post then some d.token else none, s.cal.scyc, w⟩
    (heldFor s (.spanld c) b.fill = 0 → sramPoisoned s d.addr 4 = none → ∃ t, exec (.spanld c) s = .next t ∧
      t.bus = s.bus.erase b ∧ t.sram = s.sram ∧ t.spanlds = s.spanlds ++ [x (bytesNat (sramRead s d.addr 4)) none]) ∧
    (heldFor s (.spanld c) b.fill ≠ 0 → exec (.spanld c) s =
      .next { s with bus := s.bus.erase b, spanlds := s.spanlds ++ [x 0 (some d.addr)] })) ∧
  (∀ (s : State) (c : Fin 8) (x : SpanLoad) (a : Nat), clocksRun s.dev = true → s.pwr.gate = .none →
    s.spanlds.find? (fun x => x.core == c.val && x.wait.isSome) = some x → x.wait = some a →
    (heldFor s (.spanld c) false ≠ 0 → exec (.spanld c) s = .next s) ∧
    (heldFor s (.spanld c) false = 0 → sramPoisoned s a 4 = none → ∃ t, exec (.spanld c) s = .next t ∧ t.bus = s.bus ∧
      t.sram = s.sram ∧ t.spanlds = s.spanlds.erase x ++ [{ x with val := bytesNat (sramRead s a 4), wait := none }])) ∧
  (∀ (s : State) (c : Fin 8) (l : SpanLoad), clocksRun s.dev = true →
    s.spanlds.find? (fun x => x.core == c.val && x.wait.isNone) = some l → ∃ t, exec (.spanldWrite c) s = .next t ∧
      t.spanlds = s.spanlds.erase l ∧
      t.tok.flight = s.tok.flight ++ (match l.post with | some k => [⟨.spanld c, false, k, 0⟩] | none => []) ∧
      let higher : Prop := ∃ w, Tbl.get? s.cal.spanBy l.reg = some w ∧ w.1 = l.at_ ∧ c.val < w.2
      (higher → t.cal.span = s.cal.span) ∧
      (¬ higher → (Tbl.get 0#32 t.cal.span l.reg).toNat = l.val % 2 ^ 17 ∧ Tbl.get? t.cal.spanBy l.reg = some (l.at_, c.val) ∧
        ∀ k, k ≠ l.reg → Tbl.get 0#32 t.cal.span k = Tbl.get 0#32 s.cal.span k))

/-- An expander begins its next descriptor where no host holds what it reads. A descriptor that decoded every block writes them,
leaves the queue and posts; one that met a fault is counted, posts nothing and stops the stream at its next issue test. -/
def Sys2Proof.ExpanderActions : Prop :=
  ∀ (s : State) (p : Fin 8) (x : Fin 4) (a : ExpAct) (rest : List ExpAct), clocksRun s.dev = true →
    expQueue (cmpOf s p) x = a :: rest →
    (a.running = false → heldFor s (.expander p x) false = 0 → partActive s p = true → s.cxl.track = [] →
      ∃ t v, exec (.expanderStart p x) s = .next t ∧ expQueue (cmpOf t p) x = v :: rest ∧ v.running = true ∧ v.body = a.body ∧
        t.hbm = s.hbm ∧ t.sram = s.sram) ∧
    (a.running = true → a.slowTodo = [] → a.slow = [] → trafficWaits s (.expander p x) = false → a.body.dstSram = true → a.poison = none → a.fault = none →
      (a.gen = 0 → a.bad = 0 → a.idx = false → a.body.produce = false → ∃ t, exec (.expanderComplete p x) s = .next t ∧
        expQueue (cmpOf t p) x = rest ∧ t.sram = a.data.foldl (fun m r => memWrite m r.1 r.2) s.sram ∧ t.hbm = s.hbm ∧
        t.tok.flight = s.tok.flight ++ (if a.body.post then [⟨.expander p x, false, a.body.token, a.body.slots⟩] else []) ∧
        (cmpOf t p).cntGen = min 65535 (cmpOf s p).cntGen ∧ t.cal.faultPend = s.cal.faultPend) ∧
      (a.gen ≠ 0 ∨ a.bad ≠ 0 ∨ a.idx = true → ∃ t, exec (.expanderComplete p x) s = .next t ∧ expQueue (cmpOf t p) x = rest ∧
        (cmpOf t p).cntGen = min 65535 ((cmpOf s p).cntGen + a.gen) ∧ (cmpOf t p).cntBad = min 65535 ((cmpOf s p).cntBad + a.bad) ∧
        t.cal.faultPend = s.cal.run ∧ bitAt t.cal.err 1 = true ∧ t.tok = s.tok))

/-- The actions of a core and of its expanders.
(Which SPANLD stands is the model's choice, notes/assumptions/19.md; when an expander's bytes move, notes/assumptions/22.md; a SPANLD held
by the post queue, notes/assumptions/69.md.) -/
def Obligations.CoreAndExpanderActions : Prop := CoreActions ∧ ExpanderActions

/-! ### HBM, the tip-in buffer, the regulators -/

/-- What the tip-in buffer promises: a write reads back at once through the buffer, a flush changes no byte as any requester
reads it, and no other byte moves.
(How a unit's own write waits for the buffer is the model's choice, notes/assumptions/12.md.) -/
def Obligations.TipInBuffer : Prop :=
  (∀ (s : State) (p : Fin 8) (line : Nat) (data : LineWrite), clocksRun s.dev = true →
    Memory.wf s.hbm = true → windowOpen s p (line * 256) = true → data.bytes.length = 256 → (tipOf s p).waiting = [] →
    (tipOf s p).lines.any (fun l => l.line == lineIn p line && l.flushing) = false →
    ∃ t, exec (.wholeLineWrite p line data) s = .next t ∧
      (∀ k, k < 256 → hbmByte t (lineIn p line * 256 + k) = data.bytes.getD k 0) ∧
      ∀ a, a / 256 ≠ lineIn p line → hbmByte t a = hbmByte s a) ∧
  (∀ (s : State) (p : Fin 8) (off : Nat) (data : List Byte) (cls : Fin 8), clocksRun s.dev = true → windowOpen s p off = true →
    data ≠ [] → data.length < 256 → off % 256 + data.length ≤ 256 → (tipOf s p).waiting = [] → (∀ l, tipLineOf s ((p.val * hbmWindow + off) / 256) = some l → l.flushing = false) →
    (tipOf s p).lines.length < 512 → ∃ t, exec (.partialWrite p off data cls) s = .next t ∧ t.hbm = s.hbm ∧
      (∀ k, k < data.length → hbmByte t (p.val * hbmWindow + off + k) = data.getD k 0) ∧
      ∀ a, a < p.val * hbmWindow + off ∨ p.val * hbmWindow + off + data.length ≤ a → hbmByte t a = hbmByte s a) ∧
  (∀ (s : State) (p : Fin 8) (line : Nat) (l : TipLine), clocksRun s.dev = true → (tipOf s p).lines = [l] →
    l.line = lineIn p line → ∃ t, exec (.tipinIdleFlush p line) s = .next t ∧ (tipOf t p).lines = [{ l with flushing := true }] ∧
      t.hbm = s.hbm) ∧
  (∀ (s : State) (p : Fin 8) (line : Nat) (l : TipLine), clocksRun s.dev = true → Memory.wf s.hbm = true → s.hbmPoison = [] →
    hbmPart (lineIn p line * 256) = p.val → (tipOf s p).waiting = [] → tipLineOf s (lineIn p line) = some l → l.flushing = true →
    (l.data.map (·.1)).Nodup → ∃ t, exec (.tipinLineFreed p line) s = .next t ∧ tipLineOf t (lineIn p line) = none ∧
      ∀ a, hbmByte t a = hbmByte s a) ∧
  (∀ (s : State) (p : Fin 8), clocksRun s.dev = true → (∀ l ∈ (tipOf s p).lines, l.covered = false) →
    exec (.tipinFenceComplete p) s = .next (updTip s p (fun t => { t with fencing := false })))

/-- What is allocated of a resource and not freed is what is in use (R462): lines of the tip-in buffers and parking slots. -/
def Sys2Proof.LedgersBalance (s : State) : Prop :=
  ∀ p, (tipOf s p).alloc = (tipOf s p).freed + (tipOf s p).lines.length ∧
    (updOf s p).alloc % 65536 = ((updOf s p).freed + (updOf s p).parks.length) % 65536

/-- `ALLOC - FREE` of every tip-in ledger is the number of lines its buffer holds, and of every parking ledger the number of slots
in use, at reset and after every step from a state in which it is so. -/
def Obligations.LedgersStayBalanced : Prop :=
  LedgersBalance State.reset ∧ ∀ s t : State, LedgersBalance s → step s = .next t → LedgersBalance t

/-- Accesses that arrive with a grant wait behind those already there. A grant among requests of one class takes the oldest: it charges its class the occupancy of R133 where the bucket is not negative and the class has a
share or borrows; a class whose bucket is negative is granted without charge where it borrows, and else waits. -/
def Obligations.RegulatorGrant : Prop :=
  ∀ (s : State) (p c : Fin 8) (reqs : List HbmAccess) (q : HbmReq) (rest : List HbmReq), clocksRun s.dev = true → partActive s p = true →
    reqs.foldl (fun rs x => addTraffic none x.cls x.write x.off x.len rs) (memOf s p).regs.reqs = q :: rest → (∀ x ∈ q :: rest, x.cls = c.val) →
    let n := q.hi - q.lo
    let r := (memOf s p).regs
    let w := classOf r c
    (0 ≤ bucketOf r c → (bits w 7 0 ≠ 0 ∨ bitAt w 31 = true) → exec (.hbmRequestGrant p reqs) s =
      .next (updRegs s p (fun r => { r with reqs := rest, rotate := (c.val + 1) % 8, bucket := Tbl.set r.bucket c (bucketOf r c -
        256 * (if (n + 31) / 32 * 32 < 2048 then (n + 31) / 32 * 32 + 192 else (n + 31) / 32 * 32 : Nat)) }))) ∧
    (bucketOf r c < 0 → bitAt w 31 = true → exec (.hbmRequestGrant p reqs) s =
      .next (updRegs s p (fun r => { r with reqs := rest, borrowRotate := (c.val + 1) % 8 }))) ∧
    (bucketOf r c < 0 → bitAt w 31 = false → exec (.hbmRequestGrant p reqs) s = .next (updRegs s p (fun r => { r with reqs := q :: rest })))

/-! ### Census records and the update units -/

/-- The oldest waiting record, its class granted, enters the ring with its sequence number, or the accumulator of its format where the ring is full,
or is dropped where the ring is not enabled; a record that crosses a threshold sets CROSS, interrupts where CTHR1 says so and
posts its token unless it is the fill stream's. A merged record follows once there is space and no record waits. (That a record is
written while an earlier one of the fill stream waits for its class is the model's choice, notes/assumptions/69.md; a clause here is
about the oldest record alone. A merged record's class is the model's choice too, notes/assumptions/63.md.) -/
def Obligations.CensusRecords : Prop :=
  (∀ (s : State) (p : Fin 8) (r : CRec) (rest : List CRec), clocksRun s.dev = true → Memory.wf s.hbm = true → partActive s p = true →
    unitHeld s (.census p) = false → (censusOf s p).waiting = r :: rest → recShut s p r = false →
    let x := censusOf s p
    (ringEn x = false → crosses x r = false → exec (.censusRecordWrite p) s = .next (setCensus s p { x with waiting := rest })) ∧
    (ringEn x = true → ringFull x = false → ringHolds s p = none → crosses x r = false → ∃ t, exec (.censusRecordWrite p) s = .next t ∧
      censusOf t p = { x with waiting := rest, head := x.head + 1 } ∧
      hbmRead t (ringAddr p x) 256 = recBytes r r.tag r.unit r.src (2 * b2n (recFull r) + 4 * b2n r.fill + 8 * ringPhase x)
        x.head.toNat 0 0) ∧
    (ringEn x = true → ringFull x = true → crosses x r = false → ∃ t, exec (.censusRecordWrite p) s = .next t ∧
      (censusOf t p).head = x.head ∧ (censusOf t p).waiting = rest ∧ (censusOf t p).covf.toNat = satInc 0xFFFFFFFF x.covf.toNat ∧
      (Tbl.get (mergeReset r.fmt) (censusOf t p).merge r.fmt).nrec = (Tbl.get (mergeReset r.fmt) x.merge r.fmt).nrec + 1 ∧
      t.hbm = s.hbm) ∧
    (ringEn x = false → crosses x r = true → ∃ t, exec (.censusRecordWrite p) s = .next t ∧ bitAt (censusOf t p).cstat 0 = true ∧
      (censusOf t p).waiting = rest ∧ (bitAt x.cthr1 30 = true → bitAt t.cxl.irqStat 17 = true) ∧
      (r.fill = true → t.tok = s.tok) ∧
      (r.fill = false → t.tok.flight = s.tok.flight ++ [⟨.census p, false, bits x.cthr1 21 16, 0⟩]))) ∧
  (∀ (s : State) (p : Fin 8) (f : Nat) (m : MergeAcc) (rest : Tbl MergeAcc), clocksRun s.dev = true → partActive s p = true →
    ringEn (censusOf s p) = true → ringFull (censusOf s p) = false → ringHolds s p = none → (censusOf s p).waiting = [] →
    (censusOf s p).merge.filter (fun e => e.2.nrec != 0) = (f, m) :: rest → ∃ t, exec (.censusMergeWrite p) s = .next t ∧
      (censusOf t p).head = (censusOf s p).head + 1 ∧ (censusOf t p).merge = Tbl.del (censusOf s p).merge f ∧
      (censusOf t p).covf = (censusOf s p).covf)

/-- A chunk handed to an update unit: one whose check fails is counted by its bit and not applied, one of no enabled group of the
set (one that no table row gives, that is not enabled, that is another set's, or that has no such chunk) sets GROUP, one the done map
has is counted as a duplicate, one of a slow-tier group takes a parking slot, and any other waits to be applied. A chunk applied adds
to its group's sums; a tile that fails its check, or poison met, leaves it unapplied. The write of a line that a host holds waits for
the host's answer, so each clause has the lines it reaches free. -/
def Sys2Proof.UpdateChunks : Prop :=
  (∀ (s : State) (p : Fin 8) (d : Deliv), clocksRun s.dev = true → partActive s p = true → unitHeld s (.update p) = false →
    (updOf s p).deliver.find? (canTake (updOf s p)) = some d → d.tag = (setOf s d.set).attempt →
    hostHolds s (arriveSpans s p d).1 (arriveSpans s p d).2 = none →
    let u := updOf s p
    let left := u.deliver.eraseP (canTake u)
    (d.good = false → ∃ t, exec (.updateChunkArrive p) s = .next t ∧ bitAt (updOf t p).err 1 = true ∧ (updOf t p).work = u.work ∧
      t.hbm = s.hbm) ∧
    (d.good = true →
      (groupAt u d.group = none ∨ ∃ g, groupAt u d.group = some g ∧ (g.en = false ∨ g.set ≠ d.set ∨ g.count ≤ 4096 * d.chunk)) → ∃ t, exec (.updateChunkArrive p) s = .next t ∧
      bitAt (updOf t p).err 3 = true ∧ (updOf t p).work = u.work ∧ (updOf t p).deliver = left) ∧
    (∀ g, d.good = true → groupAt u d.group = some g → g.en = true → g.set = d.set → 4096 * d.chunk < g.count →
      ((usetOf u d.set).st = .idle → (usetOf u d.set).attempt ≤ d.tag) →
      (∀ x, getFault s (doneGet g d.chunk) = some x → ∃ t, exec (.updateChunkArrive p) s = .next t ∧
        bitAt (updOf t p).err 0 = true ∧ (updOf t p).chk = satInc 0xFFFF u.chk ∧ (updOf t p).work = u.work ∧
        (updOf t p).deliver = left) ∧
      (getFault s (doneGet g d.chunk) = none → hbmByte s (g.dmap + d.chunk) = tagByte d.tag → ∃ t,
        exec (.updateChunkArrive p) s = .next t ∧ (updOf t p).dup = satInc 0xFFFF u.dup ∧ (updOf t p).work = u.work ∧ (updOf t p).deliver = left) ∧
      (getFault s (doneGet g d.chunk) = none → hbmByte s (g.dmap + d.chunk) ≠ tagByte d.tag → slowGroup g = false → ∃ t, exec (.updateChunkArrive p) s = .next t ∧
        (updOf t p).work = u.work ++ [(d, none)] ∧ (updOf t p).deliver = left ∧ t.hbm = s.hbm ∧
        ((usetOf u d.set).st = .idle → (usetOf (updOf t p) d.set).st = .opened ∧ (usetOf (updOf t p) d.set).attempt = d.tag)) ∧
      (getFault s (doneGet g d.chunk) = none → hbmByte s (g.dmap + d.chunk) ≠ tagByte d.tag → slowGroup g = true → ∀ slot, parkFree u = some slot →
        ∃ t, exec (.updateChunkArrive p) s = .next t ∧ (updOf t p).alloc = (u.alloc + 1) % 65536 ∧
        (∃ k ∈ (updOf t p).parks, k.slot = slot ∧ k.d = d) ∧ (updOf t p).work = u.work))) ∧
  (∀ (s : State) (p : Fin 8) (d : Deliv) (rest : List (Deliv × Option Nat)) (g : UGroup), clocksRun s.dev = true →
    partActive s p = true → (updOf s p).work = (d, none) :: rest → groupAt (updOf s p) d.group = some g →
    hostHolds s (getSpans s (doneGet g d.chunk :: chunkGets s p g d none)) (chunkWrites s p g d none) = none →
    let bad (x : UpdGet) : Bool := (getFault s x).isSome
    let applied := hbmByte s (g.dmap + d.chunk) = tagByte d.tag
    (bad (doneGet g d.chunk) = false → applied → ∃ t, exec (.updateChunkApplied p) s = .next t ∧
      (updOf t p).work = rest ∧ (updOf t p).dup = satInc 0xFFFF (updOf s p).dup ∧ t.hbm = s.hbm) ∧
    ((bad (doneGet g d.chunk) = true ∨ (¬ applied ∧ (chunkGets s p g d none).any bad = true)) →
      ∃ t, exec (.updateChunkApplied p) s = .next t ∧ (updOf t p).work = rest ∧ bitAt (updOf t p).err 0 = true ∧
        (updOf t p).chk = satInc 0xFFFF (updOf s p).chk ∧ t.hbm = s.hbm) ∧
    (bad (doneGet g d.chunk) = false → ¬ applied → (chunkGets s p g d none).any bad = false →
      ∃ t, exec (.updateChunkApplied p) s = .next t ∧ (updOf t p).work = rest ∧
        (gsumOf (updOf t p) d.group).n = (gsumOf (updOf s p) d.group).n + 1 ∧ (updOf t p).err = (updOf s p).err)) ∧
  (∀ (s : State) (p : Fin 8) (slot : Nat) (k : Park) (g : UGroup) (n : Nat) (bs : List Byte), clocksRun s.dev = true →
    partActive s p = true → (updOf s p).parks.find? (fun k => k.slot == slot) = some k → k.aborted = false → k.failed = false →
    groupAt (updOf s p) k.d.group = some g → partCome s p k = some (n, bs) →
    hostHolds s [] (withEntries s [(parkBase (updOf s p) slot + (partSpan g (ruleAt (updOf s p) g).mom k.d.chunk n).2.2,
      bs.length)]) = none → ∃ t, exec (.parkStateArrive p slot) s = .next t ∧
      (∃ j ∈ (updOf t p).parks, j.slot = slot ∧ j.parts = k.parts.filter (· != n)) ∧
      (updOf t p).work = (updOf s p).work ++ (if (k.parts.filter (· != n)).isEmpty then [(k.d, some slot)] else [])) ∧
  (∀ (s : State) (p : Fin 8) (slot : Nat) (k : Park) (g : UGroup) (o : ChunkOut), clocksRun s.dev = true → partActive s p = true →
    (updOf s p).parks.find? (fun k => k.slot == slot && parkWritten k && partActive s p) = some k → k.result = some o →
    groupAt (updOf s p) k.d.group = some g → hostHolds s [] (countSpans s p k.d.group g k.d) = none →
    ∃ t, exec (.parkWritesComplete p slot) s = .next t ∧
      (updOf t p).parks = (updOf s p).parks.filter (fun k => k.slot != slot) ∧
      (∀ x, getFault s (doneGet g k.d.chunk) = some x → bitAt (updOf t p).err 0 = true ∧ t.hbm = s.hbm) ∧
      (getFault s (doneGet g k.d.chunk) = none → hbmByte s (g.dmap + k.d.chunk) = tagByte k.d.tag →
        (updOf t p).dup = satInc 0xFFFF (updOf s p).dup ∧ t.hbm = s.hbm) ∧
      (getFault s (doneGet g k.d.chunk) = none → hbmByte s (g.dmap + k.d.chunk) ≠ tagByte k.d.tag →
        (gsumOf (updOf t p) k.d.group).n = (gsumOf (updOf s p) k.d.group).n + 1 ∧ (updOf t p).err = (updOf s p).err))

/-- A round: APPLIED once all its parts are done, with the posts of its groups; COMMIT begins the record, and with the record
visible parity flips, STEP and SEQ advance and the set is IDLE; ABORT makes it IDLE with parity and STEP as they were. An event in
the wrong state sets UPD_ERR.SEQ. Where a write meets a line that a host holds, the event waits for the host's answer. -/
def Sys2Proof.UpdateRounds : Prop :=
  ∀ (s : State) (p : Fin 8) (k : Fin 64), clocksRun s.dev = true → partActive s p = true →
    let u := updOf s p
    let us := usetOf u k
    let now (t : State) := usetOf (updOf t p) k
    (us.st = .opened → us.events = [] → roundDone s p k = true → ∃ t, exec (.roundApplied p k) s = .next t ∧
      (now t).st = .applied ∧ (now t).parity = us.parity ∧ (now t).step = us.step ∧ t.tok.flight = s.tok.flight ++
        ((groupsOf u k).filter (fun e => e.2.post)).map (fun e =>
          ⟨.update p, ((setOf s k).cfg.map (·.fill)).getD false, e.2.token, 0⟩) ∧ t.hbm = s.hbm) ∧
    (us.events.head? = some true → us.st = .applied → committing u = false → hostHolds s [] [(recordAddr u, 256)] = none → ∃ t, exec (.roundCommit p k) s = .next t ∧
      (now t).st = .commit ∧ (now t).parity = us.parity ∧ (now t).step = us.step ∧ (updOf t p).seq = u.seq ∧
      (now t).events = us.events.tail) ∧
    (us.events.head? = some true → us.st ≠ .applied → ∃ t, exec (.roundCommit p k) s = .next t ∧
      bitAt (updOf t p).err 4 = true ∧ (now t).st = us.st ∧ (now t).parity = us.parity ∧ t.hbm = s.hbm) ∧
    (us.st = .commit → hostHolds s [] ((recordAddr u + 256, 256) :: tagSpans s p k) = none → ∃ t, exec (.commitRecordVisible p k) s = .next t ∧ (now t).st = .idle ∧ (now t).parity = !us.parity ∧
      (now t).step = us.step + 1 ∧ (updOf t p).seq = u.seq + 1 ∧ (now t).attempt = nextAttempt us.attempt ∧
      ∀ j, j ≠ k.val → usetOf (updOf t p) j = usetOf u j) ∧
    (us.events.head? = some false → us.st = .opened ∨ us.st = .applied → hostHolds s [] (tagSpans s p k) = none → ∃ t, exec (.roundAbort p k) s = .next t ∧
      (now t).st = .idle ∧ (now t).parity = us.parity ∧ (now t).step = us.step ∧ (now t).attempt = nextAttempt us.attempt ∧
      (updOf t p).seq = u.seq ∧ ∀ j, j ≠ k.val → usetOf (updOf t p) j = usetOf u j)

/-- An update unit's chunks and rounds.
(The two writes of a record, and one committing set at a time, are the model's choice, notes/assumptions/23.md; what a parked chunk's slot
keeps, and what is verified when, notes/assumptions/29.md.) -/
def Obligations.UpdateUnitsAtWork : Prop := UpdateChunks ∧ UpdateRounds

/-! ### Links and sets -/

/-- The link's flits: a good data flit in order is taken and acknowledged, a flit of any type whose CRC fails is answered with a NAK and
those out of order with one; an idle flit returns credits; a NAK replays what is left, and a flit replayed eight times retrains the
link. (The order in which the frame word's fields enter the CRC, and that each flit whose CRC fails gets its own NAK, are the model's
choice, notes/assumptions/21.md.) -/
def Sys2Proof.LinkFlits : Prop :=
  ∀ (s : State) (n : Fin 12) (f : BitVec 128) (payload : List Byte), clocksRun s.dev = true → (linkOf s n).state = .up →
    let x := linkOf s n
    let y := takeAckCred x f
    (fType f = 0 → frameGood f payload = true → fSeq f = x.rxNext → ∃ t, exec (.dataFlitReceive n f payload) s = .next t ∧
      (linkOf t n).rxNext = (x.rxNext + 1) % 4096 ∧ (linkOf t n).nakWait = false ∧
      occOf (linkOf t n) (fVc f) = occOf x (fVc f) + 1 ∧ (linkOf t n).state = .up ∧ t.hbm = s.hbm ∧ t.sets = s.sets) ∧
    (fType f = 0 → frameGood f payload = true → fSeq f ≠ x.rxNext → x.nakWait = true →
      exec (.dataFlitReceive n f payload) s = .next s) ∧
    (frameGood f payload = false ∨ (fType f = 0 ∧ fSeq f ≠ x.rxNext ∧ x.nakWait = false) →
      ∃ t w, exec (.dataFlitReceive n f payload) s = .next t ∧ linkOf t n = { x with nakWait := true } ∧
        t.out = .flit n w zeros256 :: s.out ∧ fType w = 2 ∧ fAck w = (x.rxNext + 4095) % 4096 % 4096) ∧
    (frameGood f payload = false → exec (.idleFlitReceive n f payload) s = exec (.dataFlitReceive n f payload) s ∧
      exec (.nakReceive n f payload) s = exec (.dataFlitReceive n f payload) s) ∧
    (fType f = 1 → frameGood f payload = true → x.tx = [] → ∃ t, exec (.idleFlitReceive n f payload) s = .next t ∧
      creditsOf (linkOf t n) (fCvc f) = creditsOf x (fCvc f) + fCred f ∧ (linkOf t n).rxNext = x.rxNext ∧
      (linkOf t n).replay = y.replay) ∧
    (fType f = 2 → frameGood f payload = true → y.replay ≠ [] → (∀ k ∈ y.replays, k < 8) → ∃ t,
      exec (.nakReceive n f payload) s = .next t ∧ (linkOf t n).replays.take y.replays.length = y.replays.map (· + 1) ∧ (linkOf t n).state = .up ∧
      (linkOf t n).cntReplay = satInc 0xFFFF x.cntReplay) ∧
    (fType f = 2 → frameGood f payload = true → y.replay ≠ [] → (∃ k ∈ y.replays, 8 ≤ k) → ∃ t,
      exec (.nakReceive n f payload) s = .next t ∧ (linkOf t n).state = .retrain ∧
      (linkOf t n).cntRetrain = satInc 0xFF x.cntRetrain ∧ (linkOf t n).replay = y.replay)

/-- A link trains to UP with its planned peer and to DOWN otherwise, with the far side's grants as its credits; a retraining that
fails or runs out discards what the link held; the peer's marker halves the link. (What a retraining keeps, and what an abandoned
message's flits count, are the model's choice, notes/assumptions/28.md.) -/
def Sys2Proof.LinkStates : Prop :=
  (∀ (s : State) (n : Fin 12) (r : TrainReport), clocksRun s.dev = true → (linkOf s n).state = .training →
    (trainCode s n r = 1 → (linkOf s n).tx = [] → ∃ t, exec (.linkTraining n r) s = .next t ∧ (linkOf t n).state = .up ∧
      (linkOf t n).nextSeq = 0 ∧ (linkOf t n).rxNext = 0 ∧ (linkOf t n).half = (r.lanes == 4) ∧
      (linkOf t n).weights = (linkOf s n).nextWeights ∧
      (linkOf t n).credits = r.grants.zipIdx.map (fun p => (p.2, p.1)) ∧ (linkOf t n).upAsPlanned = true) ∧
    (trainCode s n r ≠ 1 → ∃ t, exec (.linkTraining n r) s = .next t ∧ (linkOf t n).state = .down)) ∧
  (∀ (s : State) (n : Fin 12) (r : TrainReport), clocksRun s.dev = true → (linkOf s n).state = .retrain →
    (r.ok = true → ∃ t, exec (.linkTraining n r) s = .next t ∧ (linkOf t n).state = .up ∧ (linkOf t n).nakWait = false) ∧
    (r.ok = false → ∃ t, exec (.linkTraining n r) s = .next t ∧ (linkOf t n).state = .down)) ∧
  (∀ (s : State) (n : Fin 12), clocksRun s.dev = true → (linkOf s n).state = .retrain → ∃ t,
    exec (.retrainTimeout n) s = .next t ∧ (linkOf t n).state = .down ∧ (linkOf t n).replay = [] ∧ (linkOf t n).rx = [] ∧
    (linkOf t n).credits = [] ∧ (linkOf t n).lost =
      min 0xFF ((linkOf s n).lost + (linkOf s n).replay.length + ((linkOf s n).occ.map (fun p => p.2)).sum)) ∧
  (∀ (s : State) (n : Fin 12), clocksRun s.dev = true → (linkOf s n).state = .up → exec (.laneHalveMarker n) s =
    .next (setLink s n { linkOf s n with half := true }))

/-- The flits of a link and its states.
(The parts name notes/assumptions/21.md, 28.md too.) -/
def Obligations.LinksAtWork : Prop := LinkFlits ∧ LinkStates

/-- A descriptor starts: with no entry configured the set holds with NOENTRY; a COUNT that does not divide, or a root outside the
set, makes the member vote the failure and hold; a barrier runs at once. (That a COUNT other than the set's size makes an all-to-all
set COUNT is the model's choice, notes/assumptions/26.md.) -/
def Sys2Proof.DescriptorStart : Prop :=
  ∀ (s : State) (k : Fin 64) (b : SetBody) (rest : List SetBody), clocksRun s.dev = true → (setOf s k).run = none →
    mayStart s k = true → (setOf s k).queue = b :: rest →
    ((setOf s k).cfg = none → ∃ t, exec (.setDescriptorStart k) s = .next t ∧ (setOf t k).phase = .hold ∧
      (setOf t k).queue = b :: rest ∧ bitAt t.setErr 0 = true ∧ bitAt t.cxl.irqStat 18 = true) ∧
    (∀ c, (setOf s k).cfg = some c → countOk c b = false → ∃ t, exec (.setDescriptorStart k) s = .next t ∧
      (setOf t k).phase = .hold ∧ bitAt t.setErr 1 = true ∧ bitAt t.cxl.irqStat 18 = true ∧
      (setOf t k).attempt = nextAttempt (setOf s k).attempt ∧ t.hbm = s.hbm ∧ t.sram = s.sram) ∧
    (∀ c, (setOf s k).cfg = some c → countOk c b = true → b.op = .broadcast → c.n ≤ b.arg → ∃ t,
      exec (.setDescriptorStart k) s = .next t ∧ (setOf t k).phase = .hold ∧ bitAt t.setErr 2 = true) ∧
    (∀ c, (setOf s k).cfg = some c → b.op = .barrier → (setOf s k).early = [] → ∃ t,
      exec (.setDescriptorStart k) s = .next t ∧ (setOf t k).phase = .run ∧ (setOf t k).run = some (runOf b) ∧
      (setOf t k).queue = rest ∧ t.hbm = s.hbm ∧ t.sram = s.sram ∧ ∀ j, j ≠ k.val → setOf t j = setOf s j)

/-- A chunk, a window credit or a NACK for another member goes on toward it; one of another attempt is counted STALE; a chunk ahead
of its descriptor is kept with its window slot; a credit is added to its window; a chunk a NACK asks for is sent again, at most four
times; a broadcast chunk of a Quadrille is stored where its number says and its window goes back. (Retention slots of 16 KiB, CHUNK 0
in the WCRED of a neighbour's credit, and the fixed route of a copy are the model's, notes/assumptions/25.md, 26.md and 67.md.) -/
def Sys2Proof.ChunkMessages : Prop :=
  (∀ (s u : State) (n : Fin 12) (v : Fin 8) (m : SetMsg) (k : Nat) (c : SetCfg), clocksRun s.dev = true → (setOf s k).cfg = some c →
    takeKind s n v .chunk = some (m, some k, u) →
    (m.dest ≠ c.ord → exec (.chunkReceive n v) s = .next (sendOn u (linkTo u c m.dest m.chunk) v m)) ∧
    (m.dest = c.ord → freshChunk (setOf s k) m = false → exec (.chunkReceive n v) s =
      .next (setSet u k { setOf s k with stale := satInc 0xFFFF (setOf s k).stale })) ∧
    (m.dest = c.ord → freshChunk (setOf s k) m = true → (setOf s k).run = none → exec (.chunkReceive n v) s =
      .next (setSet u k { setOf s k with window := (setOf s k).window + 1, alloc := ((setOf s k).alloc + 1) % 65536,
                                         early := (setOf s k).early ++ [(n.val, m)] })) ∧
    (∀ r, m.dest = c.ord → freshChunk (setOf s k) m = true → (setOf s k).run = some r → m.dseq = (setOf s k).dseq → c.quad = true →
      r.body.op = .broadcast → r.body.dstSram = true → codeLtc c.code = false → crc32c m.payload = m.cchk →
      m.payload.length = 4096 → r.toSend = [] → (setOf s k).early = [] → ∃ t, exec (.chunkReceive n v) s = .next t ∧
        t.sram = memWrite s.sram (r.body.dst + 4096 * m.chunk) m.payload ∧ (setOf t k).window = (setOf s k).window ∧
        (setOf t k).run = some { r with coded := Tbl.set r.coded m.chunk (m.payload, m.cchk),
                                        stored := r.stored ++ [m.chunk] })) ∧
  (∀ (s u : State) (n : Fin 12) (v : Fin 8) (m : SetMsg) (k : Nat) (c : SetCfg), clocksRun s.dev = true → (setOf s k).cfg = some c →
    takeKind s n v .wcred = some (m, some k, u) → m.dest = c.ord → fresh (setOf s k) m = true → (setOf s k).run = none →
    s.gilLoose = false → c.quad = true → m.chunk % 2 = 0 → exec (.wcredReceive n v) s = .next (setSet u k { setOf s k with
      wcred := Tbl.set (setOf s k).wcred m.from_ (min c.win (creditOf (setOf s k) c m.from_ + 1)) })) ∧
  (∀ (s u : State) (n : Fin 12) (v : Fin 8) (m : SetMsg) (k : Nat) (c : SetCfg) (r : Retained), clocksRun s.dev = true →
    (setOf s k).cfg = some c → takeKind s n v .nack = some (m, some k, u) → m.dest = c.ord → fresh (setOf s k) m = true →
    (setOf s k).frozen = false → (setOf s k).retained = [r] → r.msg.chunk = m.chunk → r.msg.dseq = m.dseq → r.msg.dest = m.from_ →
    crc32c r.msg.payload = r.msg.cchk →
    (r.resent < 4 → r.ltc = false → exec (.nackReceive n v) s = .next (sendOn (setSet u k
      { setOf s k with retained := [{ r with resent := r.resent + 1 }] }) (linkTo u c r.msg.dest r.msg.chunk) c.vc r.msg)) ∧
    (4 ≤ r.resent → (setOf s k).phase = .run → ∃ t, exec (.nackReceive n v) s = .next t ∧
      (setOf t k).attempt = nextAttempt (setOf s k).attempt ∧ (setOf t k).retained = [] ∧
      (setOf t k).phase = (if (setOf s k).redos < c.retry then .run else .hold)))

/-- A set's descriptor from its start, and the messages of its chunks.
(The parts name notes/assumptions/25.md, 26.md, 67.md too.) -/
def Obligations.SetDescriptors : Prop := DescriptorStart ∧ ChunkMessages

/-- The vote: a member whose part is complete enters it with its own bit; a veto of a COMMIT, and a vote flagged by another member,
decide ABORT at once and hold the set; a full mask decides COMMIT on a Quadrille and in the last stage of a Reel: the work's posts are
made, and a COMMIT descriptor tells the update units of PARTS, advances the attempt and leaves its own post to their commit records;
an ABORT message of an attempt decides it once. (That a flagged vote goes on at once, and that a veto stands for its step through an
abort, are the model's, notes/assumptions/24.md and 65.md.) -/
def Sys2Proof.SetVote : Prop :=
  (∀ (s : State) (k : Fin 64) (c : SetCfg) (r : SetRun), clocksRun s.dev = true → (setOf s k).cfg = some c →
    (setOf s k).run = some r → (setOf s k).phase = .run → (setOf s k).frozen = false → runComplete c r = true →
    ((setOf s k).round = true → r.body.op = .commit) → (r.body.op = .commit → unitsApplied s k c = true ∧ (c.parts = 0 ∨ censusOpen s (stepOf s k c) = false)) →
    let veto := r.body.op = .commit ∧ (setOf s k).vetoes.contains (stepOf s k c) = true
    (¬ veto → (setOf s k).early = [] → ∃ t, exec (.voteEnter k) s = .next t ∧ (setOf t k).phase = .vote ∧
      (setOf t k).mask = BitVec.ofNat 64 (2 ^ c.ord) ∧ (setOf t k).run = some r ∧ t.hbm = s.hbm ∧ t.sram = s.sram) ∧
    (veto → ∃ t, exec (.voteEnter k) s = .next t ∧ (setOf t k).phase = .hold ∧ (setOf t k).run = none ∧
      (setOf t k).attempt = nextAttempt (setOf s k).attempt ∧ bitAt t.cxl.irqStat 18 = true ∧
      (setOf t k).queue = (setOf s k).done ++ r.body :: (setOf s k).queue)) ∧
  (∀ (s u : State) (n : Fin 12) (v : Fin 8) (m : SetMsg) (k : Nat) (c : SetCfg), clocksRun s.dev = true → (setOf s k).cfg = some c →
    takeKind s n v .vote = some (m, some k, u) → fresh (setOf s k) m = true →
    (m.flags % 2 = 1 ∨ m.flags / 16 % 2 = 1 → ∃ t, exec (.voteReceive n v) s = .next t ∧ (setOf t k).phase = .hold ∧
      (setOf t k).attempt = nextAttempt (setOf s k).attempt ∧ bitAt t.cxl.irqStat 18 = true) ∧
    (m.flags % 2 = 0 → m.flags / 16 % 2 = 0 → (setOf s k).phase = .run → exec (.voteReceive n v) s =
      .next (setSet u k { setOf s k with early := (setOf s k).early ++ [(n.val, m)] })) ∧
    (m.flags % 2 = 0 → m.flags / 16 % 2 = 0 → (setOf s k).phase = .vote ∨ (setOf s k).phase = .doubt → (setOf s k).early = [] →
      (setOf s k).mask ||| BitVec.ofNat 64 (natAt m.payload 0 8) = fullMask c →
      (c.quad = true ∨ ∃ ax, (axes c)[(setOf s k).voteStage]? = some ax ∧ n.val % 6 / 2 = ax ∧
        extOf c ax ≤ (setOf s k).voteGot + 2 ∧ (axes c)[(setOf s k).voteStage + 1]? = none) →
      ∀ r, (setOf s k).run = some r →
        let bodies := (setOf s k).done ++ [r.body]
        let parts := if r.body.op == .commit then (List.range 8).filter (fun p => c.parts.testBit p) else []
        let waits (b : SetBody) : Bool := b.op == .commit && !parts.isEmpty
        ∃ t, exec (.voteReceive n v) s = .next t ∧
        (setOf t k).phase = .idle ∧ (setOf t k).run = none ∧ (setOf t k).done = [] ∧
        (setOf t k).dseq = ((setOf s k).dseq + 1) % 2 ^ 32 ∧
        (setOf t k).attempt = (if r.body.op = .commit then nextAttempt (setOf s k).attempt else (setOf s k).attempt) ∧
        t.tok.flight = s.tok.flight ++
          (bodies.filter (fun b => b.post && !waits b)).map (fun b => ⟨.setQueue k, c.fill, b.token, 0⟩) ∧
        (setOf t k).commitWait = (setOf s k).commitWait ++
          (bodies.filter (fun b => b.post && waits b)).map (fun b => (b.token, parts)) ∧
        ∀ p, parts.contains p = true → partActive s p = true →
          (usetOf (updOf t p) k).events = (usetOf (updOf s p) k).events ++ [true])) ∧
  (∀ (s u : State) (n : Fin 12) (v : Fin 8) (m : SetMsg) (k : Nat) (c : SetCfg), clocksRun s.dev = true → (setOf s k).cfg = some c →
    takeKind s n v .abort = some (m, some k, u) →
    ((setOf s k).aborted = some m.attempt → m.attempt ≠ (setOf s k).attempt → exec (.abortReceive n v) s = .next u) ∧
    (fresh (setOf s k) m = true → ∃ t, exec (.abortReceive n v) s = .next t ∧
      (setOf t k).attempt = nextAttempt (setOf s k).attempt ∧ (setOf t k).run = none ∧ (setOf t k).aborted = some m.attempt ∧
      ((setOf t k).phase = .run ∨ (setOf t k).phase = .hold)))

/-- A member that waits too long aborts before the vote and is in DOUBT in it; a freezing set stops at its step boundary. -/
def Sys2Proof.SetTimeoutAndFreeze : Prop :=
  (∀ (s : State) (k : Fin 64) (c : SetCfg), clocksRun s.dev = true → (setOf s k).cfg = some c →
    (c.vc = 6 → s.pwr.cfg.vc6p = false) →
    ((setOf s k).phase = .vote → ∃ t, exec (.hopTimeout k) s = .next t ∧ setOf t k = { setOf s k with phase := .doubt } ∧
      bitAt t.cxl.irqStat 18 = true) ∧
    (∀ r, (setOf s k).phase = .run → (setOf s k).run = some r → runComplete c r = false → ∃ t,
      exec (.hopTimeout k) s = .next t ∧ (setOf t k).attempt = nextAttempt (setOf s k).attempt ∧ (setOf t k).run = none ∧
      (setOf t k).phase = (if (setOf s k).redos < c.retry then .run else .hold))) ∧
  (∀ (s : State) (k : Fin 64), clocksRun s.dev = true → (setOf s k).freezing = true →
    (∀ c r, (setOf s k).cfg = some c → (setOf s k).run = some r → (setOf s k).phase = .run →
      atBoundary c r (runComplete c r) = true) →
    exec (.freezeBoundary k) s = .next (setSet s k { setOf s k with freezing := false, frozen := true })) ∧
  (∀ (s : State) (k : Fin 64) (c : SetCfg) (r : SetRun), clocksRun s.dev = true → (setOf s k).cfg = some c →
    (setOf s k).run = some r → (setOf s k).phase = .run → atBoundary c r (runComplete c r) = false →
    exec (.freezeBoundary k) s = .next s)

/-- A set's vote, its timeout and its freeze.
(The parts name notes/assumptions/24.md, 65.md too.) -/
def Obligations.SetVotesAndStops : Prop := SetVote ∧ SetTimeoutAndFreeze

/-! ### The far exchange -/

/-- A round: SELECT starts when every partition of the set stands at step kH; a fenced partition voids it; its selection opens it;
it closes when its time and its quorum say so; its apply ends it with the token, or a bad tile stops it CLOSED. A late joiner whose
anchor is whole takes part from the next round. (That the tests which void a selection run before its writes, that a partition's apply
is one write, and that the joined anchor stands after the donor's round are the model's, notes/assumptions/47.md; where the hold of a
round acts, notes/assumptions/37.md.) -/
def Sys2Proof.FarRounds : Prop :=
  ∀ (s : State) (c : FarCfg), clocksRun s.dev = true → s.far.cfg = some c →
    (s.far.en = true → s.far.phase = .none → c.h ≠ 0 → farAtStep s c (farStep s c) = true → farStep s c % c.h = 0 →
      s.far.k ≤ farStep s c / c.h → (farStep s c == s.far.enStep) = false → ∃ t, exec .farSelect s = .next t ∧ t.far.phase = .select ∧ t.far.k = farStep s c / c.h ∧
        t.far.tsnap = s.pwr.tick.toNat ∧ t.far.void = false ∧ t.far.partners = s.far.partners ∧ t.hbm = s.hbm) ∧
    (s.far.phase = .select → (farParts s c).all (partActive s) = false → ∃ t, exec .farSelectComplete s = .next t ∧
      t.far.phase = .none ∧ t.far.void = true ∧ t.far.k = s.far.k + 1 ∧ bitAt t.far.err 2 = true ∧
      bitAt t.cxl.irqStat 19 = true ∧ t.hbm = s.hbm) ∧
    (∀ cs, s.far.phase = .select → (farParts s c).all (partActive s) = true → s.cxl.track = [] →
      selChunks s (farChunks s) = .ok cs → cs.any (fun x => x.ds.any (fun d => !valIsFinite d.1)) = false →
      ∃ t, exec .farSelectComplete s = .next t ∧ (t.far.phase = .opened ∨ t.far.phase = .closed) ∧ t.far.k = s.far.k ∧
        t.far.sel.take 8 = natBytes 4 s.far.k ++ natBytes 4 (s.far.k * c.h)) ∧
    (closeDue s c = true → s.cxl.track = [] → ∃ t, exec .farDeadline s = .next t ∧ t.far.phase = .closed ∧
      t.far.next = s.far.k + 1 ∧ t.far.forced = false ∧ t.far.k = s.far.k) ∧
    (farAtStep s c (s.far.k * c.h + c.lag) = true → s.far.phase = .closed → s.far.stopped = false → s.cxl.track = [] →
      (farParts s c).all (partActive s) = true → ∃ t, exec .farApply s = .next t ∧
        ((t.far.phase = .none ∧ t.far.k = s.far.k + 1 ∧ bitAt t.cxl.irqStat 19 = true ∧
          t.tok.flight = s.tok.flight ++ [⟨.farx, false, c.token, 0⟩]) ∨ (t.far.phase = .closed ∧ t.far.stopped = true))) ∧
    (∀ j, s.far.join = some j → s.far.phase = .joining → j.failed = true → ∃ t, exec .farJoinComplete s = .next t ∧
      t.far.phase = .none ∧ t.far.join = none ∧ bitAt t.far.err 3 = true ∧ t.far.k = s.far.k) ∧
    (∀ j r, s.far.join = some j → s.far.phase = .joining → j.failed = false → s.cxl.track = [] →
      (partnerOf s j.entry).recvs.find? (fun r => r.bulk && r.round == j.round) = some r → recvDone r = true →
      ∃ t, exec .farJoinComplete s = .next t ∧ t.far.phase = .none ∧ t.far.join = none ∧ t.far.k = j.round + 1 ∧
        t.far.next = j.round + 1 ∧ t.far.fpar = [] ∧ t.tok.flight = s.tok.flight ++ [⟨.farx, false, c.token, 0⟩])

/-- A frame of type `t` at an up port passes the three tests of R328: it is partner `e`'s, its body is `body`, and `u` is the state
with its sequence number noted. -/
structure Sys2Proof.Opens (s u : State) (port : Fin 2) (f : Frame) (t e : Nat) (body : List Byte) : Prop where
  clocks : clocksRun s.dev = true
  up : (portOf s port).up = true
  type : frameType f = t
  opens : openFrame s f = (u, some (e, body))

/-- What the frames of an ACTIVE partner do. (The layout of a SACK's body, the slot a contribution takes in the receive buffer, the
rules of sending under the bucket and a joiner's and a donor's corner cases are the model's, notes/assumptions/34.md, 36.md, 48.md,
68.md and 47.md.) -/
def Sys2Proof.ChotinFrames : Prop :=
  ∀ (s u : State) (port : Fin 2) (f : Frame) (e : Nat) (body : List Byte) (c : FarCfg), s.far.cfg = some c →
    (Opens s u port f 8 e body → (partnerOf u e).st = .active → exec (.chotinHello port f) s = .next u) ∧
    (Opens s u port f 8 e body → (partnerOf u e).st = .joining ∨ (partnerOf u e).st = .silent → ∃ t,
      exec (.chotinHello port f) s = .next t ∧ (partnerOf t e).st = .active) ∧
    ((partnerOf u e).st = .active →
      (Opens s u port f 1 e body → s.cxl.track = [] → ∀ r, recvOf u e false (natAt f.header 12 4) = some r → r.closed = false →
        ageOk c (ageOf u (natAt f.header 12 4)) = true → natAt f.header 28 4 = r.total → r.total ≤ c.budget → 16 ≤ r.total →
        natAt f.header 24 4 ∉ r.got →
        tilesOf u (recvBase c e (natAt f.header 12 4) + 8192 * natAt f.header 24 4) body.length ≠ [] →
        ∃ t, exec (.chotinData port f) s = .next t ∧ ∃ r' ∈ (partnerOf t e).recvs, r'.bulk = false ∧
          r'.round = natAt f.header 12 4 ∧ natAt f.header 24 4 ∈ r'.got) ∧
      (Opens s u port f 2 e body → ∀ x, ((partnerOf u e).sends.filter (fun x => x.round == natAt body 0 4)).head? = some x →
        natAt body 9 1 = 1 → ∃ t, exec (.chotinSack port f) s = .next t ∧
          ∀ y ∈ (partnerOf t e).sends, ¬(y.bulk = x.bulk ∧ y.round = x.round)) ∧
      (Opens s u port f 3 e body → exec (.chotinProbe port f) s = .next (sendFrame u e { bareFrame typeReply with
        body := natBytes 8 (natAt f.header 32 8) ++ (natBytes 8 s.pwr.tick.toNat ++ natBytes 8 s.pwr.tick.toNat) })) ∧
      (Opens s u port f 4 e body → (partnerOf u e).samples = [] → (partnerOf u e).timed = false →
        (partnerOf u e).holdover = false → ∃ t, exec (.chotinProbeReply port f) s = .next t ∧ (partnerOf t e).timed = true ∧
          (partnerOf t e).delta = ((s.pwr.tick.toNat : Int) - natAt body 0 8) - ((natAt body 16 8 : Int) - natAt body 8 8) ∧
          (partnerOf t e).theta =
            (((natAt body 8 8 : Int) - natAt body 0 8) - ((natAt body 16 8 : Int) - (s.pwr.tick.toNat : Int))) / 2) ∧
      (Opens s u port f 5 e body → s.cxl.track = [] → (farGroups u).all (fun x => partActive u x.p) = true → ∀ bs, anchorImage u (pinCopy u c).1 (farChunks u) = .ok bs →
        (bs = [] → exec (.chotinJoinReq port f) s = .next (sendFrame u e { bareFrame typeBulkEnd with round := (pinCopy u c).2 })) ∧
        (bs ≠ [] → ∃ t, exec (.chotinJoinReq port f) s = .next t ∧ t.far.pinned = some (pinCopy u c))) ∧
      (Opens s u port f 6 e body → ∀ j, u.far.join = some j → j.entry = e → u.far.phase = .joining →
        (natAt f.header 28 4 ≠ imageBytes u → exec (.chotinBulk port f) s = .next (badFrame u)) ∧
        (natAt f.header 28 4 = imageBytes u → ∃ t, exec (.chotinBulk port f) s = .next t ∧
          t.far.join = some { j with round := natAt f.header 12 4, total := natAt f.header 28 4 })) ∧
      (Opens s u port f 7 e body → ∀ j, u.far.join = some j → j.entry = e →
        (natAt f.header 1 1 / 2 % 2 = 0 → exec (.chotinBulkEnd port f) s = .next u) ∧
        (natAt f.header 1 1 / 2 % 2 = 1 → j.repeats < 3 → ∃ t, exec (.chotinBulkEnd port f) s = .next t ∧
          t.far.join = some { j with repeats := j.repeats + 1, round := 0, total := 0 }) ∧
        (natAt f.header 1 1 / 2 % 2 = 1 → 3 ≤ j.repeats → ∃ t, exec (.chotinBulkEnd port f) s = .next t ∧
          t.far.join = some { j with failed := true })) ∧
      (Opens s u port f 9 e body → ∃ t, exec (.chotinLeave port f) s = .next t ∧ (partnerOf t e).st = .left ∧
        (partnerOf t e).sends = [] ∧ (partnerOf t e).recvs = []))

/-- A frame that is no partner's or breaks the header's rules is counted BADFRM, one of an epoch without a key NOKEY, one whose tag
fails TAGFAIL, one seen before REPLAY; none has any other effect, but that the last, authenticated under a CUR epoch just switched
to, begins its overlap. -/
def Sys2Proof.ChotinRefusals : Prop :=
  ∀ (s : State) (port : Fin 2) (f : Frame), clocksRun s.dev = true → (portOf s port).up = true →
    (frameSender s f = none → exec (.chotinReservedFrame port f) s =
      .next { s with far := { s.far with badfrm := satInc 0xFF s.far.badfrm } }) ∧
    ∀ e, frameSender s f = some e → frameType f = 1 →
      let key := (partnerOf s e).epochs.find? (fun k => k.num == natAt f.header 8 2)
      (key = none → exec (.chotinData port f) s = .next { s with cip := { s.cip with nokey := satInc 0x3FF s.cip.nokey } }) ∧
      ∀ k, key = some k →
        (gcmOpen k.key (frameIv f.header) f.header f.body f.tag = none →
          exec (.chotinData port f) s = .next { s with cip := { s.cip with tagfail := satInc 0xFFF s.cip.tagfail } }) ∧
        (∀ bs, gcmOpen k.key (frameIv f.header) f.header f.body f.tag = some bs →
          natAt f.header 16 8 ∈ (partnerOf s e).seen ∨ natAt f.header 16 8 + 4096 ≤ (partnerOf s e).high →
          ∃ t, exec (.chotinData port f) s = .next t ∧ t.cip = { s.cip with replay := satInc 0x3FF s.cip.replay } ∧ t.hbm = s.hbm ∧
            (partnerOf t e).recvs = (partnerOf s e).recvs ∧ (partnerOf t e).seen = (partnerOf s e).seen ∧
            (partnerOf t e).high = (partnerOf s e).high ∧
            ((partnerOf s e).switched = true → k.st = .cur → (partnerOf t e).switched = false ∧ (partnerOf t e).overlap.isSome = true))

/-- The frames of the far exchange, those taken and those refused.
(The parts name notes/assumptions/34.md, 36.md, 47.md, 48.md, 68.md too.) -/
def Obligations.ChotinProtocol : Prop := ChotinFrames ∧ ChotinRefusals

/-- The timers and the far ports. (The port's own IPv6 address and the form of its answers are the model's, notes/assumptions/35.md;
when a segment's RTO acts, notes/assumptions/48.md; that a HELLO gives way to a segment, notes/assumptions/68.md.) -/
def Sys2Proof.FarTimersAndPorts : Prop :=
  ∀ s : State, clocksRun s.dev = true →
    (∀ e, ∃ t, exec (.sackTimer e) s = .next t ∧ (∀ r ∈ (partnerOf t e).recvs, r.unacked = 0) ∧ t.hbm = s.hbm) ∧
    (∀ e k x, (partnerOf s e).sends.find? (fun x => selLive s x && x.segs.any (fun g => g.seg == k && rtoPassed s (partnerOf s e) g)) =
      some x → ∃ t,
      exec (.rtoExpiry e k) s = .next t ∧ (partnerOf t e).rto = min 25600000000 (2 * (partnerOf s e).rto) ∧ t.hbm = s.hbm) ∧
    (∀ e p, activePartners s = [(e, p)] → exec .probeTimer s = .next (sendFrame s e (bareFrame typeProbe))) ∧
    (∀ e, (partnerOf s e).st ≠ .left →
      ((nextSeg s (partnerOf s e)).isSome = true → exec (.helloTimer e) s = .next s) ∧
      (nextSeg s (partnerOf s e) = none → exec (.helloTimer e) s = .next (farPump (setPartner s e { partnerOf s e with hello := true })))) ∧
    (∀ e, (partnerOf s e).st = .joining ∨ (partnerOf s e).st = .active → ∃ t, exec (.silenceTimeout e) s = .next t ∧
      (partnerOf t e).st = .silent) ∧
    (∀ e n, (partnerOf s e).overlap = some n → n ≤ s.pwr.tick.toNat → ∃ t, exec (.epochOverlapEnd e) s = .next t ∧
      (partnerOf t e).overlap = none ∧ ∀ k ∈ (partnerOf t e).epochs, k.st ≠ .old) ∧
    ∀ n : Fin 2,
      (∃ t, exec (.farPortUp n) s = .next t ∧ (portOf t n).up = true) ∧
      (∃ t, exec (.farPortDown n) s = .next t ∧ (portOf t n).up = false ∧ (portOf t n).drop = (portOf s n).drop) ∧
      ((portOf s n).up = true →
        (∃ t, exec (.pauseFrame n) s = .next t ∧ (portOf t n).drop = satInc 0xFFFF (portOf s n).drop ∧ t.far.partners = s.far.partners) ∧
        (∃ t, exec (.farPortDiscard n) s = .next t ∧ (portOf t n).drop = satInc 0xFFFF (portOf s n).drop) ∧
        (∃ p, exec (.neighborSolicitation n (Config.farAddr n)) s = .next { s with out := .packet n p :: s.out }) ∧
        (∀ d, exec (.echoRequest n (Config.farAddr n) d) s =
          .next { s with out := .packet n ([129#8, 0#8] ++ natBytes 2 0 ++ d) :: s.out }) ∧
        ∀ a d, a ≠ Config.farAddr n → exec (.neighborSolicitation n a) s = .next s ∧ exec (.echoRequest n a d) s = .next s)

/-- The rounds of the far exchange, its timers and ports.
(The parts name notes/assumptions/35.md, 37.md, 47.md, 48.md, 68.md too.) -/
def Obligations.FarExchangeAtWork : Prop := FarRounds ∧ FarTimersAndPorts

/-- A rising edge of `PPS_IN` latches the tick it is placed at and counts itself; one closer than 100 ms, 640,000,000 ticks, to the
previous one is counted in FAST as well. Nothing else moves. -/
def Obligations.PpsEdge : Prop :=
  ∀ (s : State) (sub : Fin 64), regsUp s = true →
    let now := s.pwr.tick + BitVec.ofNat 64 (if s.pwr.refclk then sub else 0)
    ∃ t, exec (.ppsEdge sub) s = .next t ∧ regRead t .farPpsLo = now.setWidth 32 ∧ regRead t .farPpsHi = (now >>> 32).setWidth 32 ∧
      bits (regRead t .farPpsCnt) 15 0 = (s.far.edges + 1) % 65536 ∧ t.far.fast =
        (if s.far.ppsSeen = true ∧ (now - s.far.ppsTick).toNat < 640000000 then satInc 0xFFFF s.far.fast else s.far.fast) ∧
      t = { s with far := t.far } ∧ t.far = { s.far with
        ppsTick := t.far.ppsTick, ppsSeen := true, edges := t.far.edges, fast := t.far.fast }

/-! ### The cipher engine and the Bindery at work -/

/-- The lock and the messages of the cipher engine: a free engine goes to the waiting host; a command that waits too long returns
LOCKED; a lock held idle too long is revoked; a message ends with its status in its owner's bank, and one whose tag fails leaves no
tile of DST that verifies. (That a message's output is placed when it is done, and which waiter a timeout ends, are the model's,
notes/assumptions/32.md; the algorithms are the standards', notes/assumptions/30.md.) -/
def Sys2Proof.CipherLockAndMessages : Prop :=
  ∀ s : State, clocksRun s.dev = true →
    (s.cip.owner = none → s.cip.running = none → s.cip.wait = [.host] → exec .cipLockGrant s =
      .next { s with cip := { s.cip with owner := some .host, wait := [] } }) ∧
    (∀ p, s.rst.mpDown = false → s.jante.pend.find? (waitsLock s) = some p → ∃ t, exec .cipLockWaitTimeout s = .next t ∧
      t.jante.pend = s.jante.pend.eraseP (waitsLock s) ∧ (p.req.src < 16 → bits (mailboxOf t p.req.src).status 23 16 =
        statusCode .locked)) ∧
    (s.cip.owner.isSome = true → s.cip.running = none → s.cip.save0 = none → s.cip.save1 = none → ∃ t,
      exec .cipLockIdleRevoke s = .next t ∧ t.cip.owner = none ∧ t.cip.err = setBit s.cip.err 1 ∧
      bitAt t.cxl.irqStat 20 = true ∧ t.cip.slots = s.cip.slots) ∧
    (∀ m, s.cip.running = some m → s.gilLoose = m.loose → m.owner = .host → m.todo = [] → m.slow = [] → m.failed = false → m.fenced = false →
      (msgRanges m).all (fun r => cipRange s r.1 r.2 == .good) = true → m.done = none → s.cxl.track = [] → msgPoison s m = none →
      slowPieces s m.dst m.len = [] → slowPieces s m.tag 16 = [] →
      let text := cipBytes s m m.src m.len
      let key := aesKeys (((Tbl.get? s.cip.slots m.slot).map (·.key)).getD [])
      let status (t : State) : Nat := bits (bankDw t .host 0) 15 0
      (m.decrypt = false → ∃ t, exec .cipMessageDone s = .next t ∧ t.cip.running = none ∧ bitAt (bankDw t .host 0) 30 = true ∧
        status t = statusCode .ok ∧ t.cip.owner = s.cip.owner) ∧
      (m.decrypt = true → cipBytes s m m.tag 16 = gcmTag key m.iv (cipBytes s m m.aad m.aadlen) text →
        ∃ t, exec .cipMessageDone s = .next t ∧ t.cip.running = none ∧ status t = statusCode .ok) ∧
      (m.decrypt = true → cipBytes s m m.tag 16 ≠ gcmTag key m.iv (cipBytes s m m.aad m.aadlen) text →
        ∃ t, exec .cipMessageDone s = .next t ∧ t.cip.running = none ∧ status t = statusCode .authFail ∧
          ∀ h ∈ tilesOf s m.dst m.len, tileOk t h = false))

/-- The cipher engine's lock and its messages.
(The parts name notes/assumptions/30.md, 32.md too.) -/
def Obligations.CipherEngineAtWork : Prop := CipherLockWrites ∧ CipherLockAndMessages

/-- A job of the Bindery: a free lane takes the next clip once its buffers are claimed, fills its frame store, and gives it up done or failed; a header read
with FILLED zero claims the next buffer and one not zero waits; a header is written once its rows are; a handoff loads the span
register and posts; after the last the job is over. (The order of claiming, the frame store written whole at the clip's start, and
what a stream is are the model's, notes/assumptions/51.md and 7.md.) -/
def Obligations.BinderyJob : Prop :=
  ∀ (s : State) (r : BndRun), clocksRun s.dev = true → s.bnd.run = some r →
    (r.stopping = false → s.cxl.track = [] →
      (∀ (d : Fin 32) (q : Nat), Tbl.get? s.bnd.lanes d = none → partActive s (lanePart d) = true → nextClip s r = some q →
        (clipPlaces s r q).all (fun x => decide (x.1 < r.claimed)) = true →
        let c := clipOf (entryAt r q)
        let store := storeBytes s c (devRead s c.es c.len)
        ∃ t, exec (.clipStart d) s = .next t ∧ t.bnd = { s.bnd with
          run := some { r with clips := Tbl.set r.clips q .running, stores := Tbl.set r.stores d store.length },
          lanes := Tbl.set s.bnd.lanes d q } ∧ (store = [] → t.hbm = s.hbm)) ∧
      (∀ (d : Fin 32) (q : Nat), Tbl.get? s.bnd.lanes d = some q →
        let c := clipOf (entryAt r q)
        let used := usedBytes c (devRead s c.es c.len)
        clipInside s r d (clipPlaces s r q) = true → devFault s c.es used = none → ∃ t u, exec (.clipDecodeDone d) s = .next t ∧
          t.bnd.run = some u ∧ t.bnd.lanes = Tbl.del s.bnd.lanes d ∧ clipOver (clipState u q) = true ∧
          (clipDecodes s c ((devRead s c.es c.len).take used) = false →
            clipFailed (clipState u q) = true ∧ t.bnd.cntFail = satInc 0xFFFF s.bnd.cntFail)) ∧
      (∀ (j : Fin 16) (bs : List Byte), j.val < r.job.nbuf → devFault s (bufAt r.job j) 4096 = none →
        updRead s (bufAt r.job j) 4096 = .ok bs →
        (natAt bs 0 4 ≠ 0 → exec (.bufferHeaderPoll j) s = .next (meterVerify s none 2 (bufAt r.job j) 4096)) ∧
        (natAt bs 0 4 = 0 → r.claimed % r.job.nbuf = j → r.claimed < (piecesOf s r).length → r.claimed < r.handed + r.job.nbuf →
          ∃ t u, exec (.bufferHeaderPoll j) s = .next t ∧ t.bnd.run = some u ∧ u.claimed = r.claimed + 1 ∧ u.handed = r.handed)) ∧
      (∀ (g : Nat) (p : Piece), (piecesOf s r).find? (fun p => p.g == g) = some p → g < r.claimed → r.written.contains g = false →
        pieceReady s r p = true → devFault s (bufAt r.job g) 4096 = none → ∃ t, exec (.pieceHeaderWrite g) s = .next t ∧
          t.bnd.run = some { r with written := r.written ++ [g] }) ∧
      (∀ p, (piecesOf s r).find? (fun p => p.g == r.handed) = some p → r.written.contains p.g = true →
        (r.handed ≠ 0 → r.released = true) → unitHeld s .bindery = false → ∃ t, exec .pieceHandoff s = .next t ∧
          t.bnd.run = some { r with handed := r.handed + 1, released := false } ∧
          (Tbl.get 0#32 t.cal.span r.job.sreg).toNat = p.prows % 2 ^ 17 ∧
          t.tok.flight = s.tok.flight ++ [⟨.bindery, false, r.job.token, 0⟩] ∧
          (r.job.loadLoop = true → p.idx = 0 → loopOf t false r.job.lreg = BitVec.ofNat 32 (p.count - 1))) ∧
      (r.mbs = r.job.nmb → r.handed = (piecesOf s r).length → s.bnd.queue = [] → ∃ t, exec .jobComplete s = .next t ∧
        t.bnd.run = none ∧ t.bnd.lanes = [] ∧ bitAt t.cxl.irqStat 21 = true)) ∧
    (r.stopping = true → s.bnd.queue = [] → ∃ t, exec .bndJobStopComplete s = .next t ∧ t.bnd.run = none ∧ t.bnd.lanes = [] ∧
      t.jante.pend = s.jante.pend.eraseP (pendOp 0x0805))

/-! ### Power, resets, start-up -/

/-- The power manager's events: a sample above 1.2 L begins a peak gate; the control step takes a trim above L - 20 W, undoes one below
L - 150 W with a cool junction, and leaves all as it is between; a change of point completes, with its voltage; a gate ends once its
debt is below its duty; the brake forces the floor configuration (POINT 7, DUTY 1, SCALE 16, VC6 paused, links at half) and its release
restores what stood before; a junction at 100 °C raises the alert's interrupt. (The means over the samples there are, the DUTY of 8
counted from a peak to the next control step, and the gate commands' own cycles are the model's, notes/assumptions/31.md. `DEV_RESET_N`
held low keeps the point, so the clauses on the configuration have it high.) -/
def Obligations.PowerEvents : Prop :=
  ∀ s : State, clocksRun s.dev = true →
    (∀ r, ∃ t, exec (.powerSample r) s = .next t ∧ t.pwr.samples = (r :: s.pwr.samples).take 100 ∧
      (12 * limitPeak s < 10 * totalW r → t.pwr.gate = (if s.pwr.gate = .brake then .brake else .peak) ∧ t.pwr.peak = true ∧
        bitAt t.pwr.sticky 20 = true) ∧
      (10 * totalW r ≤ 12 * limitPeak s → t.pwr.gate = s.pwr.gate)) ∧
    (∃ t, exec .controlStep s = .next t ∧ t.pwr.gate = (if s.pwr.gate = .peak then .none else s.pwr.gate) ∧
      (s.pwr.brake = true ∨ s.pwr.unmet = true → t.pwr.cfg = s.pwr.cfg ∧ t.pwr.trims = s.pwr.trims) ∧
      (s.pwr.brake = false → s.pwr.unmet = false → s.devReset = false → 95 ≤ s.pwr.temp ∨ (limitW s : Int) - 20 < s.pwr.mean →
        s.pwr.cfg.point ≠ 0 → (t.pwr.cfg, t.pwr.trims) = trimOnce s.pwr.pavane s.pwr.order (s.pwr.cfg, s.pwr.trims)) ∧
      (s.pwr.brake = false → s.pwr.unmet = false → s.pwr.temp < 95 → (s.pwr.mean : Int) ≤ (limitW s : Int) - 20 →
        (limitW s : Int) - 150 ≤ s.pwr.mean → t.pwr.cfg = s.pwr.cfg ∧ t.pwr.trims = s.pwr.trims) ∧
      (s.pwr.brake = false → s.pwr.unmet = false → s.devReset = false → s.pwr.temp < 95 → s.pwr.hot = false →
        (s.pwr.mean : Int) < (limitW s : Int) - 150 → ∀ k rest, s.pwr.trims = k :: rest →
        t.pwr.cfg = untrim k s.pwr.cfg ∧ t.pwr.trims = rest)) ∧
    (∃ t, exec .operatingPointChangeDone s = .next t ∧ t.pwr.now = s.pwr.cfg.point ∧
      (s.devReset = false → t.pwr.vid = vidCode s.pwr.cfg.point)) ∧
    (∀ n, s.pwr.gate = .duty → ∃ t, exec (.dutyGateEnd n) s = .next t ∧
      t.pwr.debt = s.pwr.debt - (gateDuty s * n : Nat) ∧
      (t.pwr.gate = .none ↔ s.pwr.debt - (gateDuty s * n : Nat) < gateDuty s)) ∧
    (s.pwr.brake = false → ∃ t, exec .pwrBrakeAssert s = .next t ∧ t.pwr.brake = true ∧ t.pwr.gate = .brake ∧
      bitAt t.pwr.sticky 22 = true ∧ bitAt t.cxl.irqStat 22 = true ∧ t.pwr.before = some (unboost s.pwr.cfg, s.pwr.trims) ∧
      (s.devReset = false → orderOk s.pwr.order = true → s.pwr.cfg.point ≤ 7 → 1 ≤ s.pwr.cfg.duty → s.pwr.cfg.duty ≤ 16 →
        ∀ n, n < 16 → s.pwr.cfg.scale = 16 * (n + 1) → t.pwr.cfg = ⟨7, 1, 16, true, true⟩)) ∧
    (s.pwr.brake = true → ∀ x, s.pwr.before = some x → s.pwr.unmet = false → s.devReset = false → ∃ t, exec .pwrBrakeRelease s = .next t ∧
      t.pwr.brake = false ∧ (t.pwr.cfg, t.pwr.trims) = x ∧ t.pwr.before = none) ∧
    (∀ (c : Nat) (k : Fin 20), ∃ t, exec (.thermalThreshold c k) s = .next t ∧ t.pwr.temp = c ∧ t.pwr.sensor = k ∧ t.dev = s.dev ∧
      (100 ≤ c → bitAt t.pwr.sticky 23 = true ∧ bitAt t.cxl.irqStat 22 = true) ∧ (95 ≤ c → t.pwr.hot = true) ∧
      (c < 92 → t.pwr.hot = false))

/-- What stops every clock: the trip, the loss of coolant, of a rail other than a partition's, or of the reference clock. No data of
SRAM is lost, and every fence of a tip-in buffer is complete. A partition's own rail fences that partition alone, in BOOTING too. (That
a lost partition's reset is applied at once is the model's, notes/assumptions/33.md.) -/
def Sys2Proof.ClockStops : Prop :=
  ∀ s : State, clocksRun s.dev = true →
    let halted (t : State) : Prop := t.dev = .halted ∧ t.cal.run = false ∧ t.fill.run = false ∧ t.sram = s.sram ∧
      ∀ p, p < 8 → (tipOf t p).fencing = false
    (∀ (c : Nat) (k : Fin 20), 105 ≤ c → ∃ t, exec (.thermalTrip c k) s = .next t ∧ halted t ∧ t.pwr.thermtrip = true) ∧
    (∃ t, exec .coolantLoss s = .next t ∧ halted t ∧ t.pwr.coolant = false) ∧
    (∀ rail : Fin 15, 8 ≤ rail.val → rail.val < 14 → ∃ t, exec (.powerGoodFall rail) s = .next t ∧ halted t ∧
      bitAt t.pwr.good rail = false ∧ bitAt t.pwr.latch rail = true) ∧
    (∀ rail : Fin 15, rail.val < 8 → pstateOf s rail = .active → ∃ t, exec (.powerGoodFall rail) s = .next t ∧
      pstateOf t rail = .idle ∧ bitAt t.rst.fence (8 + rail.val) = true ∧ t.dev = s.dev) ∧
    (∃ t, exec .refclkInterrupt s = .next t ∧ halted t ∧ t.pwr.refclk = false ∧ bitAt t.pwr.aonStat 2 = true) ∧
    (∃ t, exec .refclkReturn s = .next t ∧ t.pwr.refclk = true ∧ t.dev = s.dev)

/-- The always-on domain: power good brings OFF to STANDBY, its loss brings OFF; the tick comparator wakes a device in STANDBY whose
levels are good and sets TICKWAKE. (What the part keeps without power is the model's, notes/assumptions/39.md.) -/
def Sys2Proof.AlwaysOnDomain : Prop :=
  (∀ (s : State) (lv : Levels), s.dev = .off → ∃ t, exec (.aonPowerGood lv) s = .next t ∧ t.dev = .standby ∧
    t.pwr.coolant = lv.coolant ∧ t.pwr.good = lv.rails ∧ t.pwr.temp = lv.junction ∧ t.sram = [] ∧ t.hbm = [] ∧ t.absent = s.absent) ∧
  (∀ s : State, s.dev ≠ .off → ∃ t, exec .aonPowerLost s = .next t ∧ t.dev = .off ∧ t.sram = [] ∧ t.hbm = [] ∧
    t.pending = s.pending) ∧
  (∀ (s : State) (lv : Levels), s.dev = .standby → bitAt s.pwr.aonStat 31 = true →
    s.pwr.wakeHi.toNat * 2 ^ 32 + s.pwr.wakeLo.toNat ≤ s.pwr.tick.toNat → s.devReset = false → lv.coolant = true →
    lv.rails = 0x3FFF#14 → lv.junction < 105 → s.pwr.refclk = true → ∃ t, exec (.tickCompareWake lv) s = .next t ∧ t.dev = .booting ∧ bitAt t.pwr.aonStat 0 = true ∧
      bitAt t.pwr.aonStat 31 = false)

/-- What stops the clocks, and what the always-on domain does without them.
(What a lost rail and a loss of always-on power leave is the model's choice, notes/assumptions/33.md and 39.md.) -/
def Obligations.ClocksAndAlwaysOn : Prop := ClockStops ∧ AlwaysOnDomain

/-- Fences and partition resets: a fence that was asked for begins, the drain window ends in RESETTING with the tip-in buffer
empty and the parking slots free, the reset leaves the partition's SRAM zero and its registers at their reset values, and an activation
makes it ACTIVE. -/
def Sys2Proof.FencesAndPartitions : Prop :=
  (∀ (s : State) (p : Fin 8) (q : Nat × Nat), clocksRun s.dev = true → s.rst.mpDown = false → partActive s p = true →
    s.rst.req.find? (fun q => q.1 == p.val) = some q → ∃ t, exec (.fenceStart p) s = .next t ∧ pstateOf t p = .fencing ∧
      t.rst.fences = s.rst.fences + 1 ∧ t.rst.fPart = p ∧ t.rst.fCause = q.2 ∧ t.rst.fTick = s.pwr.tick ∧
      (tipOf t p).fencing = true ∧ (∀ m, m < 11 → (moverOf t p m).queue = []) ∧ bitAt t.cxl.irqStat 23 = true) ∧
  (∀ (s : State) (p : Fin 8) (e n : Nat), clocksRun s.dev = true → pstateOf s p = .fencing → s.rst.warm = false → ∃ t,
    exec (.drainWindowEnd p e n) s = .next t ∧ pstateOf t p = .resetting ∧ t.rst.errans = (s.rst.errans + e) % 65536 ∧
      t.rst.discard = (s.rst.discard + n) % 65536 ∧ (tipOf t p).waiting = [] ∧ (updOf t p).parks = []) ∧
  (∀ (s : State) (p : Fin 8), clocksRun s.dev = true → pstateOf s p = .resetting → s.rst.warm = false → ∃ t,
    exec (.partitionResetDone p) s = .next t ∧ pstateOf t p = .idle ∧ (∀ a, sramOfPart p a = true → memGet t.sram a = 0) ∧
      (∀ a, sramOfPart p a = false → memGet t.sram a = memGet s.sram a) ∧ t.hbm = s.hbm ∧
      (∀ e, e / 10 = p.val → engineOf t e = engineReset) ∧ updOf t p = updReset ∧ cmpOf t p = cmpReset ∧
      (∀ q, q < 8 → q ≠ p.val → memOf t q = memOf s q ∧ pstateOf t q = pstateOf s q) ∧ bitAt t.cxl.irqStat 23 = true) ∧
  (∀ (s : State) (p : Fin 8), clocksRun s.dev = true → s.rst.mpDown = false → pstateOf s p = .idle →
    s.jante.pend.any (fun x => pendOp 0x0A02 x && x.obj == .partition p.val) = true →
    (badRecord s p = none → ∃ t, exec (.partitionActivateComplete p) s = .next t ∧ pstateOf t p = .active) ∧
    (∀ a, badRecord s p = some a → ∃ t, exec (.partitionActivateComplete p) s = .next t ∧ pstateOf t p = .idle))

/-- The reset pin and the warm reset: an assertion fences every ACTIVE partition with cause 4 and takes the links and far ports down; a
release restarts the device where coolant, rails, reference clock and trip allow, and otherwise leaves it HALTED with cause POWER. A warm
reset by command fences first, and the start begins as the last drain window ends. (That the command given again stands for the windows'
end, and what a start that may not run leaves, are the model's, notes/assumptions/33.md.) -/
def Sys2Proof.DeviceReset : Prop :=
  (∀ s : State, clocksRun s.dev = true → s.devReset = false → ∃ t, exec .devResetAssert s = .next t ∧ t.devReset = true ∧
    t.rst.warm = true ∧ t.cal.run = false ∧ t.fill.run = false ∧ t.far.port0.up = false ∧ t.far.port1.up = false ∧
    (∀ n, n < 12 → (linkOf t n).state = .down) ∧ ∀ p, p < 8 → pstateOf t p ≠ .active) ∧
  (∀ (s : State) (lv : Levels), s.devReset = true → s.dev ≠ .off → s.dev ≠ .standby →
    (lv.coolant = true → lv.rails = 0x3FFF#14 → lv.junction < 95 → s.pwr.refclk = true → ∃ t,
      exec (.devResetRelease lv) s = .next t ∧ t.dev = .booting ∧ t.devReset = false) ∧
    (lv.coolant = false → ∃ t, exec (.devResetRelease lv) s = .next t ∧ t.dev = .halted ∧ t.sec.cause = 1 ∧ t.rst.warm = false)) ∧
  (∀ s : State, s.rst.warm = true → s.devReset = false → s.dev ≠ .off → s.dev ≠ .standby →
    (s.rst.windows = false → clocksRun s.dev = true → (∃ p, p < 8 ∧ partActive s p = true) → ∃ t, exec .deviceWarmReset s = .next t ∧
      t.dev = s.dev ∧ t.rst.windows = true ∧ t.cal.run = false ∧ ∀ p, p < 8 → pstateOf t p ≠ .active) ∧
    (levelsOk s = true → s.pwr.refclk = true → s.pwr.thermtrip = false → s.pwr.temp < 105 →
      (s.rst.windows = true ∨ clocksRun s.dev = false → ∃ t, exec .deviceWarmReset s = .next t ∧ t.dev = .booting) ∧
      ∀ (p : Fin 8) (e n : Nat), clocksRun s.dev = true → s.rst.windows = true →
        (∀ q, q < 8 → q ≠ p.val → pstateOf s q ≠ .fencing) → ∃ t, exec (.drainWindowEnd p e n) s = .next t ∧ t.dev = .booting))

/-- Fences, partition resets and the device's resets.
(The two steps of a warm reset by command, and what a start that may not run leaves, are the model's, notes/assumptions/33.md.) -/
def Obligations.FencesAndResets : Prop := FencesAndPartitions ∧ DeviceReset

/-- The watchdogs beside the stream's: a bite of the MP's is recorded and takes Jante down with INTERNAL for every command that is not
complete, and the restart brings it up where its slot verifies or halts with MPVERIFY; a bite of the service bus is recorded with its
requester, restarts the arbiter with the MP at the highest rank, and has the requester's own effect. (That commands only rung end too, and
that codes 5 and 6 end the command under examination first, are the model's, notes/assumptions/33.md.) -/
def Obligations.Watchdogs : Prop :=
  (∀ s : State, clocksRun s.dev = true → s.sec.shown = true → s.rst.mpDown = false → ∃ t, exec .mpWatchdogBite s = .next t ∧
    t.rst.mpDown = true ∧ t.rst.kind = 4 ∧ t.rst.bites = s.rst.bites + 1 ∧ t.rst.mpBites = satInc 0xFFFF s.rst.mpBites ∧
    t.jante.pend = [] ∧ t.jante.exam = none ∧ t.jante.rung = [] ∧ t.dev = s.dev ∧ t.engines = s.engines ∧ t.cal.run = s.cal.run ∧
    (∀ i : Fin 16, (s.jante.exam.any (fun r => r.src == i.val) || s.jante.pend.any (fun x => x.req.src == i.val) ||
      s.jante.rung.contains i.val) = true → bits (mailboxOf t i).status 23 16 = statusCode .internal) ∧
    ((s.jante.exam.any (fun r => r.src == 16) || s.jante.pend.any (fun x => x.req.src == 16)) = true → t.jante.sideband = none)) ∧
  (∀ s : State, clocksRun s.dev = true → s.sec.shown = true → s.rst.mpDown = true →
    (slotGood s s.sec.slot = true → ∃ t, exec .janteRestartDone s = .next t ∧ t.rst.mpDown = false ∧ t.dev = s.dev ∧
      t.sec.slot = s.sec.slot ∧ t.sec.next = s.sec.next ∧ t.sec.meas = s.sec.meas ∧ t.folio = s.folio) ∧
    (slotGood s s.sec.slot = false → ∃ t, exec .janteRestartDone s = .next t ∧ t.dev = .halted ∧ t.sec.cause = 7 ∧
      t.sec.meas = s.sec.meas ∧ t.folio = s.folio)) ∧
  (∀ (s : State) (who : Fin 7), clocksRun s.dev = true → ∃ t, exec (.serviceBusWatchdogBite who) s = .next t ∧
    t.rst.kind = 3 ∧ t.rst.detail = who ∧ t.rst.bites = s.rst.bites + 1 ∧ bitAt t.rst.sbwdog 31 = true ∧
    bits t.rst.sbwdog 18 16 = who ∧ bits t.rst.sbwdog 15 0 = satInc 0xFFFF (bits s.rst.sbwdog 15 0) ∧
    t.rst.sbOrder = sbRestart s.rst.sbOrder who ∧ t.rst.sbOrder.head? = some 0 ∧ bitAt t.cxl.irqStat 23 = true ∧
    (who = 0 → s.sec.shown = true → s.rst.mpDown = false → t.rst.mpDown = true ∧ t.jante.pend = [] ∧ t.jante.exam = none) ∧
    (who = 1 → t.cip.owner = none ∧ t.cip.save0 = none ∧ t.cip.save1 = none) ∧
    (who = 2 → s.bnd.run.isSome = true → s.bnd.queue = [] → t.bnd.run = none ∧ t.bnd.lanes = []) ∧
    (who = 3 → t.pwr.cfg = s.pwr.cfg ∧ t.pwr.trims = s.pwr.trims ∧ t.pwr.samples = [] ∧ t.pwr.debt = 0 ∧ t.pwr.brake = s.pwr.brake) ∧
    (who = 4 → t.folio = s.folio) ∧
    (who = 5 → ∀ r, s.jante.exam = some r → r.src < 16 → t.jante.exam = none ∧
      bits (mailboxOf t r.src).status 23 16 = statusCode .internal) ∧
    (who = 6 → ∀ r, s.jante.exam = some r → r.src = 16 → t.jante.exam = none ∧ t.jante.sideband = none))

/-- The stages of a start, each from the one before; what fails halts the device with its cause. (Stage 1 has no event of its own,
notes/assumptions/38.md; the layout of the replay-protected record and what a certificate's extension is called are the model's,
notes/assumptions/53.md; the key derivation to a scalar, notes/assumptions/30.md.) -/
def Obligations.StartStages : Prop :=
  (∀ (s : State) (k : Bool), natAt (slotImage s k) 12 4 < s.sec.floor ∨ slotState s k ≠ .valid → slotGood s k = false) ∧
  ∀ s : State, s.dev = .booting →
    let fails (c : Instr) (k : Nat) : Prop := ∃ t, exec c s = .next t ∧ t.dev = .halted ∧ t.sec.cause = k
    (s.sec.stage = 1 → (∃ t, exec (.bootKeysDerived true) s = .next t ∧ t.sec.stage = 2 ∧ t.dev = .booting ∧
      t.cip.binds = s.cip.binds ∧ t.sec.idKey = ecPub idScalar ∧ t.sec.kaKey = ecPub kaScalar ∧ t.sec.flashKey = partFlashKey) ∧
      fails (.bootKeysDerived false) 3) ∧
    (s.sec.stage = 2 →
      let u := recordLoad s
      (recordSurvives s = true →
        (slotGood u u.sec.next = true → ∃ t, exec (.imageSelect true) s = .next t ∧ t.sec.stage = 3 ∧ t.sec.slot = u.sec.next ∧
          t.sec.fallback = false ∧ t.sec.svn = natAt (slotImage s u.sec.next) 12 4 ∧ t.rst.mpDown = false) ∧
        (slotGood u u.sec.next = false → slotGood u (!u.sec.next) = true → ∃ t, exec (.imageSelect true) s = .next t ∧
          t.sec.stage = 3 ∧ t.sec.slot = !u.sec.next ∧ t.sec.fallback = true) ∧
        (slotGood u u.sec.next = false → slotGood u (!u.sec.next) = false → fails (.imageSelect true) 2)) ∧
      (recordSurvives s = false → fails (.imageSelect true) 6) ∧ fails (.imageSelect false) 6) ∧
    (s.sec.stage = 3 →
      (staticOk s = true → s.sec.idKey = certIdKey → s.sec.kaKey = certKaKey → ∃ t, exec .folioCheck s = .next t ∧
        t.sec.stage = 4 ∧ t.folio.headerUp = true ∧ t.dev = .booting) ∧
      (staticOk s = false → fails .folioCheck 5) ∧
      (staticOk s = true → s.sec.idKey ≠ certIdKey ∨ s.sec.kaKey ≠ certKaKey → fails .folioCheck 4)) ∧
    (s.sec.stage = 4 → ∀ bad : List (Fin 16), ∃ t, exec (.hbmTrained bad) s = .next t ∧ t.sec.stage = 5 ∧
      (∀ k ∈ bad, pstateOf t (k.val / 2) = .absent) ∧ (∀ p, p < 8 → s.pwr.good.getLsbD p = false → pstateOf t p = .absent) ∧
      t.hbm = s.hbm) ∧
    (s.sec.stage = 5 → s.sec.warm = false → ∀ bad : List (Fin 16), ∃ t, exec (.memoryTestDone bad) s = .next t ∧ t.sec.stage = 6 ∧
      t.hbm = [] ∧ t.hbmPoison = [] ∧ ∀ k ∈ bad, pstateOf t (k.val / 2) = .absent) ∧
    (s.sec.stage = 6 ∨ (s.sec.warm = true ∧ s.sec.stage = 5) → (∀ l ∈ s.links, l.2.state ≠ .training) → ∃ t,
      exec .linksTrained s = .next t ∧ t.sec = { s.sec with stage := 7 } ∧ t.links = s.links ∧ t.hbm = s.hbm ∧
      ∀ p, p < 8 → s.pwr.good.getLsbD p = false → pstateOf t p = .absent) ∧
    (s.sec.stage = 7 → ∃ t, exec .dynamicPartSigned s = .next t ∧ t.dev = .ready ∧ t.sec.stage = 8 ∧ t.folio.dynOk = true ∧
      t.sec.floor = max s.sec.floor s.sec.svn ∧ t.sec.counter = s.sec.counter + (if s.sec.floor < s.sec.svn then 1 else 0))

/-- The events that stop a device whose clocks run, or end its start (R392, R399, R412, R413, R417, R439, R456). -/
def Sys2Proof.haltsBy (c : Instr) : Prop :=
  c = .coolantLoss ∨ (∃ d k, c = .thermalTrip d k) ∨ (∃ r, c = .powerGoodFall r) ∨ c = .refclkInterrupt ∨ c = .janteRestartDone ∨
    (∃ b, c = .bootKeysDerived b) ∨ (∃ b, c = .imageSelect b) ∨ c = .folioCheck ∨ (∃ lv, c = .devResetRelease lv) ∨ c = .deviceWarmReset ∨
    ∃ p e n, c = .drainWindowEnd p e n

/-- The transitions of the device's state and the events that make them; a start that finds its inputs bad halts at once (the model's
place for that test, notes/assumptions/38.md). -/
def Sys2Proof.deviceMoves (c : Instr) (a b : DevState) : Prop :=
  (a = .off ∧ b = .standby ∧ ∃ lv, c = .aonPowerGood lv) ∨
  (a = .standby ∧ (b = .booting ∨ b = .halted) ∧ ∃ lv, c = .pwrWake lv ∨ c = .devResetRelease lv ∨ c = .tickCompareWake lv) ∨
  (a = .booting ∧ b = .ready ∧ c = .dynamicPartSigned) ∨
  (a = .ready ∧ b = .running ∧ c = .streamStart) ∨
  (a = .running ∧ b = .ready ∧ (c = .streamHaltComplete ∨ c = .streamEndComplete)) ∨
  (a = .ready ∧ b = .standby ∧ c = .pwrStandby) ∨
  ((a = .ready ∨ a = .running ∨ a = .halted) ∧ b = .booting ∧ (c = .deviceWarmReset ∨ ∃ lv, c = .devResetRelease lv)) ∨
  ((a = .ready ∨ a = .running) ∧ b = .booting ∧ ∃ p e n, c = .drainWindowEnd p e n) ∨
  ((a = .booting ∨ a = .ready ∨ a = .running) ∧ b = .halted ∧ haltsBy c) ∨
  (b = .off ∧ (c = .aonPowerLost ∨ c = .powerGoodFall 14))

/-- No command moves the device between states but by the transitions above; in HALTED nothing but a warm reset or the loss of
always-on power does.
(The end of a warm reset by command is the model's, notes/assumptions/33.md; the test of the inputs at a start, notes/assumptions/38.md.) -/
def Obligations.DeviceTransitions : Prop :=
  ∀ (c : Instr) (s t : State), exec c s = .next t → t.dev = s.dev ∨ deviceMoves c s.dev t.dev

/-! ### Host interface -/

/-- Host accesses through BAR2 and CXL.mem: a read answers the data, poison where an atom is poisoned, and a refusal where a
part of the range is absent or fenced (poisoned data on CXL.mem), and what is read is metered as the host's, in class 6; a write
stores, or is discarded and recorded; lines a host holds are snooped first, and the access waits for them, a later one to its granule
behind it. (When memory meets an error is the model's, notes/assumptions/55.md; the tracker and the waiting accesses, notes/assumptions/54.md.) -/
def Obligations.HostMemoryAccesses : Prop :=
  ∀ s : State, portLive s = true →
    let metered (a n : Nat) : State := meterRead s none 6 a n
    let waits (c : Instr) (h : HostAcc) : Prop :=
      (hostBehind s h = true → exec c s = .next (hostWait s h)) ∧
      (hostBehind s h = false → trackedDev s h.addr h.len h.data.isSome ≠ [] →
        exec c s = .next (sendSnoops (hostWait s h) (trackedDev s h.addr h.len h.data.isSome) h.data.isSome))
    let free (h : HostAcc) : Prop := hostBehind s h = false ∧ trackedDev s h.addr h.len h.data.isSome = []
    let read (c : Instr) (mem : Bool) (a n : Nat) : Prop :=
      (∀ b, hostStop s a n = some b → exec c s = .next (if mem then answer (setHerr (setHerr s b) herrPoison) .poisoned
        else answer (setHerr s b) (if b = herrCa then .completerAbort else .unsupported))) ∧
      (hostStop s a n = none → waits c ⟨mem, a, n, none⟩) ∧
      (hostStop s a n = none → free ⟨mem, a, n, none⟩ → ∀ x, devPoisoned s a n = some x →
        exec c s = .next (answer (setHerr (metered a n) herrPoison) .poisoned)) ∧
      (hostStop s a n = none → free ⟨mem, a, n, none⟩ → devPoisoned s a n = none →
        exec c s = .next (answer (metered a n) (.hostData (devRead s a n))))
    let write (c : Instr) (mem : Bool) (a : Nat) (bs : List Byte) : Prop :=
      (∀ b, hostStop s a bs.length = some b → exec c s = .next (setHerr s b)) ∧
      (hostStop s a bs.length = none → waits c ⟨mem, a, bs.length, some bs⟩) ∧
      (hostStop s a bs.length = none → free ⟨mem, a, bs.length, some bs⟩ → exec c s = .next (devWrite s 6 a bs))
    (∀ a n, a + n ≤ 0x20000000000 → read (.bar2Read a n) false a n) ∧
    (∀ a bs, a + bs.length ≤ 0x20000000000 → write (.bar2Write a bs) false a bs) ∧
    (∀ a, a < 0x10000000000 → read (.cxlMemRead a) true (a / 64 * 64) 64) ∧
    (∀ a bs, a < 0x10000000000 → bs.length = 64 → write (.cxlMemWrite a bs) true (a / 64 * 64) bs)

/-- A host write to usable HBM while no partial write stands in a tip-in buffer or waits for it: what is written there then reads back, and every other
byte of HBM reads as before.
(What memory never written reads as, and how a write waits, are the model's choice, notes/assumptions/2.md and 12.md; no clause rests on
the former.) -/
def Obligations.HostWriteReadsBack : Prop :=
  ∀ (s : State) (a h : Nat) (bs : List Byte), portLive s = true → Memory.wf s.hbm = true → s.cxl.track = [] → s.cxl.waitHost = [] →
    (∀ p, (tipOf s p).lines = [] ∧ (tipOf s p).waiting = []) → a % 4096 + bs.length ≤ 4096 → a + bs.length ≤ 0x20000000000 → accOf s a = .hbm h →
    ∃ t, exec (.bar2Write a bs) s = .next t ∧ hbmRead t h bs.length = bs ∧
      (∀ k, k < h ∨ h + bs.length ≤ k → hbmByte t k = hbmByte s k) ∧ t.sram = s.sram ∧ t.engines = s.engines ∧ t.cal = s.cal

/-- The lines a host holds: a request enters the tracker, a BIRsp writes the line's data and gives the line up or leaves it
Shared, a write-back gives it up, and data for a line that left the tracker in a drain window is discarded. A full tracker gives up as
many entries as host requests wait. (Which entry is held longest, and the order of waiting requests, are the model's,
notes/assumptions/54.md.) -/
def Sys2Proof.HostLines : Prop :=
  ∀ s : State,
    let held (line : Nat) : Prop := s.cxl.track.any (fun l => l.line == line) = true
    let drop (t : State) (line : Nat) : State := wakeSets (retrack t (t.cxl.track.filter (fun l => l.line != line)))
    (∀ line excl, portLive s = true → line < 2 ^ 34 → hostStop s (64 * line) 64 = none →
      (held line ∨ s.cxl.track.length < trackerSize → ∃ t, exec (.hostLineTake line excl) s = .next t ∧
        (∃ l ∈ t.cxl.track, l.line = line ∧ l.excl = excl) ∧ (∀ l ∈ s.cxl.track, l.line ≠ line → l ∈ t.cxl.track) ∧
        t.out = s.out ∧ t.hbm = s.hbm) ∧
      (¬held line → trackerSize ≤ s.cxl.track.length → ∃ t, exec (.hostLineTake line excl) s = .next t ∧
        t.cxl.waitTakes = s.cxl.waitTakes ++ [(line, excl)] ∧ t.cxl.track.length = s.cxl.track.length ∧ t.hbm = s.hbm)) ∧
    (∀ line data l, portLive s = true → s.cxl.track.find? (fun l => l.line == line && l.snooped) = some l →
      (l.inv = true → exec (.birspReceive line (some data)) s = .next (drop (lineData s line data) line) ∧
        exec (.birspReceive line none) s = .next (drop s line)) ∧
      (l.inv = false → exec (.birspReceive line none) s = .next (wakeSets (retrack s (s.cxl.track.map
        (fun t => if t.line = line then { t with excl := false, snooped := false } else t)))))) ∧
    (∀ line data, portLive s = true → held line → exec (.hostWriteback line data) s = .next (drop (lineData s line data) line)) ∧
    (∀ line data, sheetOffset ≤ 64 * line % hbmWindow → (lineData s line data).hbm = s.hbm ∧
      bitAt (memOf (lineData s line data) (hbmPart (64 * line))).err errSheet = true) ∧
    (∀ line data, portLive s = true → ¬held line → s.cxl.late.contains line = true → ∃ t, exec (.hostWriteback line data) s = .next t ∧
      t.hbm = s.hbm ∧ t.mem = s.mem ∧ bitAt t.cxl.herr 4 = true) ∧
    (∀ a, portLive s = true → exec (.h2dSnoop a) s = .next (answer s (.snoopResponse a)))

/-- The port: a completion answers the unit that waits for it, or counts as discarded where its partition is fenced; a link that goes
down drops the tracker and every outstanding request; `PERST_N` brings the port's registers and the mailboxes to their reset values; its
release trains the link. (What `PERST_N` does to commands under way is the model's reading, notes/assumptions/17.md.) -/
def Sys2Proof.CxlPort : Prop :=
  ∀ s : State,
    (∀ id ok data r, portLive s = true → s.cxl.d2h.find? (fun r => r.id == id) = some r →
      let u := { s with cxl := { s.cxl with d2h := s.cxl.d2h.filter (fun r => r.id != id) } }
      ((userPart r.user).any (fun p => !partActive s p) = true → exec (.slowTierCompletion id ok data) s =
        .next (pumpSlow { u with rst := { s.rst with discard := (s.rst.discard + 1) % 65536 } })) ∧
      ((userPart r.user).any (fun p => !partActive s p) = false → exec (.slowTierCompletion id ok data) s =
        .next (pumpSlow (match r.user with
          | .mover c m => moverSlowDone u c m r ok data
          | .park p k => parkSlowDone u p k r ok data
          | .expander p k => expanderSlowDone u p k r ok
          | .cipher => cipSlowDone u r ok data)))) ∧
    (s.cxl.up = true → (clocksRun s.dev = false → exec .cxlLinkDown s = .next { s with cxl := linkGone s.cxl }) ∧
      ∃ t, exec .cxlLinkDown s = .next t ∧ t.cxl.up = false ∧ t.cxl.downs = satInc 0xFF s.cxl.downs ∧ t.cxl.track = [] ∧
        t.cxl.waitTakes = [] ∧ t.cxl.waitHost = [] ∧ t.cxl.late = [] ∧ t.cxl.d2h = [] ∧ t.dev = s.dev) ∧
    (∃ t, exec .perstAssert s = .next t ∧ t.perst = true ∧ t.cxl = { cxlReset with nextId := t.cxl.nextId } ∧ t.jante.boxes = [] ∧
      (∀ i, i < 16 → mailboxOf t i = mailboxReset) ∧ (∀ x ∈ t.jante.pend, 16 ≤ x.req.src) ∧ (∀ r ∈ t.jante.exam, r.src = 16) ∧ t.sec.doe = none ∧ t.sec.spdm = .start ∧ t.dev = s.dev) ∧
    (∀ w r, (w = 4 ∨ w = 8 ∨ w = 16) → (r = 1 ∨ r = 2) → s.dev ≠ .off → s.dev ≠ .standby → exec (.perstRelease w r) s =
      .next { s with perst := false, cxl := { s.cxl with up := true, rate := r, width := w } })

/-- The host's lines and the CXL port.
(The tracker's corner cases and what `PERST_N` does to commands are the model's, notes/assumptions/54.md and 17.md.) -/
def Obligations.HostPort : Prop := HostLines ∧ CxlPort

/-- BAR0: 4-byte and aligned 8-byte accesses; of 8 bytes each half is an access of its own; any other size reads zero or is
discarded, with BAR0SIZE; an access at an offset reaches what the layout puts there, mailbox `i` at 0x10_0000 + i * 0x1_0000; an entry
of the MSI-X table unmasked while its message is pending sends it. (Where the part puts its register blocks, and the registers a command
names without an offset, notes/assumptions/4.md.) -/
def Obligations.Bar0Accesses : Prop :=
  ∀ s : State, bar0Up s = true →
    (∀ r d, exec (.bar0Access (.reg r) 4 true d) s = .next (anyWrite s (d.setWidth 32) 0#32 r)) ∧
    (∀ r d, exec (.bar0Access (.reg r) 4 false d) s = .next (answer s (.hostData (natBytes 4 (regRead s r).toNat)))) ∧
    (∀ off d, off % 4 = 0 → exec (.bar0Access (.offset off) 4 true d) s = .next (bar0Put s (bar0Decode off) false (d.setWidth 32)) ∧
      exec (.bar0Access (.offset off) 4 false d) s = .next (answer s (.hostData (natBytes 4 (bar0Get s (bar0Decode off) false))))) ∧
    (∀ (i : Fin 16) (off : Nat), off < 0x10000 → bar0Decode (0x100000 + 0x10000 * i + off) = mailboxDecode i off) ∧
    (∀ (i : Fin 16) (n : Fin 8), mailboxDecode i 0 = .reg (.mbxCmd i) ∧ mailboxDecode i 4 = .reg (.mbxPlen i) ∧
      mailboxDecode i 8 = .reg (.mbxDoorbell i) ∧ mailboxDecode i 12 = .reg (.mbxStatus i) ∧
      mailboxDecode i (0x10 + 8 * n) = .reg (.mbxArgLo i n) ∧ mailboxDecode i (0x14 + 8 * n) = .reg (.mbxArgHi i n)) ∧
    (∀ t d, targetOff t % 8 = 0 → exec (.bar0Access t 8 true d) s =
      .next (bar0Write4 (bar0Write4 s t false (d.setWidth 32)) t true ((d >>> 32).setWidth 32))) ∧
    (∀ t d, targetOff t % 8 = 0 → exec (.bar0Access t 8 false d) s =
      .next (answer s (.hostData (natBytes 8 (bar0Read4 s t false + bar0Read4 s t true * 2 ^ 32))))) ∧
    (∀ t n d, n ≠ 4 → n ≠ 8 →
      (∃ u, exec (.bar0Access t n true d) s = .next u ∧ u.cxl.herr = s.cxl.herr ||| 1#32 ∧ u.jante = s.jante ∧ u.engines = s.engines ∧
        u.cal = s.cal ∧ u.upd = s.upd ∧ u.mem = s.mem) ∧
      ∃ u rest, exec (.bar0Access t n false d) s = .next u ∧ u.out = .hostData (List.replicate n 0#8) :: rest ∧
        u.cxl.herr = s.cxl.herr ||| 1#32) ∧
    (∀ (i : Fin 16) (off : Nat) (d : W64), off < 4096 → off % 4 = 0 → bitAt (mailboxOf s i).status 31 = false →
      exec (.bar0Access (.mailboxPayload i off) 4 true d) s = .next (setMailbox s i { mailboxOf s i with
        payload := memWrite (mailboxOf s i).payload off (natBytes 4 (d.setWidth 32).toNat) })) ∧
    (∀ (i : Fin 16) (off : Nat) (d : W64), off < 4096 → off % 4 = 0 → bitAt (mailboxOf s i).status 31 = true →
      exec (.bar0Access (.mailboxPayload i off) 4 true d) s = .next (setMailbox s i { mailboxOf s i with
        status := (mailboxOf s i).status ||| 0x20000000#32 })) ∧
    (∀ k : Nat, k < 32 → bitAt s.cxl.pba k = true → ∃ u, exec (.bar0Access (.msix (16 * k + 12)) 4 true 0) s = .next u ∧
      u.out = .msi k :: s.out ∧ bitAt u.cxl.pba k = false)

/-- Data objects: one too large raises the error, Discovery is answered at once, an SPDM request is held for Jante where no other is,
and an abort clears the error or waits for the response that is due. -/
def Sys2Proof.DataObjects : Prop :=
  ∀ s : State,
    (s.cxl.up = true → s.sec.doe = none →
      (∀ type data, 16384 < (doeObject type data).length → ∃ t, exec (.doeRequest type data) s = .next t ∧ t.sec.doeError = true ∧
        t.out = .doeError :: s.out ∧ t.sec.doe = none) ∧
      (∀ data, (doeObject 0 data).length ≤ 16384 → ∃ t, exec (.doeRequest 0 data) s = .next t ∧
        t.out = .doe (doeObject 0 (discovery data)) :: s.out ∧ t.sec.doe = none) ∧
      (∀ data, (doeObject 1 data).length ≤ 16384 → 4 ≤ data.length → spdmSupported data = true →
        exec (.doeRequest 1 data) s = .next { s with sec := { s.sec with doe := some data } })) ∧
    (∀ x, s.sec.doe = some x → exec .doeAbort s = .next { s with sec := { s.sec with doeAbort := true } }) ∧
    (s.sec.doe = none → exec .doeAbort s = .next { s with sec := { s.sec with doeError := false } })

/-- The SPDM requests, in the order a connection takes them, with the layouts the model presumes (notes/assumptions/40.md): each
answers where its checks pass and moves the connection on; out of order, or for a certificate slot that is not supported, it is answered
with an error and moves nothing. (Nonces and signing scalars are free values, notes/assumptions/53.md.) -/
def Sys2Proof.Attestation : Prop :=
  ∀ (s : State) (bs : List Byte),
    let runs (c : Instr) (code : Nat) (at_ : SpdmSt) (least : Nat) (more : Prop) (code' : Nat) (after : SpdmSt) : Prop :=
      heldSpdm s code = some bs → spdmRefusal s bs at_ least = none → more → ∃ t r, exec c s = .next t ∧
        t.out = .doe (doeObject 1 r) :: s.out ∧ natAt r 1 1 = code' ∧ t.sec.spdm = after ∧ t.sec.doe = none ∧ t.hbm = s.hbm ∧
        t.jante = s.jante
    let misplaced (c : Instr) (code : Nat) (at_ : SpdmSt) : Prop :=
      heldSpdm s code = some bs → natAt bs 0 1 = 0x12 → s.sec.spdm ≠ at_ → ∃ t, exec c s = .next t ∧
        t.out = .doe (doeObject 1 (spdmError unexpectedRequest 0)) :: s.out ∧ t.sec.spdm = s.sec.spdm ∧ t.sec.doe = none
    (heldSpdm s 0x84 = some bs → natAt bs 0 1 = 0x10 → ∃ t r, exec .getVersion s = .next t ∧ t.out = .doe (doeObject 1 r) :: s.out ∧
      natAt r 1 1 = 0x04 ∧ t.sec.spdm = .versioned ∧ t.sec.doe = none) ∧
    runs .getCapabilities 0xE1 .versioned 20 (42 ≤ natAt bs 12 4) 0x61 .capable ∧
    runs .negotiateAlgorithms 0xE3 .capable 32 (32 ≤ natAt bs 4 2 ∧ natAt bs 4 2 ≤ bs.length ∧ natAt bs 8 4 / 16 % 2 = 1 ∧
      natAt bs 12 4 % 2 = 1) 0x63 .negotiated ∧
    runs .getDigests 0x81 .negotiated 4 True 0x01 .negotiated ∧
    runs .getCertificate 0x82 .negotiated 8 (natAt bs 2 1 % 16 = 0 ∧ natAt bs 4 2 < certChain.length) 0x02 .negotiated ∧
    runs .challenge 0x83 .negotiated 36 (natAt bs 2 1 = 0 ∧ (natAt bs 3 1 = 0 ∨ natAt bs 3 1 = 1 ∨ natAt bs 3 1 = 0xFF)) 0x03
      .negotiated ∧
    runs .getMeasurements 0xE0 .negotiated (if natAt bs 2 1 % 2 = 1 then 37 else 4)
      ((natAt bs 3 1 ≤ 6 ∨ natAt bs 3 1 = 0xFF) ∧ (natAt bs 2 1 % 2 = 1 → natAt bs 36 1 % 16 = 0)) 0x60 .negotiated ∧
    (heldSpdm s 0x82 = some bs → spdmRefusal s bs .negotiated 8 = none → 1 ≤ natAt bs 2 1 % 16 → natAt bs 2 1 % 16 ≤ 7 → ∃ t,
      exec .getCertificate s = .next t ∧ t.out = .doe (doeObject 1 (spdmError unsupportedRequest 0x82)) :: s.out ∧
        t.sec.spdm = s.sec.spdm) ∧
    (heldSpdm s 0x83 = some bs → spdmRefusal s bs .negotiated 36 = none → 1 ≤ natAt bs 2 1 → natAt bs 2 1 ≤ 7 → ∃ t,
      exec .challenge s = .next t ∧ t.out = .doe (doeObject 1 (spdmError unsupportedRequest 0x83)) :: s.out ∧
        t.sec.spdm = s.sec.spdm) ∧
    misplaced .getCapabilities 0xE1 .versioned ∧ misplaced .negotiateAlgorithms 0xE3 .capable ∧
    misplaced .getDigests 0x81 .negotiated ∧ misplaced .getCertificate 0x82 .negotiated ∧
    misplaced .challenge 0x83 .negotiated ∧ misplaced .getMeasurements 0xE0 .negotiated

/-- The test access port: SAMPLE/PRELOAD at any time, the instructions that drive pins only while the reset pin is held, else BYPASS;
`TRST_N` low brings BYPASS and keeps it; EXTEST and CLAMP drive the outputs from their boundary cells and HIGHZ floats them. (The codes
of a loaded instruction and the cells are the model's, notes/assumptions/1.md and 5.md.) -/
def Sys2Proof.TestAccessPort : Prop :=
  ∀ s : State, s.dev ≠ .off →
    (∀ ir, exec (.tapInstruction (.load ir)) s = .next (if s.sec.trstLow then s else { s with sec := { s.sec with
      tapIr := if ir = 1 ∨ (2 ≤ ir ∧ ir ≤ 4 ∧ s.devReset = true) then ir else 0 } })) ∧
    (∀ low, exec (.tapInstruction (.trst low)) s = .next { s with sec := { s.sec with
      trstLow := low, tapIr := if low then 0 else s.sec.tapIr } }) ∧
    (s.sec.tapIr = 2 ∨ s.sec.tapIr = 3 → devReady s = some (Config.boundaryCell 1) ∧ alertN s = some (Config.boundaryCell 2) ∧
      thermtripN s = some (Config.boundaryCell 3)) ∧
    (s.sec.tapIr = 4 → devReady s = none ∧ alertN s = none ∧ thermtripN s = none)

/-- Data objects, the SPDM requests in them, and the test access port.
(The layouts are the model's, notes/assumptions/40.md and 53.md; the test port's codes and cells, notes/assumptions/1.md and 5.md.) -/
def Obligations.AttestationAndTest : Prop := DataObjects ∧ Attestation ∧ TestAccessPort
end

