-- ==== Sys2Proof/Laws/State.lean ====
section
/-!
SUPPORT. What the updates of the state leave alone, field by field, so that no proof unfolds an update.
-/

namespace Sys2Proof.Machine

/-! `setEngine` changes `engines` alone. -/
@[simp] theorem setEngine_pending (s : State) (e : Nat) (x : Engine) : (setEngine s e x).pending = s.pending := rfl
@[simp] theorem setEngine_dev (s : State) (e : Nat) (x : Engine) : (setEngine s e x).dev = s.dev := rfl
@[simp] theorem setEngine_absent (s : State) (e : Nat) (x : Engine) : (setEngine s e x).absent = s.absent := rfl
@[simp] theorem setEngine_pstates (s : State) (e : Nat) (x : Engine) : (setEngine s e x).pstates = s.pstates := rfl
@[simp] theorem setEngine_movers (s : State) (e : Nat) (x : Engine) : (setEngine s e x).movers = s.movers := rfl
@[simp] theorem setEngine_mem (s : State) (e : Nat) (x : Engine) : (setEngine s e x).mem = s.mem := rfl
@[simp] theorem setEngine_gil (s : State) (e : Nat) (x : Engine) : (setEngine s e x).gil = s.gil := rfl
@[simp] theorem setEngine_gilLoose (s : State) (e : Nat) (x : Engine) : (setEngine s e x).gilLoose = s.gilLoose := rfl
@[simp] theorem setEngine_hbm (s : State) (e : Nat) (x : Engine) : (setEngine s e x).hbm = s.hbm := rfl
@[simp] theorem setEngine_sram (s : State) (e : Nat) (x : Engine) : (setEngine s e x).sram = s.sram := rfl
@[simp] theorem setEngine_sheet (s : State) (e : Nat) (x : Engine) : (setEngine s e x).sheet = s.sheet := rfl
@[simp] theorem setEngine_hbmPoison (s : State) (e : Nat) (x : Engine) : (setEngine s e x).hbmPoison = s.hbmPoison := rfl
@[simp] theorem setEngine_sramPoison (s : State) (e : Nat) (x : Engine) : (setEngine s e x).sramPoison = s.sramPoison := rfl
@[simp] theorem setEngine_sramFlips (s : State) (e : Nat) (x : Engine) : (setEngine s e x).sramFlips = s.sramFlips := rfl
@[simp] theorem setEngine_tabA (s : State) (e : Nat) (x : Engine) : (setEngine s e x).tabA = s.tabA := rfl
@[simp] theorem setEngine_tabB (s : State) (e : Nat) (x : Engine) : (setEngine s e x).tabB = s.tabB := rfl
@[simp] theorem setEngine_cal (s : State) (e : Nat) (x : Engine) : (setEngine s e x).cal = s.cal := rfl
@[simp] theorem setEngine_tok (s : State) (e : Nat) (x : Engine) : (setEngine s e x).tok = s.tok := rfl
@[simp] theorem setEngine_rpr (s : State) (e : Nat) (x : Engine) : (setEngine s e x).rpr = s.rpr := rfl
@[simp] theorem setEngine_fill (s : State) (e : Nat) (x : Engine) : (setEngine s e x).fill = s.fill := rfl
@[simp] theorem setEngine_bus (s : State) (e : Nat) (x : Engine) : (setEngine s e x).bus = s.bus := rfl
@[simp] theorem setEngine_spanlds (s : State) (e : Nat) (x : Engine) : (setEngine s e x).spanlds = s.spanlds := rfl
@[simp] theorem setEngine_cmp (s : State) (e : Nat) (x : Engine) : (setEngine s e x).cmp = s.cmp := rfl
@[simp] theorem setEngine_cmpLoading (s : State) (e : Nat) (x : Engine) : (setEngine s e x).cmpLoading = s.cmpLoading := rfl
@[simp] theorem setEngine_links (s : State) (e : Nat) (x : Engine) : (setEngine s e x).links = s.links := rfl
@[simp] theorem setEngine_sets (s : State) (e : Nat) (x : Engine) : (setEngine s e x).sets = s.sets := rfl
@[simp] theorem setEngine_setErr (s : State) (e : Nat) (x : Engine) : (setEngine s e x).setErr = s.setErr := rfl
@[simp] theorem setEngine_upd (s : State) (e : Nat) (x : Engine) : (setEngine s e x).upd = s.upd := rfl
@[simp] theorem setEngine_kept (s : State) (e : Nat) (x : Engine) : (setEngine s e x).kept = s.kept := rfl
@[simp] theorem setEngine_far (s : State) (e : Nat) (x : Engine) : (setEngine s e x).far = s.far := rfl
@[simp] theorem setEngine_cip (s : State) (e : Nat) (x : Engine) : (setEngine s e x).cip = s.cip := rfl
@[simp] theorem setEngine_bnd (s : State) (e : Nat) (x : Engine) : (setEngine s e x).bnd = s.bnd := rfl
@[simp] theorem setEngine_folio (s : State) (e : Nat) (x : Engine) : (setEngine s e x).folio = s.folio := rfl
@[simp] theorem setEngine_sec (s : State) (e : Nat) (x : Engine) : (setEngine s e x).sec = s.sec := rfl
@[simp] theorem setEngine_cxl (s : State) (e : Nat) (x : Engine) : (setEngine s e x).cxl = s.cxl := rfl
@[simp] theorem setEngine_rst (s : State) (e : Nat) (x : Engine) : (setEngine s e x).rst = s.rst := rfl
@[simp] theorem setEngine_pwr (s : State) (e : Nat) (x : Engine) : (setEngine s e x).pwr = s.pwr := rfl
@[simp] theorem setEngine_jante (s : State) (e : Nat) (x : Engine) : (setEngine s e x).jante = s.jante := rfl
@[simp] theorem setEngine_devReset (s : State) (e : Nat) (x : Engine) : (setEngine s e x).devReset = s.devReset := rfl
@[simp] theorem setEngine_perst (s : State) (e : Nat) (x : Engine) : (setEngine s e x).perst = s.perst := rfl
@[simp] theorem setEngine_freeCtr (s : State) (e : Nat) (x : Engine) : (setEngine s e x).freeCtr = s.freeCtr := rfl
@[simp] theorem setEngine_out (s : State) (e : Nat) (x : Engine) : (setEngine s e x).out = s.out := rfl

/-! `setMover` changes `movers` alone. -/
@[simp] theorem setMover_pending (s : State) (c m : Nat) (x : Mover) : (setMover s c m x).pending = s.pending := rfl
@[simp] theorem setMover_dev (s : State) (c m : Nat) (x : Mover) : (setMover s c m x).dev = s.dev := rfl
@[simp] theorem setMover_absent (s : State) (c m : Nat) (x : Mover) : (setMover s c m x).absent = s.absent := rfl
@[simp] theorem setMover_pstates (s : State) (c m : Nat) (x : Mover) : (setMover s c m x).pstates = s.pstates := rfl
@[simp] theorem setMover_engines (s : State) (c m : Nat) (x : Mover) : (setMover s c m x).engines = s.engines := rfl
@[simp] theorem setMover_mem (s : State) (c m : Nat) (x : Mover) : (setMover s c m x).mem = s.mem := rfl
@[simp] theorem setMover_gil (s : State) (c m : Nat) (x : Mover) : (setMover s c m x).gil = s.gil := rfl
@[simp] theorem setMover_gilLoose (s : State) (c m : Nat) (x : Mover) : (setMover s c m x).gilLoose = s.gilLoose := rfl
@[simp] theorem setMover_hbm (s : State) (c m : Nat) (x : Mover) : (setMover s c m x).hbm = s.hbm := rfl
@[simp] theorem setMover_sram (s : State) (c m : Nat) (x : Mover) : (setMover s c m x).sram = s.sram := rfl
@[simp] theorem setMover_sheet (s : State) (c m : Nat) (x : Mover) : (setMover s c m x).sheet = s.sheet := rfl
@[simp] theorem setMover_hbmPoison (s : State) (c m : Nat) (x : Mover) : (setMover s c m x).hbmPoison = s.hbmPoison := rfl
@[simp] theorem setMover_sramPoison (s : State) (c m : Nat) (x : Mover) : (setMover s c m x).sramPoison = s.sramPoison := rfl
@[simp] theorem setMover_sramFlips (s : State) (c m : Nat) (x : Mover) : (setMover s c m x).sramFlips = s.sramFlips := rfl
@[simp] theorem setMover_tabA (s : State) (c m : Nat) (x : Mover) : (setMover s c m x).tabA = s.tabA := rfl
@[simp] theorem setMover_tabB (s : State) (c m : Nat) (x : Mover) : (setMover s c m x).tabB = s.tabB := rfl
@[simp] theorem setMover_cal (s : State) (c m : Nat) (x : Mover) : (setMover s c m x).cal = s.cal := rfl
@[simp] theorem setMover_tok (s : State) (c m : Nat) (x : Mover) : (setMover s c m x).tok = s.tok := rfl
@[simp] theorem setMover_rpr (s : State) (c m : Nat) (x : Mover) : (setMover s c m x).rpr = s.rpr := rfl
@[simp] theorem setMover_fill (s : State) (c m : Nat) (x : Mover) : (setMover s c m x).fill = s.fill := rfl
@[simp] theorem setMover_bus (s : State) (c m : Nat) (x : Mover) : (setMover s c m x).bus = s.bus := rfl
@[simp] theorem setMover_spanlds (s : State) (c m : Nat) (x : Mover) : (setMover s c m x).spanlds = s.spanlds := rfl
@[simp] theorem setMover_cmp (s : State) (c m : Nat) (x : Mover) : (setMover s c m x).cmp = s.cmp := rfl
@[simp] theorem setMover_cmpLoading (s : State) (c m : Nat) (x : Mover) : (setMover s c m x).cmpLoading = s.cmpLoading := rfl
@[simp] theorem setMover_links (s : State) (c m : Nat) (x : Mover) : (setMover s c m x).links = s.links := rfl
@[simp] theorem setMover_sets (s : State) (c m : Nat) (x : Mover) : (setMover s c m x).sets = s.sets := rfl
@[simp] theorem setMover_setErr (s : State) (c m : Nat) (x : Mover) : (setMover s c m x).setErr = s.setErr := rfl
@[simp] theorem setMover_upd (s : State) (c m : Nat) (x : Mover) : (setMover s c m x).upd = s.upd := rfl
@[simp] theorem setMover_kept (s : State) (c m : Nat) (x : Mover) : (setMover s c m x).kept = s.kept := rfl
@[simp] theorem setMover_far (s : State) (c m : Nat) (x : Mover) : (setMover s c m x).far = s.far := rfl
@[simp] theorem setMover_cip (s : State) (c m : Nat) (x : Mover) : (setMover s c m x).cip = s.cip := rfl
@[simp] theorem setMover_bnd (s : State) (c m : Nat) (x : Mover) : (setMover s c m x).bnd = s.bnd := rfl
@[simp] theorem setMover_folio (s : State) (c m : Nat) (x : Mover) : (setMover s c m x).folio = s.folio := rfl
@[simp] theorem setMover_sec (s : State) (c m : Nat) (x : Mover) : (setMover s c m x).sec = s.sec := rfl
@[simp] theorem setMover_cxl (s : State) (c m : Nat) (x : Mover) : (setMover s c m x).cxl = s.cxl := rfl
@[simp] theorem setMover_rst (s : State) (c m : Nat) (x : Mover) : (setMover s c m x).rst = s.rst := rfl
@[simp] theorem setMover_pwr (s : State) (c m : Nat) (x : Mover) : (setMover s c m x).pwr = s.pwr := rfl
@[simp] theorem setMover_jante (s : State) (c m : Nat) (x : Mover) : (setMover s c m x).jante = s.jante := rfl
@[simp] theorem setMover_devReset (s : State) (c m : Nat) (x : Mover) : (setMover s c m x).devReset = s.devReset := rfl
@[simp] theorem setMover_perst (s : State) (c m : Nat) (x : Mover) : (setMover s c m x).perst = s.perst := rfl
@[simp] theorem setMover_freeCtr (s : State) (c m : Nat) (x : Mover) : (setMover s c m x).freeCtr = s.freeCtr := rfl
@[simp] theorem setMover_out (s : State) (c m : Nat) (x : Mover) : (setMover s c m x).out = s.out := rfl

/-! `setMem` changes `mem` alone. -/
@[simp] theorem setMem_pending (s : State) (p : Nat) (x : MemSide) : (setMem s p x).pending = s.pending := rfl
@[simp] theorem setMem_dev (s : State) (p : Nat) (x : MemSide) : (setMem s p x).dev = s.dev := rfl
@[simp] theorem setMem_absent (s : State) (p : Nat) (x : MemSide) : (setMem s p x).absent = s.absent := rfl
@[simp] theorem setMem_pstates (s : State) (p : Nat) (x : MemSide) : (setMem s p x).pstates = s.pstates := rfl
@[simp] theorem setMem_engines (s : State) (p : Nat) (x : MemSide) : (setMem s p x).engines = s.engines := rfl
@[simp] theorem setMem_movers (s : State) (p : Nat) (x : MemSide) : (setMem s p x).movers = s.movers := rfl
@[simp] theorem setMem_gil (s : State) (p : Nat) (x : MemSide) : (setMem s p x).gil = s.gil := rfl
@[simp] theorem setMem_gilLoose (s : State) (p : Nat) (x : MemSide) : (setMem s p x).gilLoose = s.gilLoose := rfl
@[simp] theorem setMem_hbm (s : State) (p : Nat) (x : MemSide) : (setMem s p x).hbm = s.hbm := rfl
@[simp] theorem setMem_sram (s : State) (p : Nat) (x : MemSide) : (setMem s p x).sram = s.sram := rfl
@[simp] theorem setMem_sheet (s : State) (p : Nat) (x : MemSide) : (setMem s p x).sheet = s.sheet := rfl
@[simp] theorem setMem_hbmPoison (s : State) (p : Nat) (x : MemSide) : (setMem s p x).hbmPoison = s.hbmPoison := rfl
@[simp] theorem setMem_sramPoison (s : State) (p : Nat) (x : MemSide) : (setMem s p x).sramPoison = s.sramPoison := rfl
@[simp] theorem setMem_sramFlips (s : State) (p : Nat) (x : MemSide) : (setMem s p x).sramFlips = s.sramFlips := rfl
@[simp] theorem setMem_tabA (s : State) (p : Nat) (x : MemSide) : (setMem s p x).tabA = s.tabA := rfl
@[simp] theorem setMem_tabB (s : State) (p : Nat) (x : MemSide) : (setMem s p x).tabB = s.tabB := rfl
@[simp] theorem setMem_cal (s : State) (p : Nat) (x : MemSide) : (setMem s p x).cal = s.cal := rfl
@[simp] theorem setMem_tok (s : State) (p : Nat) (x : MemSide) : (setMem s p x).tok = s.tok := rfl
@[simp] theorem setMem_rpr (s : State) (p : Nat) (x : MemSide) : (setMem s p x).rpr = s.rpr := rfl
@[simp] theorem setMem_fill (s : State) (p : Nat) (x : MemSide) : (setMem s p x).fill = s.fill := rfl
@[simp] theorem setMem_bus (s : State) (p : Nat) (x : MemSide) : (setMem s p x).bus = s.bus := rfl
@[simp] theorem setMem_spanlds (s : State) (p : Nat) (x : MemSide) : (setMem s p x).spanlds = s.spanlds := rfl
@[simp] theorem setMem_cmp (s : State) (p : Nat) (x : MemSide) : (setMem s p x).cmp = s.cmp := rfl
@[simp] theorem setMem_cmpLoading (s : State) (p : Nat) (x : MemSide) : (setMem s p x).cmpLoading = s.cmpLoading := rfl
@[simp] theorem setMem_links (s : State) (p : Nat) (x : MemSide) : (setMem s p x).links = s.links := rfl
@[simp] theorem setMem_sets (s : State) (p : Nat) (x : MemSide) : (setMem s p x).sets = s.sets := rfl
@[simp] theorem setMem_setErr (s : State) (p : Nat) (x : MemSide) : (setMem s p x).setErr = s.setErr := rfl
@[simp] theorem setMem_upd (s : State) (p : Nat) (x : MemSide) : (setMem s p x).upd = s.upd := rfl
@[simp] theorem setMem_kept (s : State) (p : Nat) (x : MemSide) : (setMem s p x).kept = s.kept := rfl
@[simp] theorem setMem_far (s : State) (p : Nat) (x : MemSide) : (setMem s p x).far = s.far := rfl
@[simp] theorem setMem_cip (s : State) (p : Nat) (x : MemSide) : (setMem s p x).cip = s.cip := rfl
@[simp] theorem setMem_bnd (s : State) (p : Nat) (x : MemSide) : (setMem s p x).bnd = s.bnd := rfl
@[simp] theorem setMem_folio (s : State) (p : Nat) (x : MemSide) : (setMem s p x).folio = s.folio := rfl
@[simp] theorem setMem_sec (s : State) (p : Nat) (x : MemSide) : (setMem s p x).sec = s.sec := rfl
@[simp] theorem setMem_cxl (s : State) (p : Nat) (x : MemSide) : (setMem s p x).cxl = s.cxl := rfl
@[simp] theorem setMem_rst (s : State) (p : Nat) (x : MemSide) : (setMem s p x).rst = s.rst := rfl
@[simp] theorem setMem_pwr (s : State) (p : Nat) (x : MemSide) : (setMem s p x).pwr = s.pwr := rfl
@[simp] theorem setMem_jante (s : State) (p : Nat) (x : MemSide) : (setMem s p x).jante = s.jante := rfl
@[simp] theorem setMem_devReset (s : State) (p : Nat) (x : MemSide) : (setMem s p x).devReset = s.devReset := rfl
@[simp] theorem setMem_perst (s : State) (p : Nat) (x : MemSide) : (setMem s p x).perst = s.perst := rfl
@[simp] theorem setMem_freeCtr (s : State) (p : Nat) (x : MemSide) : (setMem s p x).freeCtr = s.freeCtr := rfl
@[simp] theorem setMem_out (s : State) (p : Nat) (x : MemSide) : (setMem s p x).out = s.out := rfl

/-! `setPstate` changes `pstates` alone. -/
@[simp] theorem setPstate_pending (s : State) (p : Nat) (v : PState) : (setPstate s p v).pending = s.pending := rfl
@[simp] theorem setPstate_dev (s : State) (p : Nat) (v : PState) : (setPstate s p v).dev = s.dev := rfl
@[simp] theorem setPstate_absent (s : State) (p : Nat) (v : PState) : (setPstate s p v).absent = s.absent := rfl
@[simp] theorem setPstate_engines (s : State) (p : Nat) (v : PState) : (setPstate s p v).engines = s.engines := rfl
@[simp] theorem setPstate_movers (s : State) (p : Nat) (v : PState) : (setPstate s p v).movers = s.movers := rfl
@[simp] theorem setPstate_mem (s : State) (p : Nat) (v : PState) : (setPstate s p v).mem = s.mem := rfl
@[simp] theorem setPstate_gil (s : State) (p : Nat) (v : PState) : (setPstate s p v).gil = s.gil := rfl
@[simp] theorem setPstate_gilLoose (s : State) (p : Nat) (v : PState) : (setPstate s p v).gilLoose = s.gilLoose := rfl
@[simp] theorem setPstate_hbm (s : State) (p : Nat) (v : PState) : (setPstate s p v).hbm = s.hbm := rfl
@[simp] theorem setPstate_sram (s : State) (p : Nat) (v : PState) : (setPstate s p v).sram = s.sram := rfl
@[simp] theorem setPstate_sheet (s : State) (p : Nat) (v : PState) : (setPstate s p v).sheet = s.sheet := rfl
@[simp] theorem setPstate_hbmPoison (s : State) (p : Nat) (v : PState) : (setPstate s p v).hbmPoison = s.hbmPoison := rfl
@[simp] theorem setPstate_sramPoison (s : State) (p : Nat) (v : PState) : (setPstate s p v).sramPoison = s.sramPoison := rfl
@[simp] theorem setPstate_sramFlips (s : State) (p : Nat) (v : PState) : (setPstate s p v).sramFlips = s.sramFlips := rfl
@[simp] theorem setPstate_tabA (s : State) (p : Nat) (v : PState) : (setPstate s p v).tabA = s.tabA := rfl
@[simp] theorem setPstate_tabB (s : State) (p : Nat) (v : PState) : (setPstate s p v).tabB = s.tabB := rfl
@[simp] theorem setPstate_cal (s : State) (p : Nat) (v : PState) : (setPstate s p v).cal = s.cal := rfl
@[simp] theorem setPstate_tok (s : State) (p : Nat) (v : PState) : (setPstate s p v).tok = s.tok := rfl
@[simp] theorem setPstate_rpr (s : State) (p : Nat) (v : PState) : (setPstate s p v).rpr = s.rpr := rfl
@[simp] theorem setPstate_fill (s : State) (p : Nat) (v : PState) : (setPstate s p v).fill = s.fill := rfl
@[simp] theorem setPstate_bus (s : State) (p : Nat) (v : PState) : (setPstate s p v).bus = s.bus := rfl
@[simp] theorem setPstate_spanlds (s : State) (p : Nat) (v : PState) : (setPstate s p v).spanlds = s.spanlds := rfl
@[simp] theorem setPstate_cmp (s : State) (p : Nat) (v : PState) : (setPstate s p v).cmp = s.cmp := rfl
@[simp] theorem setPstate_cmpLoading (s : State) (p : Nat) (v : PState) : (setPstate s p v).cmpLoading = s.cmpLoading := rfl
@[simp] theorem setPstate_links (s : State) (p : Nat) (v : PState) : (setPstate s p v).links = s.links := rfl
@[simp] theorem setPstate_sets (s : State) (p : Nat) (v : PState) : (setPstate s p v).sets = s.sets := rfl
@[simp] theorem setPstate_setErr (s : State) (p : Nat) (v : PState) : (setPstate s p v).setErr = s.setErr := rfl
@[simp] theorem setPstate_upd (s : State) (p : Nat) (v : PState) : (setPstate s p v).upd = s.upd := rfl
@[simp] theorem setPstate_kept (s : State) (p : Nat) (v : PState) : (setPstate s p v).kept = s.kept := rfl
@[simp] theorem setPstate_far (s : State) (p : Nat) (v : PState) : (setPstate s p v).far = s.far := rfl
@[simp] theorem setPstate_cip (s : State) (p : Nat) (v : PState) : (setPstate s p v).cip = s.cip := rfl
@[simp] theorem setPstate_bnd (s : State) (p : Nat) (v : PState) : (setPstate s p v).bnd = s.bnd := rfl
@[simp] theorem setPstate_folio (s : State) (p : Nat) (v : PState) : (setPstate s p v).folio = s.folio := rfl
@[simp] theorem setPstate_sec (s : State) (p : Nat) (v : PState) : (setPstate s p v).sec = s.sec := rfl
@[simp] theorem setPstate_cxl (s : State) (p : Nat) (v : PState) : (setPstate s p v).cxl = s.cxl := rfl
@[simp] theorem setPstate_rst (s : State) (p : Nat) (v : PState) : (setPstate s p v).rst = s.rst := rfl
@[simp] theorem setPstate_pwr (s : State) (p : Nat) (v : PState) : (setPstate s p v).pwr = s.pwr := rfl
@[simp] theorem setPstate_jante (s : State) (p : Nat) (v : PState) : (setPstate s p v).jante = s.jante := rfl
@[simp] theorem setPstate_devReset (s : State) (p : Nat) (v : PState) : (setPstate s p v).devReset = s.devReset := rfl
@[simp] theorem setPstate_perst (s : State) (p : Nat) (v : PState) : (setPstate s p v).perst = s.perst := rfl
@[simp] theorem setPstate_freeCtr (s : State) (p : Nat) (v : PState) : (setPstate s p v).freeCtr = s.freeCtr := rfl
@[simp] theorem setPstate_out (s : State) (p : Nat) (v : PState) : (setPstate s p v).out = s.out := rfl

/-! `setMailbox` changes `jante` alone. -/
@[simp] theorem setMailbox_pending (s : State) (i : Nat) (x : Mailbox) : (setMailbox s i x).pending = s.pending := rfl
@[simp] theorem setMailbox_dev (s : State) (i : Nat) (x : Mailbox) : (setMailbox s i x).dev = s.dev := rfl
@[simp] theorem setMailbox_absent (s : State) (i : Nat) (x : Mailbox) : (setMailbox s i x).absent = s.absent := rfl
@[simp] theorem setMailbox_pstates (s : State) (i : Nat) (x : Mailbox) : (setMailbox s i x).pstates = s.pstates := rfl
@[simp] theorem setMailbox_engines (s : State) (i : Nat) (x : Mailbox) : (setMailbox s i x).engines = s.engines := rfl
@[simp] theorem setMailbox_movers (s : State) (i : Nat) (x : Mailbox) : (setMailbox s i x).movers = s.movers := rfl
@[simp] theorem setMailbox_mem (s : State) (i : Nat) (x : Mailbox) : (setMailbox s i x).mem = s.mem := rfl
@[simp] theorem setMailbox_gil (s : State) (i : Nat) (x : Mailbox) : (setMailbox s i x).gil = s.gil := rfl
@[simp] theorem setMailbox_gilLoose (s : State) (i : Nat) (x : Mailbox) : (setMailbox s i x).gilLoose = s.gilLoose := rfl
@[simp] theorem setMailbox_hbm (s : State) (i : Nat) (x : Mailbox) : (setMailbox s i x).hbm = s.hbm := rfl
@[simp] theorem setMailbox_sram (s : State) (i : Nat) (x : Mailbox) : (setMailbox s i x).sram = s.sram := rfl
@[simp] theorem setMailbox_sheet (s : State) (i : Nat) (x : Mailbox) : (setMailbox s i x).sheet = s.sheet := rfl
@[simp] theorem setMailbox_hbmPoison (s : State) (i : Nat) (x : Mailbox) : (setMailbox s i x).hbmPoison = s.hbmPoison := rfl
@[simp] theorem setMailbox_sramPoison (s : State) (i : Nat) (x : Mailbox) : (setMailbox s i x).sramPoison = s.sramPoison := rfl
@[simp] theorem setMailbox_sramFlips (s : State) (i : Nat) (x : Mailbox) : (setMailbox s i x).sramFlips = s.sramFlips := rfl
@[simp] theorem setMailbox_tabA (s : State) (i : Nat) (x : Mailbox) : (setMailbox s i x).tabA = s.tabA := rfl
@[simp] theorem setMailbox_tabB (s : State) (i : Nat) (x : Mailbox) : (setMailbox s i x).tabB = s.tabB := rfl
@[simp] theorem setMailbox_cal (s : State) (i : Nat) (x : Mailbox) : (setMailbox s i x).cal = s.cal := rfl
@[simp] theorem setMailbox_tok (s : State) (i : Nat) (x : Mailbox) : (setMailbox s i x).tok = s.tok := rfl
@[simp] theorem setMailbox_rpr (s : State) (i : Nat) (x : Mailbox) : (setMailbox s i x).rpr = s.rpr := rfl
@[simp] theorem setMailbox_fill (s : State) (i : Nat) (x : Mailbox) : (setMailbox s i x).fill = s.fill := rfl
@[simp] theorem setMailbox_bus (s : State) (i : Nat) (x : Mailbox) : (setMailbox s i x).bus = s.bus := rfl
@[simp] theorem setMailbox_spanlds (s : State) (i : Nat) (x : Mailbox) : (setMailbox s i x).spanlds = s.spanlds := rfl
@[simp] theorem setMailbox_cmp (s : State) (i : Nat) (x : Mailbox) : (setMailbox s i x).cmp = s.cmp := rfl
@[simp] theorem setMailbox_cmpLoading (s : State) (i : Nat) (x : Mailbox) : (setMailbox s i x).cmpLoading = s.cmpLoading := rfl
@[simp] theorem setMailbox_links (s : State) (i : Nat) (x : Mailbox) : (setMailbox s i x).links = s.links := rfl
@[simp] theorem setMailbox_sets (s : State) (i : Nat) (x : Mailbox) : (setMailbox s i x).sets = s.sets := rfl
@[simp] theorem setMailbox_setErr (s : State) (i : Nat) (x : Mailbox) : (setMailbox s i x).setErr = s.setErr := rfl
@[simp] theorem setMailbox_upd (s : State) (i : Nat) (x : Mailbox) : (setMailbox s i x).upd = s.upd := rfl
@[simp] theorem setMailbox_kept (s : State) (i : Nat) (x : Mailbox) : (setMailbox s i x).kept = s.kept := rfl
@[simp] theorem setMailbox_far (s : State) (i : Nat) (x : Mailbox) : (setMailbox s i x).far = s.far := rfl
@[simp] theorem setMailbox_cip (s : State) (i : Nat) (x : Mailbox) : (setMailbox s i x).cip = s.cip := rfl
@[simp] theorem setMailbox_bnd (s : State) (i : Nat) (x : Mailbox) : (setMailbox s i x).bnd = s.bnd := rfl
@[simp] theorem setMailbox_folio (s : State) (i : Nat) (x : Mailbox) : (setMailbox s i x).folio = s.folio := rfl
@[simp] theorem setMailbox_sec (s : State) (i : Nat) (x : Mailbox) : (setMailbox s i x).sec = s.sec := rfl
@[simp] theorem setMailbox_cxl (s : State) (i : Nat) (x : Mailbox) : (setMailbox s i x).cxl = s.cxl := rfl
@[simp] theorem setMailbox_rst (s : State) (i : Nat) (x : Mailbox) : (setMailbox s i x).rst = s.rst := rfl
@[simp] theorem setMailbox_pwr (s : State) (i : Nat) (x : Mailbox) : (setMailbox s i x).pwr = s.pwr := rfl
@[simp] theorem setMailbox_devReset (s : State) (i : Nat) (x : Mailbox) : (setMailbox s i x).devReset = s.devReset := rfl
@[simp] theorem setMailbox_perst (s : State) (i : Nat) (x : Mailbox) : (setMailbox s i x).perst = s.perst := rfl
@[simp] theorem setMailbox_freeCtr (s : State) (i : Nat) (x : Mailbox) : (setMailbox s i x).freeCtr = s.freeCtr := rfl
@[simp] theorem setMailbox_out (s : State) (i : Nat) (x : Mailbox) : (setMailbox s i x).out = s.out := rfl

/-! `setLink` changes `links` alone. -/
@[simp] theorem setLink_pending (s : State) (n : Nat) (x : Link) : (setLink s n x).pending = s.pending := rfl
@[simp] theorem setLink_dev (s : State) (n : Nat) (x : Link) : (setLink s n x).dev = s.dev := rfl
@[simp] theorem setLink_absent (s : State) (n : Nat) (x : Link) : (setLink s n x).absent = s.absent := rfl
@[simp] theorem setLink_pstates (s : State) (n : Nat) (x : Link) : (setLink s n x).pstates = s.pstates := rfl
@[simp] theorem setLink_engines (s : State) (n : Nat) (x : Link) : (setLink s n x).engines = s.engines := rfl
@[simp] theorem setLink_movers (s : State) (n : Nat) (x : Link) : (setLink s n x).movers = s.movers := rfl
@[simp] theorem setLink_mem (s : State) (n : Nat) (x : Link) : (setLink s n x).mem = s.mem := rfl
@[simp] theorem setLink_gil (s : State) (n : Nat) (x : Link) : (setLink s n x).gil = s.gil := rfl
@[simp] theorem setLink_gilLoose (s : State) (n : Nat) (x : Link) : (setLink s n x).gilLoose = s.gilLoose := rfl
@[simp] theorem setLink_hbm (s : State) (n : Nat) (x : Link) : (setLink s n x).hbm = s.hbm := rfl
@[simp] theorem setLink_sram (s : State) (n : Nat) (x : Link) : (setLink s n x).sram = s.sram := rfl
@[simp] theorem setLink_sheet (s : State) (n : Nat) (x : Link) : (setLink s n x).sheet = s.sheet := rfl
@[simp] theorem setLink_hbmPoison (s : State) (n : Nat) (x : Link) : (setLink s n x).hbmPoison = s.hbmPoison := rfl
@[simp] theorem setLink_sramPoison (s : State) (n : Nat) (x : Link) : (setLink s n x).sramPoison = s.sramPoison := rfl
@[simp] theorem setLink_sramFlips (s : State) (n : Nat) (x : Link) : (setLink s n x).sramFlips = s.sramFlips := rfl
@[simp] theorem setLink_tabA (s : State) (n : Nat) (x : Link) : (setLink s n x).tabA = s.tabA := rfl
@[simp] theorem setLink_tabB (s : State) (n : Nat) (x : Link) : (setLink s n x).tabB = s.tabB := rfl
@[simp] theorem setLink_cal (s : State) (n : Nat) (x : Link) : (setLink s n x).cal = s.cal := rfl
@[simp] theorem setLink_tok (s : State) (n : Nat) (x : Link) : (setLink s n x).tok = s.tok := rfl
@[simp] theorem setLink_rpr (s : State) (n : Nat) (x : Link) : (setLink s n x).rpr = s.rpr := rfl
@[simp] theorem setLink_fill (s : State) (n : Nat) (x : Link) : (setLink s n x).fill = s.fill := rfl
@[simp] theorem setLink_bus (s : State) (n : Nat) (x : Link) : (setLink s n x).bus = s.bus := rfl
@[simp] theorem setLink_spanlds (s : State) (n : Nat) (x : Link) : (setLink s n x).spanlds = s.spanlds := rfl
@[simp] theorem setLink_cmp (s : State) (n : Nat) (x : Link) : (setLink s n x).cmp = s.cmp := rfl
@[simp] theorem setLink_cmpLoading (s : State) (n : Nat) (x : Link) : (setLink s n x).cmpLoading = s.cmpLoading := rfl
@[simp] theorem setLink_sets (s : State) (n : Nat) (x : Link) : (setLink s n x).sets = s.sets := rfl
@[simp] theorem setLink_setErr (s : State) (n : Nat) (x : Link) : (setLink s n x).setErr = s.setErr := rfl
@[simp] theorem setLink_upd (s : State) (n : Nat) (x : Link) : (setLink s n x).upd = s.upd := rfl
@[simp] theorem setLink_kept (s : State) (n : Nat) (x : Link) : (setLink s n x).kept = s.kept := rfl
@[simp] theorem setLink_far (s : State) (n : Nat) (x : Link) : (setLink s n x).far = s.far := rfl
@[simp] theorem setLink_cip (s : State) (n : Nat) (x : Link) : (setLink s n x).cip = s.cip := rfl
@[simp] theorem setLink_bnd (s : State) (n : Nat) (x : Link) : (setLink s n x).bnd = s.bnd := rfl
@[simp] theorem setLink_folio (s : State) (n : Nat) (x : Link) : (setLink s n x).folio = s.folio := rfl
@[simp] theorem setLink_sec (s : State) (n : Nat) (x : Link) : (setLink s n x).sec = s.sec := rfl
@[simp] theorem setLink_cxl (s : State) (n : Nat) (x : Link) : (setLink s n x).cxl = s.cxl := rfl
@[simp] theorem setLink_rst (s : State) (n : Nat) (x : Link) : (setLink s n x).rst = s.rst := rfl
@[simp] theorem setLink_pwr (s : State) (n : Nat) (x : Link) : (setLink s n x).pwr = s.pwr := rfl
@[simp] theorem setLink_jante (s : State) (n : Nat) (x : Link) : (setLink s n x).jante = s.jante := rfl
@[simp] theorem setLink_devReset (s : State) (n : Nat) (x : Link) : (setLink s n x).devReset = s.devReset := rfl
@[simp] theorem setLink_perst (s : State) (n : Nat) (x : Link) : (setLink s n x).perst = s.perst := rfl
@[simp] theorem setLink_freeCtr (s : State) (n : Nat) (x : Link) : (setLink s n x).freeCtr = s.freeCtr := rfl
@[simp] theorem setLink_out (s : State) (n : Nat) (x : Link) : (setLink s n x).out = s.out := rfl

/-! `setSet` changes `sets` alone. -/
@[simp] theorem setSet_pending (s : State) (n : Nat) (x : SetSt) : (setSet s n x).pending = s.pending := rfl
@[simp] theorem setSet_dev (s : State) (n : Nat) (x : SetSt) : (setSet s n x).dev = s.dev := rfl
@[simp] theorem setSet_absent (s : State) (n : Nat) (x : SetSt) : (setSet s n x).absent = s.absent := rfl
@[simp] theorem setSet_pstates (s : State) (n : Nat) (x : SetSt) : (setSet s n x).pstates = s.pstates := rfl
@[simp] theorem setSet_engines (s : State) (n : Nat) (x : SetSt) : (setSet s n x).engines = s.engines := rfl
@[simp] theorem setSet_movers (s : State) (n : Nat) (x : SetSt) : (setSet s n x).movers = s.movers := rfl
@[simp] theorem setSet_mem (s : State) (n : Nat) (x : SetSt) : (setSet s n x).mem = s.mem := rfl
@[simp] theorem setSet_gil (s : State) (n : Nat) (x : SetSt) : (setSet s n x).gil = s.gil := rfl
@[simp] theorem setSet_gilLoose (s : State) (n : Nat) (x : SetSt) : (setSet s n x).gilLoose = s.gilLoose := rfl
@[simp] theorem setSet_hbm (s : State) (n : Nat) (x : SetSt) : (setSet s n x).hbm = s.hbm := rfl
@[simp] theorem setSet_sram (s : State) (n : Nat) (x : SetSt) : (setSet s n x).sram = s.sram := rfl
@[simp] theorem setSet_sheet (s : State) (n : Nat) (x : SetSt) : (setSet s n x).sheet = s.sheet := rfl
@[simp] theorem setSet_hbmPoison (s : State) (n : Nat) (x : SetSt) : (setSet s n x).hbmPoison = s.hbmPoison := rfl
@[simp] theorem setSet_sramPoison (s : State) (n : Nat) (x : SetSt) : (setSet s n x).sramPoison = s.sramPoison := rfl
@[simp] theorem setSet_sramFlips (s : State) (n : Nat) (x : SetSt) : (setSet s n x).sramFlips = s.sramFlips := rfl
@[simp] theorem setSet_tabA (s : State) (n : Nat) (x : SetSt) : (setSet s n x).tabA = s.tabA := rfl
@[simp] theorem setSet_tabB (s : State) (n : Nat) (x : SetSt) : (setSet s n x).tabB = s.tabB := rfl
@[simp] theorem setSet_cal (s : State) (n : Nat) (x : SetSt) : (setSet s n x).cal = s.cal := rfl
@[simp] theorem setSet_tok (s : State) (n : Nat) (x : SetSt) : (setSet s n x).tok = s.tok := rfl
@[simp] theorem setSet_rpr (s : State) (n : Nat) (x : SetSt) : (setSet s n x).rpr = s.rpr := rfl
@[simp] theorem setSet_fill (s : State) (n : Nat) (x : SetSt) : (setSet s n x).fill = s.fill := rfl
@[simp] theorem setSet_bus (s : State) (n : Nat) (x : SetSt) : (setSet s n x).bus = s.bus := rfl
@[simp] theorem setSet_spanlds (s : State) (n : Nat) (x : SetSt) : (setSet s n x).spanlds = s.spanlds := rfl
@[simp] theorem setSet_cmp (s : State) (n : Nat) (x : SetSt) : (setSet s n x).cmp = s.cmp := rfl
@[simp] theorem setSet_cmpLoading (s : State) (n : Nat) (x : SetSt) : (setSet s n x).cmpLoading = s.cmpLoading := rfl
@[simp] theorem setSet_links (s : State) (n : Nat) (x : SetSt) : (setSet s n x).links = s.links := rfl
@[simp] theorem setSet_setErr (s : State) (n : Nat) (x : SetSt) : (setSet s n x).setErr = s.setErr := rfl
@[simp] theorem setSet_upd (s : State) (n : Nat) (x : SetSt) : (setSet s n x).upd = s.upd := rfl
@[simp] theorem setSet_kept (s : State) (n : Nat) (x : SetSt) : (setSet s n x).kept = s.kept := rfl
@[simp] theorem setSet_far (s : State) (n : Nat) (x : SetSt) : (setSet s n x).far = s.far := rfl
@[simp] theorem setSet_cip (s : State) (n : Nat) (x : SetSt) : (setSet s n x).cip = s.cip := rfl
@[simp] theorem setSet_bnd (s : State) (n : Nat) (x : SetSt) : (setSet s n x).bnd = s.bnd := rfl
@[simp] theorem setSet_folio (s : State) (n : Nat) (x : SetSt) : (setSet s n x).folio = s.folio := rfl
@[simp] theorem setSet_sec (s : State) (n : Nat) (x : SetSt) : (setSet s n x).sec = s.sec := rfl
@[simp] theorem setSet_cxl (s : State) (n : Nat) (x : SetSt) : (setSet s n x).cxl = s.cxl := rfl
@[simp] theorem setSet_rst (s : State) (n : Nat) (x : SetSt) : (setSet s n x).rst = s.rst := rfl
@[simp] theorem setSet_pwr (s : State) (n : Nat) (x : SetSt) : (setSet s n x).pwr = s.pwr := rfl
@[simp] theorem setSet_jante (s : State) (n : Nat) (x : SetSt) : (setSet s n x).jante = s.jante := rfl
@[simp] theorem setSet_devReset (s : State) (n : Nat) (x : SetSt) : (setSet s n x).devReset = s.devReset := rfl
@[simp] theorem setSet_perst (s : State) (n : Nat) (x : SetSt) : (setSet s n x).perst = s.perst := rfl
@[simp] theorem setSet_freeCtr (s : State) (n : Nat) (x : SetSt) : (setSet s n x).freeCtr = s.freeCtr := rfl
@[simp] theorem setSet_out (s : State) (n : Nat) (x : SetSt) : (setSet s n x).out = s.out := rfl

/-! `setCmp` changes `cmp` alone. -/
@[simp] theorem setCmp_pending (s : State) (p : Nat) (x : Cmp) : (setCmp s p x).pending = s.pending := rfl
@[simp] theorem setCmp_dev (s : State) (p : Nat) (x : Cmp) : (setCmp s p x).dev = s.dev := rfl
@[simp] theorem setCmp_absent (s : State) (p : Nat) (x : Cmp) : (setCmp s p x).absent = s.absent := rfl
@[simp] theorem setCmp_pstates (s : State) (p : Nat) (x : Cmp) : (setCmp s p x).pstates = s.pstates := rfl
@[simp] theorem setCmp_engines (s : State) (p : Nat) (x : Cmp) : (setCmp s p x).engines = s.engines := rfl
@[simp] theorem setCmp_movers (s : State) (p : Nat) (x : Cmp) : (setCmp s p x).movers = s.movers := rfl
@[simp] theorem setCmp_mem (s : State) (p : Nat) (x : Cmp) : (setCmp s p x).mem = s.mem := rfl
@[simp] theorem setCmp_gil (s : State) (p : Nat) (x : Cmp) : (setCmp s p x).gil = s.gil := rfl
@[simp] theorem setCmp_gilLoose (s : State) (p : Nat) (x : Cmp) : (setCmp s p x).gilLoose = s.gilLoose := rfl
@[simp] theorem setCmp_hbm (s : State) (p : Nat) (x : Cmp) : (setCmp s p x).hbm = s.hbm := rfl
@[simp] theorem setCmp_sram (s : State) (p : Nat) (x : Cmp) : (setCmp s p x).sram = s.sram := rfl
@[simp] theorem setCmp_sheet (s : State) (p : Nat) (x : Cmp) : (setCmp s p x).sheet = s.sheet := rfl
@[simp] theorem setCmp_hbmPoison (s : State) (p : Nat) (x : Cmp) : (setCmp s p x).hbmPoison = s.hbmPoison := rfl
@[simp] theorem setCmp_sramPoison (s : State) (p : Nat) (x : Cmp) : (setCmp s p x).sramPoison = s.sramPoison := rfl
@[simp] theorem setCmp_sramFlips (s : State) (p : Nat) (x : Cmp) : (setCmp s p x).sramFlips = s.sramFlips := rfl
@[simp] theorem setCmp_tabA (s : State) (p : Nat) (x : Cmp) : (setCmp s p x).tabA = s.tabA := rfl
@[simp] theorem setCmp_tabB (s : State) (p : Nat) (x : Cmp) : (setCmp s p x).tabB = s.tabB := rfl
@[simp] theorem setCmp_cal (s : State) (p : Nat) (x : Cmp) : (setCmp s p x).cal = s.cal := rfl
@[simp] theorem setCmp_tok (s : State) (p : Nat) (x : Cmp) : (setCmp s p x).tok = s.tok := rfl
@[simp] theorem setCmp_rpr (s : State) (p : Nat) (x : Cmp) : (setCmp s p x).rpr = s.rpr := rfl
@[simp] theorem setCmp_fill (s : State) (p : Nat) (x : Cmp) : (setCmp s p x).fill = s.fill := rfl
@[simp] theorem setCmp_bus (s : State) (p : Nat) (x : Cmp) : (setCmp s p x).bus = s.bus := rfl
@[simp] theorem setCmp_spanlds (s : State) (p : Nat) (x : Cmp) : (setCmp s p x).spanlds = s.spanlds := rfl
@[simp] theorem setCmp_cmpLoading (s : State) (p : Nat) (x : Cmp) : (setCmp s p x).cmpLoading = s.cmpLoading := rfl
@[simp] theorem setCmp_links (s : State) (p : Nat) (x : Cmp) : (setCmp s p x).links = s.links := rfl
@[simp] theorem setCmp_sets (s : State) (p : Nat) (x : Cmp) : (setCmp s p x).sets = s.sets := rfl
@[simp] theorem setCmp_setErr (s : State) (p : Nat) (x : Cmp) : (setCmp s p x).setErr = s.setErr := rfl
@[simp] theorem setCmp_upd (s : State) (p : Nat) (x : Cmp) : (setCmp s p x).upd = s.upd := rfl
@[simp] theorem setCmp_kept (s : State) (p : Nat) (x : Cmp) : (setCmp s p x).kept = s.kept := rfl
@[simp] theorem setCmp_far (s : State) (p : Nat) (x : Cmp) : (setCmp s p x).far = s.far := rfl
@[simp] theorem setCmp_cip (s : State) (p : Nat) (x : Cmp) : (setCmp s p x).cip = s.cip := rfl
@[simp] theorem setCmp_bnd (s : State) (p : Nat) (x : Cmp) : (setCmp s p x).bnd = s.bnd := rfl
@[simp] theorem setCmp_folio (s : State) (p : Nat) (x : Cmp) : (setCmp s p x).folio = s.folio := rfl
@[simp] theorem setCmp_sec (s : State) (p : Nat) (x : Cmp) : (setCmp s p x).sec = s.sec := rfl
@[simp] theorem setCmp_cxl (s : State) (p : Nat) (x : Cmp) : (setCmp s p x).cxl = s.cxl := rfl
@[simp] theorem setCmp_rst (s : State) (p : Nat) (x : Cmp) : (setCmp s p x).rst = s.rst := rfl
@[simp] theorem setCmp_pwr (s : State) (p : Nat) (x : Cmp) : (setCmp s p x).pwr = s.pwr := rfl
@[simp] theorem setCmp_jante (s : State) (p : Nat) (x : Cmp) : (setCmp s p x).jante = s.jante := rfl
@[simp] theorem setCmp_devReset (s : State) (p : Nat) (x : Cmp) : (setCmp s p x).devReset = s.devReset := rfl
@[simp] theorem setCmp_perst (s : State) (p : Nat) (x : Cmp) : (setCmp s p x).perst = s.perst := rfl
@[simp] theorem setCmp_freeCtr (s : State) (p : Nat) (x : Cmp) : (setCmp s p x).freeCtr = s.freeCtr := rfl
@[simp] theorem setCmp_out (s : State) (p : Nat) (x : Cmp) : (setCmp s p x).out = s.out := rfl

/-! `setUpd` changes `upd` alone. -/
@[simp] theorem setUpd_pending (s : State) (p : Nat) (x : Upd) : (setUpd s p x).pending = s.pending := rfl
@[simp] theorem setUpd_dev (s : State) (p : Nat) (x : Upd) : (setUpd s p x).dev = s.dev := rfl
@[simp] theorem setUpd_absent (s : State) (p : Nat) (x : Upd) : (setUpd s p x).absent = s.absent := rfl
@[simp] theorem setUpd_pstates (s : State) (p : Nat) (x : Upd) : (setUpd s p x).pstates = s.pstates := rfl
@[simp] theorem setUpd_engines (s : State) (p : Nat) (x : Upd) : (setUpd s p x).engines = s.engines := rfl
@[simp] theorem setUpd_movers (s : State) (p : Nat) (x : Upd) : (setUpd s p x).movers = s.movers := rfl
@[simp] theorem setUpd_mem (s : State) (p : Nat) (x : Upd) : (setUpd s p x).mem = s.mem := rfl
@[simp] theorem setUpd_gil (s : State) (p : Nat) (x : Upd) : (setUpd s p x).gil = s.gil := rfl
@[simp] theorem setUpd_gilLoose (s : State) (p : Nat) (x : Upd) : (setUpd s p x).gilLoose = s.gilLoose := rfl
@[simp] theorem setUpd_hbm (s : State) (p : Nat) (x : Upd) : (setUpd s p x).hbm = s.hbm := rfl
@[simp] theorem setUpd_sram (s : State) (p : Nat) (x : Upd) : (setUpd s p x).sram = s.sram := rfl
@[simp] theorem setUpd_sheet (s : State) (p : Nat) (x : Upd) : (setUpd s p x).sheet = s.sheet := rfl
@[simp] theorem setUpd_hbmPoison (s : State) (p : Nat) (x : Upd) : (setUpd s p x).hbmPoison = s.hbmPoison := rfl
@[simp] theorem setUpd_sramPoison (s : State) (p : Nat) (x : Upd) : (setUpd s p x).sramPoison = s.sramPoison := rfl
@[simp] theorem setUpd_sramFlips (s : State) (p : Nat) (x : Upd) : (setUpd s p x).sramFlips = s.sramFlips := rfl
@[simp] theorem setUpd_tabA (s : State) (p : Nat) (x : Upd) : (setUpd s p x).tabA = s.tabA := rfl
@[simp] theorem setUpd_tabB (s : State) (p : Nat) (x : Upd) : (setUpd s p x).tabB = s.tabB := rfl
@[simp] theorem setUpd_cal (s : State) (p : Nat) (x : Upd) : (setUpd s p x).cal = s.cal := rfl
@[simp] theorem setUpd_tok (s : State) (p : Nat) (x : Upd) : (setUpd s p x).tok = s.tok := rfl
@[simp] theorem setUpd_rpr (s : State) (p : Nat) (x : Upd) : (setUpd s p x).rpr = s.rpr := rfl
@[simp] theorem setUpd_fill (s : State) (p : Nat) (x : Upd) : (setUpd s p x).fill = s.fill := rfl
@[simp] theorem setUpd_bus (s : State) (p : Nat) (x : Upd) : (setUpd s p x).bus = s.bus := rfl
@[simp] theorem setUpd_spanlds (s : State) (p : Nat) (x : Upd) : (setUpd s p x).spanlds = s.spanlds := rfl
@[simp] theorem setUpd_cmp (s : State) (p : Nat) (x : Upd) : (setUpd s p x).cmp = s.cmp := rfl
@[simp] theorem setUpd_cmpLoading (s : State) (p : Nat) (x : Upd) : (setUpd s p x).cmpLoading = s.cmpLoading := rfl
@[simp] theorem setUpd_links (s : State) (p : Nat) (x : Upd) : (setUpd s p x).links = s.links := rfl
@[simp] theorem setUpd_sets (s : State) (p : Nat) (x : Upd) : (setUpd s p x).sets = s.sets := rfl
@[simp] theorem setUpd_setErr (s : State) (p : Nat) (x : Upd) : (setUpd s p x).setErr = s.setErr := rfl
@[simp] theorem setUpd_kept (s : State) (p : Nat) (x : Upd) : (setUpd s p x).kept = s.kept := rfl
@[simp] theorem setUpd_far (s : State) (p : Nat) (x : Upd) : (setUpd s p x).far = s.far := rfl
@[simp] theorem setUpd_cip (s : State) (p : Nat) (x : Upd) : (setUpd s p x).cip = s.cip := rfl
@[simp] theorem setUpd_bnd (s : State) (p : Nat) (x : Upd) : (setUpd s p x).bnd = s.bnd := rfl
@[simp] theorem setUpd_folio (s : State) (p : Nat) (x : Upd) : (setUpd s p x).folio = s.folio := rfl
@[simp] theorem setUpd_sec (s : State) (p : Nat) (x : Upd) : (setUpd s p x).sec = s.sec := rfl
@[simp] theorem setUpd_cxl (s : State) (p : Nat) (x : Upd) : (setUpd s p x).cxl = s.cxl := rfl
@[simp] theorem setUpd_rst (s : State) (p : Nat) (x : Upd) : (setUpd s p x).rst = s.rst := rfl
@[simp] theorem setUpd_pwr (s : State) (p : Nat) (x : Upd) : (setUpd s p x).pwr = s.pwr := rfl
@[simp] theorem setUpd_jante (s : State) (p : Nat) (x : Upd) : (setUpd s p x).jante = s.jante := rfl
@[simp] theorem setUpd_devReset (s : State) (p : Nat) (x : Upd) : (setUpd s p x).devReset = s.devReset := rfl
@[simp] theorem setUpd_perst (s : State) (p : Nat) (x : Upd) : (setUpd s p x).perst = s.perst := rfl
@[simp] theorem setUpd_freeCtr (s : State) (p : Nat) (x : Upd) : (setUpd s p x).freeCtr = s.freeCtr := rfl
@[simp] theorem setUpd_out (s : State) (p : Nat) (x : Upd) : (setUpd s p x).out = s.out := rfl

/-! `updFolio` changes `folio` alone. -/
@[simp] theorem updFolio_pending (s : State) (f : Folio → Folio) : (updFolio s f).pending = s.pending := rfl
@[simp] theorem updFolio_dev (s : State) (f : Folio → Folio) : (updFolio s f).dev = s.dev := rfl
@[simp] theorem updFolio_absent (s : State) (f : Folio → Folio) : (updFolio s f).absent = s.absent := rfl
@[simp] theorem updFolio_pstates (s : State) (f : Folio → Folio) : (updFolio s f).pstates = s.pstates := rfl
@[simp] theorem updFolio_engines (s : State) (f : Folio → Folio) : (updFolio s f).engines = s.engines := rfl
@[simp] theorem updFolio_movers (s : State) (f : Folio → Folio) : (updFolio s f).movers = s.movers := rfl
@[simp] theorem updFolio_mem (s : State) (f : Folio → Folio) : (updFolio s f).mem = s.mem := rfl
@[simp] theorem updFolio_gil (s : State) (f : Folio → Folio) : (updFolio s f).gil = s.gil := rfl
@[simp] theorem updFolio_gilLoose (s : State) (f : Folio → Folio) : (updFolio s f).gilLoose = s.gilLoose := rfl
@[simp] theorem updFolio_hbm (s : State) (f : Folio → Folio) : (updFolio s f).hbm = s.hbm := rfl
@[simp] theorem updFolio_sram (s : State) (f : Folio → Folio) : (updFolio s f).sram = s.sram := rfl
@[simp] theorem updFolio_sheet (s : State) (f : Folio → Folio) : (updFolio s f).sheet = s.sheet := rfl
@[simp] theorem updFolio_hbmPoison (s : State) (f : Folio → Folio) : (updFolio s f).hbmPoison = s.hbmPoison := rfl
@[simp] theorem updFolio_sramPoison (s : State) (f : Folio → Folio) : (updFolio s f).sramPoison = s.sramPoison := rfl
@[simp] theorem updFolio_sramFlips (s : State) (f : Folio → Folio) : (updFolio s f).sramFlips = s.sramFlips := rfl
@[simp] theorem updFolio_tabA (s : State) (f : Folio → Folio) : (updFolio s f).tabA = s.tabA := rfl
@[simp] theorem updFolio_tabB (s : State) (f : Folio → Folio) : (updFolio s f).tabB = s.tabB := rfl
@[simp] theorem updFolio_cal (s : State) (f : Folio → Folio) : (updFolio s f).cal = s.cal := rfl
@[simp] theorem updFolio_tok (s : State) (f : Folio → Folio) : (updFolio s f).tok = s.tok := rfl
@[simp] theorem updFolio_rpr (s : State) (f : Folio → Folio) : (updFolio s f).rpr = s.rpr := rfl
@[simp] theorem updFolio_fill (s : State) (f : Folio → Folio) : (updFolio s f).fill = s.fill := rfl
@[simp] theorem updFolio_bus (s : State) (f : Folio → Folio) : (updFolio s f).bus = s.bus := rfl
@[simp] theorem updFolio_spanlds (s : State) (f : Folio → Folio) : (updFolio s f).spanlds = s.spanlds := rfl
@[simp] theorem updFolio_cmp (s : State) (f : Folio → Folio) : (updFolio s f).cmp = s.cmp := rfl
@[simp] theorem updFolio_cmpLoading (s : State) (f : Folio → Folio) : (updFolio s f).cmpLoading = s.cmpLoading := rfl
@[simp] theorem updFolio_links (s : State) (f : Folio → Folio) : (updFolio s f).links = s.links := rfl
@[simp] theorem updFolio_sets (s : State) (f : Folio → Folio) : (updFolio s f).sets = s.sets := rfl
@[simp] theorem updFolio_setErr (s : State) (f : Folio → Folio) : (updFolio s f).setErr = s.setErr := rfl
@[simp] theorem updFolio_upd (s : State) (f : Folio → Folio) : (updFolio s f).upd = s.upd := rfl
@[simp] theorem updFolio_kept (s : State) (f : Folio → Folio) : (updFolio s f).kept = s.kept := rfl
@[simp] theorem updFolio_far (s : State) (f : Folio → Folio) : (updFolio s f).far = s.far := rfl
@[simp] theorem updFolio_cip (s : State) (f : Folio → Folio) : (updFolio s f).cip = s.cip := rfl
@[simp] theorem updFolio_bnd (s : State) (f : Folio → Folio) : (updFolio s f).bnd = s.bnd := rfl
@[simp] theorem updFolio_sec (s : State) (f : Folio → Folio) : (updFolio s f).sec = s.sec := rfl
@[simp] theorem updFolio_cxl (s : State) (f : Folio → Folio) : (updFolio s f).cxl = s.cxl := rfl
@[simp] theorem updFolio_rst (s : State) (f : Folio → Folio) : (updFolio s f).rst = s.rst := rfl
@[simp] theorem updFolio_pwr (s : State) (f : Folio → Folio) : (updFolio s f).pwr = s.pwr := rfl
@[simp] theorem updFolio_jante (s : State) (f : Folio → Folio) : (updFolio s f).jante = s.jante := rfl
@[simp] theorem updFolio_devReset (s : State) (f : Folio → Folio) : (updFolio s f).devReset = s.devReset := rfl
@[simp] theorem updFolio_perst (s : State) (f : Folio → Folio) : (updFolio s f).perst = s.perst := rfl
@[simp] theorem updFolio_freeCtr (s : State) (f : Folio → Folio) : (updFolio s f).freeCtr = s.freeCtr := rfl
@[simp] theorem updFolio_out (s : State) (f : Folio → Folio) : (updFolio s f).out = s.out := rfl

/-! `updSec` changes `sec` alone. -/
@[simp] theorem updSec_pending (s : State) (f : Sec → Sec) : (updSec s f).pending = s.pending := rfl
@[simp] theorem updSec_dev (s : State) (f : Sec → Sec) : (updSec s f).dev = s.dev := rfl
@[simp] theorem updSec_absent (s : State) (f : Sec → Sec) : (updSec s f).absent = s.absent := rfl
@[simp] theorem updSec_pstates (s : State) (f : Sec → Sec) : (updSec s f).pstates = s.pstates := rfl
@[simp] theorem updSec_engines (s : State) (f : Sec → Sec) : (updSec s f).engines = s.engines := rfl
@[simp] theorem updSec_movers (s : State) (f : Sec → Sec) : (updSec s f).movers = s.movers := rfl
@[simp] theorem updSec_mem (s : State) (f : Sec → Sec) : (updSec s f).mem = s.mem := rfl
@[simp] theorem updSec_gil (s : State) (f : Sec → Sec) : (updSec s f).gil = s.gil := rfl
@[simp] theorem updSec_gilLoose (s : State) (f : Sec → Sec) : (updSec s f).gilLoose = s.gilLoose := rfl
@[simp] theorem updSec_hbm (s : State) (f : Sec → Sec) : (updSec s f).hbm = s.hbm := rfl
@[simp] theorem updSec_sram (s : State) (f : Sec → Sec) : (updSec s f).sram = s.sram := rfl
@[simp] theorem updSec_sheet (s : State) (f : Sec → Sec) : (updSec s f).sheet = s.sheet := rfl
@[simp] theorem updSec_hbmPoison (s : State) (f : Sec → Sec) : (updSec s f).hbmPoison = s.hbmPoison := rfl
@[simp] theorem updSec_sramPoison (s : State) (f : Sec → Sec) : (updSec s f).sramPoison = s.sramPoison := rfl
@[simp] theorem updSec_sramFlips (s : State) (f : Sec → Sec) : (updSec s f).sramFlips = s.sramFlips := rfl
@[simp] theorem updSec_tabA (s : State) (f : Sec → Sec) : (updSec s f).tabA = s.tabA := rfl
@[simp] theorem updSec_tabB (s : State) (f : Sec → Sec) : (updSec s f).tabB = s.tabB := rfl
@[simp] theorem updSec_cal (s : State) (f : Sec → Sec) : (updSec s f).cal = s.cal := rfl
@[simp] theorem updSec_tok (s : State) (f : Sec → Sec) : (updSec s f).tok = s.tok := rfl
@[simp] theorem updSec_rpr (s : State) (f : Sec → Sec) : (updSec s f).rpr = s.rpr := rfl
@[simp] theorem updSec_fill (s : State) (f : Sec → Sec) : (updSec s f).fill = s.fill := rfl
@[simp] theorem updSec_bus (s : State) (f : Sec → Sec) : (updSec s f).bus = s.bus := rfl
@[simp] theorem updSec_spanlds (s : State) (f : Sec → Sec) : (updSec s f).spanlds = s.spanlds := rfl
@[simp] theorem updSec_cmp (s : State) (f : Sec → Sec) : (updSec s f).cmp = s.cmp := rfl
@[simp] theorem updSec_cmpLoading (s : State) (f : Sec → Sec) : (updSec s f).cmpLoading = s.cmpLoading := rfl
@[simp] theorem updSec_links (s : State) (f : Sec → Sec) : (updSec s f).links = s.links := rfl
@[simp] theorem updSec_sets (s : State) (f : Sec → Sec) : (updSec s f).sets = s.sets := rfl
@[simp] theorem updSec_setErr (s : State) (f : Sec → Sec) : (updSec s f).setErr = s.setErr := rfl
@[simp] theorem updSec_upd (s : State) (f : Sec → Sec) : (updSec s f).upd = s.upd := rfl
@[simp] theorem updSec_kept (s : State) (f : Sec → Sec) : (updSec s f).kept = s.kept := rfl
@[simp] theorem updSec_far (s : State) (f : Sec → Sec) : (updSec s f).far = s.far := rfl
@[simp] theorem updSec_cip (s : State) (f : Sec → Sec) : (updSec s f).cip = s.cip := rfl
@[simp] theorem updSec_bnd (s : State) (f : Sec → Sec) : (updSec s f).bnd = s.bnd := rfl
@[simp] theorem updSec_folio (s : State) (f : Sec → Sec) : (updSec s f).folio = s.folio := rfl
@[simp] theorem updSec_cxl (s : State) (f : Sec → Sec) : (updSec s f).cxl = s.cxl := rfl
@[simp] theorem updSec_rst (s : State) (f : Sec → Sec) : (updSec s f).rst = s.rst := rfl
@[simp] theorem updSec_pwr (s : State) (f : Sec → Sec) : (updSec s f).pwr = s.pwr := rfl
@[simp] theorem updSec_jante (s : State) (f : Sec → Sec) : (updSec s f).jante = s.jante := rfl
@[simp] theorem updSec_devReset (s : State) (f : Sec → Sec) : (updSec s f).devReset = s.devReset := rfl
@[simp] theorem updSec_perst (s : State) (f : Sec → Sec) : (updSec s f).perst = s.perst := rfl
@[simp] theorem updSec_freeCtr (s : State) (f : Sec → Sec) : (updSec s f).freeCtr = s.freeCtr := rfl
@[simp] theorem updSec_out (s : State) (f : Sec → Sec) : (updSec s f).out = s.out := rfl

/-! `updBnd` changes `bnd` alone. -/
@[simp] theorem updBnd_pending (s : State) (f : Bnd → Bnd) : (updBnd s f).pending = s.pending := rfl
@[simp] theorem updBnd_dev (s : State) (f : Bnd → Bnd) : (updBnd s f).dev = s.dev := rfl
@[simp] theorem updBnd_absent (s : State) (f : Bnd → Bnd) : (updBnd s f).absent = s.absent := rfl
@[simp] theorem updBnd_pstates (s : State) (f : Bnd → Bnd) : (updBnd s f).pstates = s.pstates := rfl
@[simp] theorem updBnd_engines (s : State) (f : Bnd → Bnd) : (updBnd s f).engines = s.engines := rfl
@[simp] theorem updBnd_movers (s : State) (f : Bnd → Bnd) : (updBnd s f).movers = s.movers := rfl
@[simp] theorem updBnd_mem (s : State) (f : Bnd → Bnd) : (updBnd s f).mem = s.mem := rfl
@[simp] theorem updBnd_gil (s : State) (f : Bnd → Bnd) : (updBnd s f).gil = s.gil := rfl
@[simp] theorem updBnd_gilLoose (s : State) (f : Bnd → Bnd) : (updBnd s f).gilLoose = s.gilLoose := rfl
@[simp] theorem updBnd_hbm (s : State) (f : Bnd → Bnd) : (updBnd s f).hbm = s.hbm := rfl
@[simp] theorem updBnd_sram (s : State) (f : Bnd → Bnd) : (updBnd s f).sram = s.sram := rfl
@[simp] theorem updBnd_sheet (s : State) (f : Bnd → Bnd) : (updBnd s f).sheet = s.sheet := rfl
@[simp] theorem updBnd_hbmPoison (s : State) (f : Bnd → Bnd) : (updBnd s f).hbmPoison = s.hbmPoison := rfl
@[simp] theorem updBnd_sramPoison (s : State) (f : Bnd → Bnd) : (updBnd s f).sramPoison = s.sramPoison := rfl
@[simp] theorem updBnd_sramFlips (s : State) (f : Bnd → Bnd) : (updBnd s f).sramFlips = s.sramFlips := rfl
@[simp] theorem updBnd_tabA (s : State) (f : Bnd → Bnd) : (updBnd s f).tabA = s.tabA := rfl
@[simp] theorem updBnd_tabB (s : State) (f : Bnd → Bnd) : (updBnd s f).tabB = s.tabB := rfl
@[simp] theorem updBnd_cal (s : State) (f : Bnd → Bnd) : (updBnd s f).cal = s.cal := rfl
@[simp] theorem updBnd_tok (s : State) (f : Bnd → Bnd) : (updBnd s f).tok = s.tok := rfl
@[simp] theorem updBnd_rpr (s : State) (f : Bnd → Bnd) : (updBnd s f).rpr = s.rpr := rfl
@[simp] theorem updBnd_fill (s : State) (f : Bnd → Bnd) : (updBnd s f).fill = s.fill := rfl
@[simp] theorem updBnd_bus (s : State) (f : Bnd → Bnd) : (updBnd s f).bus = s.bus := rfl
@[simp] theorem updBnd_spanlds (s : State) (f : Bnd → Bnd) : (updBnd s f).spanlds = s.spanlds := rfl
@[simp] theorem updBnd_cmp (s : State) (f : Bnd → Bnd) : (updBnd s f).cmp = s.cmp := rfl
@[simp] theorem updBnd_cmpLoading (s : State) (f : Bnd → Bnd) : (updBnd s f).cmpLoading = s.cmpLoading := rfl
@[simp] theorem updBnd_links (s : State) (f : Bnd → Bnd) : (updBnd s f).links = s.links := rfl
@[simp] theorem updBnd_sets (s : State) (f : Bnd → Bnd) : (updBnd s f).sets = s.sets := rfl
@[simp] theorem updBnd_setErr (s : State) (f : Bnd → Bnd) : (updBnd s f).setErr = s.setErr := rfl
@[simp] theorem updBnd_upd (s : State) (f : Bnd → Bnd) : (updBnd s f).upd = s.upd := rfl
@[simp] theorem updBnd_kept (s : State) (f : Bnd → Bnd) : (updBnd s f).kept = s.kept := rfl
@[simp] theorem updBnd_far (s : State) (f : Bnd → Bnd) : (updBnd s f).far = s.far := rfl
@[simp] theorem updBnd_cip (s : State) (f : Bnd → Bnd) : (updBnd s f).cip = s.cip := rfl
@[simp] theorem updBnd_folio (s : State) (f : Bnd → Bnd) : (updBnd s f).folio = s.folio := rfl
@[simp] theorem updBnd_sec (s : State) (f : Bnd → Bnd) : (updBnd s f).sec = s.sec := rfl
@[simp] theorem updBnd_cxl (s : State) (f : Bnd → Bnd) : (updBnd s f).cxl = s.cxl := rfl
@[simp] theorem updBnd_rst (s : State) (f : Bnd → Bnd) : (updBnd s f).rst = s.rst := rfl
@[simp] theorem updBnd_pwr (s : State) (f : Bnd → Bnd) : (updBnd s f).pwr = s.pwr := rfl
@[simp] theorem updBnd_jante (s : State) (f : Bnd → Bnd) : (updBnd s f).jante = s.jante := rfl
@[simp] theorem updBnd_devReset (s : State) (f : Bnd → Bnd) : (updBnd s f).devReset = s.devReset := rfl
@[simp] theorem updBnd_perst (s : State) (f : Bnd → Bnd) : (updBnd s f).perst = s.perst := rfl
@[simp] theorem updBnd_freeCtr (s : State) (f : Bnd → Bnd) : (updBnd s f).freeCtr = s.freeCtr := rfl
@[simp] theorem updBnd_out (s : State) (f : Bnd → Bnd) : (updBnd s f).out = s.out := rfl

/-! `updFar` changes `far` alone. -/
@[simp] theorem updFar_pending (s : State) (f : Far → Far) : (updFar s f).pending = s.pending := rfl
@[simp] theorem updFar_dev (s : State) (f : Far → Far) : (updFar s f).dev = s.dev := rfl
@[simp] theorem updFar_absent (s : State) (f : Far → Far) : (updFar s f).absent = s.absent := rfl
@[simp] theorem updFar_pstates (s : State) (f : Far → Far) : (updFar s f).pstates = s.pstates := rfl
@[simp] theorem updFar_engines (s : State) (f : Far → Far) : (updFar s f).engines = s.engines := rfl
@[simp] theorem updFar_movers (s : State) (f : Far → Far) : (updFar s f).movers = s.movers := rfl
@[simp] theorem updFar_mem (s : State) (f : Far → Far) : (updFar s f).mem = s.mem := rfl
@[simp] theorem updFar_gil (s : State) (f : Far → Far) : (updFar s f).gil = s.gil := rfl
@[simp] theorem updFar_gilLoose (s : State) (f : Far → Far) : (updFar s f).gilLoose = s.gilLoose := rfl
@[simp] theorem updFar_hbm (s : State) (f : Far → Far) : (updFar s f).hbm = s.hbm := rfl
@[simp] theorem updFar_sram (s : State) (f : Far → Far) : (updFar s f).sram = s.sram := rfl
@[simp] theorem updFar_sheet (s : State) (f : Far → Far) : (updFar s f).sheet = s.sheet := rfl
@[simp] theorem updFar_hbmPoison (s : State) (f : Far → Far) : (updFar s f).hbmPoison = s.hbmPoison := rfl
@[simp] theorem updFar_sramPoison (s : State) (f : Far → Far) : (updFar s f).sramPoison = s.sramPoison := rfl
@[simp] theorem updFar_sramFlips (s : State) (f : Far → Far) : (updFar s f).sramFlips = s.sramFlips := rfl
@[simp] theorem updFar_tabA (s : State) (f : Far → Far) : (updFar s f).tabA = s.tabA := rfl
@[simp] theorem updFar_tabB (s : State) (f : Far → Far) : (updFar s f).tabB = s.tabB := rfl
@[simp] theorem updFar_cal (s : State) (f : Far → Far) : (updFar s f).cal = s.cal := rfl
@[simp] theorem updFar_tok (s : State) (f : Far → Far) : (updFar s f).tok = s.tok := rfl
@[simp] theorem updFar_rpr (s : State) (f : Far → Far) : (updFar s f).rpr = s.rpr := rfl
@[simp] theorem updFar_fill (s : State) (f : Far → Far) : (updFar s f).fill = s.fill := rfl
@[simp] theorem updFar_bus (s : State) (f : Far → Far) : (updFar s f).bus = s.bus := rfl
@[simp] theorem updFar_spanlds (s : State) (f : Far → Far) : (updFar s f).spanlds = s.spanlds := rfl
@[simp] theorem updFar_cmp (s : State) (f : Far → Far) : (updFar s f).cmp = s.cmp := rfl
@[simp] theorem updFar_cmpLoading (s : State) (f : Far → Far) : (updFar s f).cmpLoading = s.cmpLoading := rfl
@[simp] theorem updFar_links (s : State) (f : Far → Far) : (updFar s f).links = s.links := rfl
@[simp] theorem updFar_sets (s : State) (f : Far → Far) : (updFar s f).sets = s.sets := rfl
@[simp] theorem updFar_setErr (s : State) (f : Far → Far) : (updFar s f).setErr = s.setErr := rfl
@[simp] theorem updFar_upd (s : State) (f : Far → Far) : (updFar s f).upd = s.upd := rfl
@[simp] theorem updFar_kept (s : State) (f : Far → Far) : (updFar s f).kept = s.kept := rfl
@[simp] theorem updFar_cip (s : State) (f : Far → Far) : (updFar s f).cip = s.cip := rfl
@[simp] theorem updFar_bnd (s : State) (f : Far → Far) : (updFar s f).bnd = s.bnd := rfl
@[simp] theorem updFar_folio (s : State) (f : Far → Far) : (updFar s f).folio = s.folio := rfl
@[simp] theorem updFar_sec (s : State) (f : Far → Far) : (updFar s f).sec = s.sec := rfl
@[simp] theorem updFar_cxl (s : State) (f : Far → Far) : (updFar s f).cxl = s.cxl := rfl
@[simp] theorem updFar_rst (s : State) (f : Far → Far) : (updFar s f).rst = s.rst := rfl
@[simp] theorem updFar_pwr (s : State) (f : Far → Far) : (updFar s f).pwr = s.pwr := rfl
@[simp] theorem updFar_jante (s : State) (f : Far → Far) : (updFar s f).jante = s.jante := rfl
@[simp] theorem updFar_devReset (s : State) (f : Far → Far) : (updFar s f).devReset = s.devReset := rfl
@[simp] theorem updFar_perst (s : State) (f : Far → Far) : (updFar s f).perst = s.perst := rfl
@[simp] theorem updFar_freeCtr (s : State) (f : Far → Far) : (updFar s f).freeCtr = s.freeCtr := rfl
@[simp] theorem updFar_out (s : State) (f : Far → Far) : (updFar s f).out = s.out := rfl

/-! `updCip` changes `cip` alone. -/
@[simp] theorem updCip_pending (s : State) (f : Cip → Cip) : (updCip s f).pending = s.pending := rfl
@[simp] theorem updCip_dev (s : State) (f : Cip → Cip) : (updCip s f).dev = s.dev := rfl
@[simp] theorem updCip_absent (s : State) (f : Cip → Cip) : (updCip s f).absent = s.absent := rfl
@[simp] theorem updCip_pstates (s : State) (f : Cip → Cip) : (updCip s f).pstates = s.pstates := rfl
@[simp] theorem updCip_engines (s : State) (f : Cip → Cip) : (updCip s f).engines = s.engines := rfl
@[simp] theorem updCip_movers (s : State) (f : Cip → Cip) : (updCip s f).movers = s.movers := rfl
@[simp] theorem updCip_mem (s : State) (f : Cip → Cip) : (updCip s f).mem = s.mem := rfl
@[simp] theorem updCip_gil (s : State) (f : Cip → Cip) : (updCip s f).gil = s.gil := rfl
@[simp] theorem updCip_gilLoose (s : State) (f : Cip → Cip) : (updCip s f).gilLoose = s.gilLoose := rfl
@[simp] theorem updCip_hbm (s : State) (f : Cip → Cip) : (updCip s f).hbm = s.hbm := rfl
@[simp] theorem updCip_sram (s : State) (f : Cip → Cip) : (updCip s f).sram = s.sram := rfl
@[simp] theorem updCip_sheet (s : State) (f : Cip → Cip) : (updCip s f).sheet = s.sheet := rfl
@[simp] theorem updCip_hbmPoison (s : State) (f : Cip → Cip) : (updCip s f).hbmPoison = s.hbmPoison := rfl
@[simp] theorem updCip_sramPoison (s : State) (f : Cip → Cip) : (updCip s f).sramPoison = s.sramPoison := rfl
@[simp] theorem updCip_sramFlips (s : State) (f : Cip → Cip) : (updCip s f).sramFlips = s.sramFlips := rfl
@[simp] theorem updCip_tabA (s : State) (f : Cip → Cip) : (updCip s f).tabA = s.tabA := rfl
@[simp] theorem updCip_tabB (s : State) (f : Cip → Cip) : (updCip s f).tabB = s.tabB := rfl
@[simp] theorem updCip_cal (s : State) (f : Cip → Cip) : (updCip s f).cal = s.cal := rfl
@[simp] theorem updCip_tok (s : State) (f : Cip → Cip) : (updCip s f).tok = s.tok := rfl
@[simp] theorem updCip_rpr (s : State) (f : Cip → Cip) : (updCip s f).rpr = s.rpr := rfl
@[simp] theorem updCip_fill (s : State) (f : Cip → Cip) : (updCip s f).fill = s.fill := rfl
@[simp] theorem updCip_bus (s : State) (f : Cip → Cip) : (updCip s f).bus = s.bus := rfl
@[simp] theorem updCip_spanlds (s : State) (f : Cip → Cip) : (updCip s f).spanlds = s.spanlds := rfl
@[simp] theorem updCip_cmp (s : State) (f : Cip → Cip) : (updCip s f).cmp = s.cmp := rfl
@[simp] theorem updCip_cmpLoading (s : State) (f : Cip → Cip) : (updCip s f).cmpLoading = s.cmpLoading := rfl
@[simp] theorem updCip_links (s : State) (f : Cip → Cip) : (updCip s f).links = s.links := rfl
@[simp] theorem updCip_sets (s : State) (f : Cip → Cip) : (updCip s f).sets = s.sets := rfl
@[simp] theorem updCip_setErr (s : State) (f : Cip → Cip) : (updCip s f).setErr = s.setErr := rfl
@[simp] theorem updCip_upd (s : State) (f : Cip → Cip) : (updCip s f).upd = s.upd := rfl
@[simp] theorem updCip_kept (s : State) (f : Cip → Cip) : (updCip s f).kept = s.kept := rfl
@[simp] theorem updCip_far (s : State) (f : Cip → Cip) : (updCip s f).far = s.far := rfl
@[simp] theorem updCip_bnd (s : State) (f : Cip → Cip) : (updCip s f).bnd = s.bnd := rfl
@[simp] theorem updCip_folio (s : State) (f : Cip → Cip) : (updCip s f).folio = s.folio := rfl
@[simp] theorem updCip_sec (s : State) (f : Cip → Cip) : (updCip s f).sec = s.sec := rfl
@[simp] theorem updCip_cxl (s : State) (f : Cip → Cip) : (updCip s f).cxl = s.cxl := rfl
@[simp] theorem updCip_rst (s : State) (f : Cip → Cip) : (updCip s f).rst = s.rst := rfl
@[simp] theorem updCip_pwr (s : State) (f : Cip → Cip) : (updCip s f).pwr = s.pwr := rfl
@[simp] theorem updCip_jante (s : State) (f : Cip → Cip) : (updCip s f).jante = s.jante := rfl
@[simp] theorem updCip_devReset (s : State) (f : Cip → Cip) : (updCip s f).devReset = s.devReset := rfl
@[simp] theorem updCip_perst (s : State) (f : Cip → Cip) : (updCip s f).perst = s.perst := rfl
@[simp] theorem updCip_freeCtr (s : State) (f : Cip → Cip) : (updCip s f).freeCtr = s.freeCtr := rfl
@[simp] theorem updCip_out (s : State) (f : Cip → Cip) : (updCip s f).out = s.out := rfl

/-! `updPwr` changes `pwr` alone. -/
@[simp] theorem updPwr_pending (s : State) (f : Pwr → Pwr) : (updPwr s f).pending = s.pending := rfl
@[simp] theorem updPwr_dev (s : State) (f : Pwr → Pwr) : (updPwr s f).dev = s.dev := rfl
@[simp] theorem updPwr_absent (s : State) (f : Pwr → Pwr) : (updPwr s f).absent = s.absent := rfl
@[simp] theorem updPwr_pstates (s : State) (f : Pwr → Pwr) : (updPwr s f).pstates = s.pstates := rfl
@[simp] theorem updPwr_engines (s : State) (f : Pwr → Pwr) : (updPwr s f).engines = s.engines := rfl
@[simp] theorem updPwr_movers (s : State) (f : Pwr → Pwr) : (updPwr s f).movers = s.movers := rfl
@[simp] theorem updPwr_mem (s : State) (f : Pwr → Pwr) : (updPwr s f).mem = s.mem := rfl
@[simp] theorem updPwr_gil (s : State) (f : Pwr → Pwr) : (updPwr s f).gil = s.gil := rfl
@[simp] theorem updPwr_gilLoose (s : State) (f : Pwr → Pwr) : (updPwr s f).gilLoose = s.gilLoose := rfl
@[simp] theorem updPwr_hbm (s : State) (f : Pwr → Pwr) : (updPwr s f).hbm = s.hbm := rfl
@[simp] theorem updPwr_sram (s : State) (f : Pwr → Pwr) : (updPwr s f).sram = s.sram := rfl
@[simp] theorem updPwr_sheet (s : State) (f : Pwr → Pwr) : (updPwr s f).sheet = s.sheet := rfl
@[simp] theorem updPwr_hbmPoison (s : State) (f : Pwr → Pwr) : (updPwr s f).hbmPoison = s.hbmPoison := rfl
@[simp] theorem updPwr_sramPoison (s : State) (f : Pwr → Pwr) : (updPwr s f).sramPoison = s.sramPoison := rfl
@[simp] theorem updPwr_sramFlips (s : State) (f : Pwr → Pwr) : (updPwr s f).sramFlips = s.sramFlips := rfl
@[simp] theorem updPwr_tabA (s : State) (f : Pwr → Pwr) : (updPwr s f).tabA = s.tabA := rfl
@[simp] theorem updPwr_tabB (s : State) (f : Pwr → Pwr) : (updPwr s f).tabB = s.tabB := rfl
@[simp] theorem updPwr_cal (s : State) (f : Pwr → Pwr) : (updPwr s f).cal = s.cal := rfl
@[simp] theorem updPwr_tok (s : State) (f : Pwr → Pwr) : (updPwr s f).tok = s.tok := rfl
@[simp] theorem updPwr_rpr (s : State) (f : Pwr → Pwr) : (updPwr s f).rpr = s.rpr := rfl
@[simp] theorem updPwr_fill (s : State) (f : Pwr → Pwr) : (updPwr s f).fill = s.fill := rfl
@[simp] theorem updPwr_bus (s : State) (f : Pwr → Pwr) : (updPwr s f).bus = s.bus := rfl
@[simp] theorem updPwr_spanlds (s : State) (f : Pwr → Pwr) : (updPwr s f).spanlds = s.spanlds := rfl
@[simp] theorem updPwr_cmp (s : State) (f : Pwr → Pwr) : (updPwr s f).cmp = s.cmp := rfl
@[simp] theorem updPwr_cmpLoading (s : State) (f : Pwr → Pwr) : (updPwr s f).cmpLoading = s.cmpLoading := rfl
@[simp] theorem updPwr_links (s : State) (f : Pwr → Pwr) : (updPwr s f).links = s.links := rfl
@[simp] theorem updPwr_sets (s : State) (f : Pwr → Pwr) : (updPwr s f).sets = s.sets := rfl
@[simp] theorem updPwr_setErr (s : State) (f : Pwr → Pwr) : (updPwr s f).setErr = s.setErr := rfl
@[simp] theorem updPwr_upd (s : State) (f : Pwr → Pwr) : (updPwr s f).upd = s.upd := rfl
@[simp] theorem updPwr_kept (s : State) (f : Pwr → Pwr) : (updPwr s f).kept = s.kept := rfl
@[simp] theorem updPwr_far (s : State) (f : Pwr → Pwr) : (updPwr s f).far = s.far := rfl
@[simp] theorem updPwr_cip (s : State) (f : Pwr → Pwr) : (updPwr s f).cip = s.cip := rfl
@[simp] theorem updPwr_bnd (s : State) (f : Pwr → Pwr) : (updPwr s f).bnd = s.bnd := rfl
@[simp] theorem updPwr_folio (s : State) (f : Pwr → Pwr) : (updPwr s f).folio = s.folio := rfl
@[simp] theorem updPwr_sec (s : State) (f : Pwr → Pwr) : (updPwr s f).sec = s.sec := rfl
@[simp] theorem updPwr_cxl (s : State) (f : Pwr → Pwr) : (updPwr s f).cxl = s.cxl := rfl
@[simp] theorem updPwr_rst (s : State) (f : Pwr → Pwr) : (updPwr s f).rst = s.rst := rfl
@[simp] theorem updPwr_jante (s : State) (f : Pwr → Pwr) : (updPwr s f).jante = s.jante := rfl
@[simp] theorem updPwr_devReset (s : State) (f : Pwr → Pwr) : (updPwr s f).devReset = s.devReset := rfl
@[simp] theorem updPwr_perst (s : State) (f : Pwr → Pwr) : (updPwr s f).perst = s.perst := rfl
@[simp] theorem updPwr_freeCtr (s : State) (f : Pwr → Pwr) : (updPwr s f).freeCtr = s.freeCtr := rfl
@[simp] theorem updPwr_out (s : State) (f : Pwr → Pwr) : (updPwr s f).out = s.out := rfl

/-! `updRst` changes `rst` alone. -/
@[simp] theorem updRst_pending (s : State) (f : Rst → Rst) : (updRst s f).pending = s.pending := rfl
@[simp] theorem updRst_dev (s : State) (f : Rst → Rst) : (updRst s f).dev = s.dev := rfl
@[simp] theorem updRst_absent (s : State) (f : Rst → Rst) : (updRst s f).absent = s.absent := rfl
@[simp] theorem updRst_pstates (s : State) (f : Rst → Rst) : (updRst s f).pstates = s.pstates := rfl
@[simp] theorem updRst_engines (s : State) (f : Rst → Rst) : (updRst s f).engines = s.engines := rfl
@[simp] theorem updRst_movers (s : State) (f : Rst → Rst) : (updRst s f).movers = s.movers := rfl
@[simp] theorem updRst_mem (s : State) (f : Rst → Rst) : (updRst s f).mem = s.mem := rfl
@[simp] theorem updRst_gil (s : State) (f : Rst → Rst) : (updRst s f).gil = s.gil := rfl
@[simp] theorem updRst_gilLoose (s : State) (f : Rst → Rst) : (updRst s f).gilLoose = s.gilLoose := rfl
@[simp] theorem updRst_hbm (s : State) (f : Rst → Rst) : (updRst s f).hbm = s.hbm := rfl
@[simp] theorem updRst_sram (s : State) (f : Rst → Rst) : (updRst s f).sram = s.sram := rfl
@[simp] theorem updRst_sheet (s : State) (f : Rst → Rst) : (updRst s f).sheet = s.sheet := rfl
@[simp] theorem updRst_hbmPoison (s : State) (f : Rst → Rst) : (updRst s f).hbmPoison = s.hbmPoison := rfl
@[simp] theorem updRst_sramPoison (s : State) (f : Rst → Rst) : (updRst s f).sramPoison = s.sramPoison := rfl
@[simp] theorem updRst_sramFlips (s : State) (f : Rst → Rst) : (updRst s f).sramFlips = s.sramFlips := rfl
@[simp] theorem updRst_tabA (s : State) (f : Rst → Rst) : (updRst s f).tabA = s.tabA := rfl
@[simp] theorem updRst_tabB (s : State) (f : Rst → Rst) : (updRst s f).tabB = s.tabB := rfl
@[simp] theorem updRst_cal (s : State) (f : Rst → Rst) : (updRst s f).cal = s.cal := rfl
@[simp] theorem updRst_tok (s : State) (f : Rst → Rst) : (updRst s f).tok = s.tok := rfl
@[simp] theorem updRst_rpr (s : State) (f : Rst → Rst) : (updRst s f).rpr = s.rpr := rfl
@[simp] theorem updRst_fill (s : State) (f : Rst → Rst) : (updRst s f).fill = s.fill := rfl
@[simp] theorem updRst_bus (s : State) (f : Rst → Rst) : (updRst s f).bus = s.bus := rfl
@[simp] theorem updRst_spanlds (s : State) (f : Rst → Rst) : (updRst s f).spanlds = s.spanlds := rfl
@[simp] theorem updRst_cmp (s : State) (f : Rst → Rst) : (updRst s f).cmp = s.cmp := rfl
@[simp] theorem updRst_cmpLoading (s : State) (f : Rst → Rst) : (updRst s f).cmpLoading = s.cmpLoading := rfl
@[simp] theorem updRst_links (s : State) (f : Rst → Rst) : (updRst s f).links = s.links := rfl
@[simp] theorem updRst_sets (s : State) (f : Rst → Rst) : (updRst s f).sets = s.sets := rfl
@[simp] theorem updRst_setErr (s : State) (f : Rst → Rst) : (updRst s f).setErr = s.setErr := rfl
@[simp] theorem updRst_upd (s : State) (f : Rst → Rst) : (updRst s f).upd = s.upd := rfl
@[simp] theorem updRst_kept (s : State) (f : Rst → Rst) : (updRst s f).kept = s.kept := rfl
@[simp] theorem updRst_far (s : State) (f : Rst → Rst) : (updRst s f).far = s.far := rfl
@[simp] theorem updRst_cip (s : State) (f : Rst → Rst) : (updRst s f).cip = s.cip := rfl
@[simp] theorem updRst_bnd (s : State) (f : Rst → Rst) : (updRst s f).bnd = s.bnd := rfl
@[simp] theorem updRst_folio (s : State) (f : Rst → Rst) : (updRst s f).folio = s.folio := rfl
@[simp] theorem updRst_sec (s : State) (f : Rst → Rst) : (updRst s f).sec = s.sec := rfl
@[simp] theorem updRst_cxl (s : State) (f : Rst → Rst) : (updRst s f).cxl = s.cxl := rfl
@[simp] theorem updRst_pwr (s : State) (f : Rst → Rst) : (updRst s f).pwr = s.pwr := rfl
@[simp] theorem updRst_jante (s : State) (f : Rst → Rst) : (updRst s f).jante = s.jante := rfl
@[simp] theorem updRst_devReset (s : State) (f : Rst → Rst) : (updRst s f).devReset = s.devReset := rfl
@[simp] theorem updRst_perst (s : State) (f : Rst → Rst) : (updRst s f).perst = s.perst := rfl
@[simp] theorem updRst_freeCtr (s : State) (f : Rst → Rst) : (updRst s f).freeCtr = s.freeCtr := rfl
@[simp] theorem updRst_out (s : State) (f : Rst → Rst) : (updRst s f).out = s.out := rfl

/-! `raiseVector` changes `cxl`, `out` alone. -/
@[simp] theorem raiseVector_pending (s : State) (v : Nat) : (raiseVector s v).pending = s.pending := by
  unfold raiseVector; split
  · rfl
  · dsimp only; split <;> rfl
@[simp] theorem raiseVector_dev (s : State) (v : Nat) : (raiseVector s v).dev = s.dev := by
  unfold raiseVector; split
  · rfl
  · dsimp only; split <;> rfl
@[simp] theorem raiseVector_absent (s : State) (v : Nat) : (raiseVector s v).absent = s.absent := by
  unfold raiseVector; split
  · rfl
  · dsimp only; split <;> rfl
@[simp] theorem raiseVector_pstates (s : State) (v : Nat) : (raiseVector s v).pstates = s.pstates := by
  unfold raiseVector; split
  · rfl
  · dsimp only; split <;> rfl
@[simp] theorem raiseVector_engines (s : State) (v : Nat) : (raiseVector s v).engines = s.engines := by
  unfold raiseVector; split
  · rfl
  · dsimp only; split <;> rfl
@[simp] theorem raiseVector_movers (s : State) (v : Nat) : (raiseVector s v).movers = s.movers := by
  unfold raiseVector; split
  · rfl
  · dsimp only; split <;> rfl
@[simp] theorem raiseVector_mem (s : State) (v : Nat) : (raiseVector s v).mem = s.mem := by
  unfold raiseVector; split
  · rfl
  · dsimp only; split <;> rfl
@[simp] theorem raiseVector_gil (s : State) (v : Nat) : (raiseVector s v).gil = s.gil := by
  unfold raiseVector; split
  · rfl
  · dsimp only; split <;> rfl
@[simp] theorem raiseVector_gilLoose (s : State) (v : Nat) : (raiseVector s v).gilLoose = s.gilLoose := by
  unfold raiseVector; split
  · rfl
  · dsimp only; split <;> rfl
@[simp] theorem raiseVector_hbm (s : State) (v : Nat) : (raiseVector s v).hbm = s.hbm := by
  unfold raiseVector; split
  · rfl
  · dsimp only; split <;> rfl
@[simp] theorem raiseVector_sram (s : State) (v : Nat) : (raiseVector s v).sram = s.sram := by
  unfold raiseVector; split
  · rfl
  · dsimp only; split <;> rfl
@[simp] theorem raiseVector_sheet (s : State) (v : Nat) : (raiseVector s v).sheet = s.sheet := by
  unfold raiseVector; split
  · rfl
  · dsimp only; split <;> rfl
@[simp] theorem raiseVector_hbmPoison (s : State) (v : Nat) : (raiseVector s v).hbmPoison = s.hbmPoison := by
  unfold raiseVector; split
  · rfl
  · dsimp only; split <;> rfl
@[simp] theorem raiseVector_sramPoison (s : State) (v : Nat) : (raiseVector s v).sramPoison = s.sramPoison := by
  unfold raiseVector; split
  · rfl
  · dsimp only; split <;> rfl
@[simp] theorem raiseVector_sramFlips (s : State) (v : Nat) : (raiseVector s v).sramFlips = s.sramFlips := by
  unfold raiseVector; split
  · rfl
  · dsimp only; split <;> rfl
@[simp] theorem raiseVector_tabA (s : State) (v : Nat) : (raiseVector s v).tabA = s.tabA := by
  unfold raiseVector; split
  · rfl
  · dsimp only; split <;> rfl
@[simp] theorem raiseVector_tabB (s : State) (v : Nat) : (raiseVector s v).tabB = s.tabB := by
  unfold raiseVector; split
  · rfl
  · dsimp only; split <;> rfl
@[simp] theorem raiseVector_cal (s : State) (v : Nat) : (raiseVector s v).cal = s.cal := by
  unfold raiseVector; split
  · rfl
  · dsimp only; split <;> rfl
@[simp] theorem raiseVector_tok (s : State) (v : Nat) : (raiseVector s v).tok = s.tok := by
  unfold raiseVector; split
  · rfl
  · dsimp only; split <;> rfl
@[simp] theorem raiseVector_rpr (s : State) (v : Nat) : (raiseVector s v).rpr = s.rpr := by
  unfold raiseVector; split
  · rfl
  · dsimp only; split <;> rfl
@[simp] theorem raiseVector_fill (s : State) (v : Nat) : (raiseVector s v).fill = s.fill := by
  unfold raiseVector; split
  · rfl
  · dsimp only; split <;> rfl
@[simp] theorem raiseVector_bus (s : State) (v : Nat) : (raiseVector s v).bus = s.bus := by
  unfold raiseVector; split
  · rfl
  · dsimp only; split <;> rfl
@[simp] theorem raiseVector_spanlds (s : State) (v : Nat) : (raiseVector s v).spanlds = s.spanlds := by
  unfold raiseVector; split
  · rfl
  · dsimp only; split <;> rfl
@[simp] theorem raiseVector_cmp (s : State) (v : Nat) : (raiseVector s v).cmp = s.cmp := by
  unfold raiseVector; split
  · rfl
  · dsimp only; split <;> rfl
@[simp] theorem raiseVector_cmpLoading (s : State) (v : Nat) : (raiseVector s v).cmpLoading = s.cmpLoading := by
  unfold raiseVector; split
  · rfl
  · dsimp only; split <;> rfl
@[simp] theorem raiseVector_links (s : State) (v : Nat) : (raiseVector s v).links = s.links := by
  unfold raiseVector; split
  · rfl
  · dsimp only; split <;> rfl
@[simp] theorem raiseVector_sets (s : State) (v : Nat) : (raiseVector s v).sets = s.sets := by
  unfold raiseVector; split
  · rfl
  · dsimp only; split <;> rfl
@[simp] theorem raiseVector_setErr (s : State) (v : Nat) : (raiseVector s v).setErr = s.setErr := by
  unfold raiseVector; split
  · rfl
  · dsimp only; split <;> rfl
@[simp] theorem raiseVector_upd (s : State) (v : Nat) : (raiseVector s v).upd = s.upd := by
  unfold raiseVector; split
  · rfl
  · dsimp only; split <;> rfl
@[simp] theorem raiseVector_kept (s : State) (v : Nat) : (raiseVector s v).kept = s.kept := by
  unfold raiseVector; split
  · rfl
  · dsimp only; split <;> rfl
@[simp] theorem raiseVector_far (s : State) (v : Nat) : (raiseVector s v).far = s.far := by
  unfold raiseVector; split
  · rfl
  · dsimp only; split <;> rfl
@[simp] theorem raiseVector_cip (s : State) (v : Nat) : (raiseVector s v).cip = s.cip := by
  unfold raiseVector; split
  · rfl
  · dsimp only; split <;> rfl
@[simp] theorem raiseVector_bnd (s : State) (v : Nat) : (raiseVector s v).bnd = s.bnd := by
  unfold raiseVector; split
  · rfl
  · dsimp only; split <;> rfl
@[simp] theorem raiseVector_folio (s : State) (v : Nat) : (raiseVector s v).folio = s.folio := by
  unfold raiseVector; split
  · rfl
  · dsimp only; split <;> rfl
@[simp] theorem raiseVector_sec (s : State) (v : Nat) : (raiseVector s v).sec = s.sec := by
  unfold raiseVector; split
  · rfl
  · dsimp only; split <;> rfl
@[simp] theorem raiseVector_rst (s : State) (v : Nat) : (raiseVector s v).rst = s.rst := by
  unfold raiseVector; split
  · rfl
  · dsimp only; split <;> rfl
@[simp] theorem raiseVector_pwr (s : State) (v : Nat) : (raiseVector s v).pwr = s.pwr := by
  unfold raiseVector; split
  · rfl
  · dsimp only; split <;> rfl
@[simp] theorem raiseVector_jante (s : State) (v : Nat) : (raiseVector s v).jante = s.jante := by
  unfold raiseVector; split
  · rfl
  · dsimp only; split <;> rfl
@[simp] theorem raiseVector_devReset (s : State) (v : Nat) : (raiseVector s v).devReset = s.devReset := by
  unfold raiseVector; split
  · rfl
  · dsimp only; split <;> rfl
@[simp] theorem raiseVector_perst (s : State) (v : Nat) : (raiseVector s v).perst = s.perst := by
  unfold raiseVector; split
  · rfl
  · dsimp only; split <;> rfl
@[simp] theorem raiseVector_freeCtr (s : State) (v : Nat) : (raiseVector s v).freeCtr = s.freeCtr := by
  unfold raiseVector; split
  · rfl
  · dsimp only; split <;> rfl

/-! `setHerr` changes `cxl`, `out` alone. -/
@[simp] theorem setHerr_pending (s : State) (b : Nat) : (setHerr s b).pending = s.pending := by simp [setHerr]
@[simp] theorem setHerr_dev (s : State) (b : Nat) : (setHerr s b).dev = s.dev := by simp [setHerr]
@[simp] theorem setHerr_absent (s : State) (b : Nat) : (setHerr s b).absent = s.absent := by simp [setHerr]
@[simp] theorem setHerr_pstates (s : State) (b : Nat) : (setHerr s b).pstates = s.pstates := by simp [setHerr]
@[simp] theorem setHerr_engines (s : State) (b : Nat) : (setHerr s b).engines = s.engines := by simp [setHerr]
@[simp] theorem setHerr_movers (s : State) (b : Nat) : (setHerr s b).movers = s.movers := by simp [setHerr]
@[simp] theorem setHerr_mem (s : State) (b : Nat) : (setHerr s b).mem = s.mem := by simp [setHerr]
@[simp] theorem setHerr_gil (s : State) (b : Nat) : (setHerr s b).gil = s.gil := by simp [setHerr]
@[simp] theorem setHerr_gilLoose (s : State) (b : Nat) : (setHerr s b).gilLoose = s.gilLoose := by simp [setHerr]
@[simp] theorem setHerr_hbm (s : State) (b : Nat) : (setHerr s b).hbm = s.hbm := by simp [setHerr]
@[simp] theorem setHerr_sram (s : State) (b : Nat) : (setHerr s b).sram = s.sram := by simp [setHerr]
@[simp] theorem setHerr_sheet (s : State) (b : Nat) : (setHerr s b).sheet = s.sheet := by simp [setHerr]
@[simp] theorem setHerr_hbmPoison (s : State) (b : Nat) : (setHerr s b).hbmPoison = s.hbmPoison := by simp [setHerr]
@[simp] theorem setHerr_sramPoison (s : State) (b : Nat) : (setHerr s b).sramPoison = s.sramPoison := by simp [setHerr]
@[simp] theorem setHerr_sramFlips (s : State) (b : Nat) : (setHerr s b).sramFlips = s.sramFlips := by simp [setHerr]
@[simp] theorem setHerr_tabA (s : State) (b : Nat) : (setHerr s b).tabA = s.tabA := by simp [setHerr]
@[simp] theorem setHerr_tabB (s : State) (b : Nat) : (setHerr s b).tabB = s.tabB := by simp [setHerr]
@[simp] theorem setHerr_cal (s : State) (b : Nat) : (setHerr s b).cal = s.cal := by simp [setHerr]
@[simp] theorem setHerr_tok (s : State) (b : Nat) : (setHerr s b).tok = s.tok := by simp [setHerr]
@[simp] theorem setHerr_rpr (s : State) (b : Nat) : (setHerr s b).rpr = s.rpr := by simp [setHerr]
@[simp] theorem setHerr_fill (s : State) (b : Nat) : (setHerr s b).fill = s.fill := by simp [setHerr]
@[simp] theorem setHerr_bus (s : State) (b : Nat) : (setHerr s b).bus = s.bus := by simp [setHerr]
@[simp] theorem setHerr_spanlds (s : State) (b : Nat) : (setHerr s b).spanlds = s.spanlds := by simp [setHerr]
@[simp] theorem setHerr_cmp (s : State) (b : Nat) : (setHerr s b).cmp = s.cmp := by simp [setHerr]
@[simp] theorem setHerr_cmpLoading (s : State) (b : Nat) : (setHerr s b).cmpLoading = s.cmpLoading := by simp [setHerr]
@[simp] theorem setHerr_links (s : State) (b : Nat) : (setHerr s b).links = s.links := by simp [setHerr]
@[simp] theorem setHerr_sets (s : State) (b : Nat) : (setHerr s b).sets = s.sets := by simp [setHerr]
@[simp] theorem setHerr_setErr (s : State) (b : Nat) : (setHerr s b).setErr = s.setErr := by simp [setHerr]
@[simp] theorem setHerr_upd (s : State) (b : Nat) : (setHerr s b).upd = s.upd := by simp [setHerr]
@[simp] theorem setHerr_kept (s : State) (b : Nat) : (setHerr s b).kept = s.kept := by simp [setHerr]
@[simp] theorem setHerr_far (s : State) (b : Nat) : (setHerr s b).far = s.far := by simp [setHerr]
@[simp] theorem setHerr_cip (s : State) (b : Nat) : (setHerr s b).cip = s.cip := by simp [setHerr]
@[simp] theorem setHerr_bnd (s : State) (b : Nat) : (setHerr s b).bnd = s.bnd := by simp [setHerr]
@[simp] theorem setHerr_folio (s : State) (b : Nat) : (setHerr s b).folio = s.folio := by simp [setHerr]
@[simp] theorem setHerr_sec (s : State) (b : Nat) : (setHerr s b).sec = s.sec := by simp [setHerr]
@[simp] theorem setHerr_rst (s : State) (b : Nat) : (setHerr s b).rst = s.rst := by simp [setHerr]
@[simp] theorem setHerr_pwr (s : State) (b : Nat) : (setHerr s b).pwr = s.pwr := by simp [setHerr]
@[simp] theorem setHerr_jante (s : State) (b : Nat) : (setHerr s b).jante = s.jante := by simp [setHerr]
@[simp] theorem setHerr_devReset (s : State) (b : Nat) : (setHerr s b).devReset = s.devReset := by simp [setHerr]
@[simp] theorem setHerr_perst (s : State) (b : Nat) : (setHerr s b).perst = s.perst := by simp [setHerr]
@[simp] theorem setHerr_freeCtr (s : State) (b : Nat) : (setHerr s b).freeCtr = s.freeCtr := by simp [setHerr]

/-! `completeReq` changes `cxl`, `out`, `jante` alone. -/
@[simp] theorem completeReq_pending (s : State) (r : Req) (st : Status) (resp : List Byte) : (completeReq s r st resp).pending = s.pending := by
  unfold completeReq; dsimp only; split
  · simp
  · split <;> rfl
@[simp] theorem completeReq_dev (s : State) (r : Req) (st : Status) (resp : List Byte) : (completeReq s r st resp).dev = s.dev := by
  unfold completeReq; dsimp only; split
  · simp
  · split <;> rfl
@[simp] theorem completeReq_absent (s : State) (r : Req) (st : Status) (resp : List Byte) : (completeReq s r st resp).absent = s.absent := by
  unfold completeReq; dsimp only; split
  · simp
  · split <;> rfl
@[simp] theorem completeReq_pstates (s : State) (r : Req) (st : Status) (resp : List Byte) : (completeReq s r st resp).pstates = s.pstates := by
  unfold completeReq; dsimp only; split
  · simp
  · split <;> rfl
@[simp] theorem completeReq_engines (s : State) (r : Req) (st : Status) (resp : List Byte) : (completeReq s r st resp).engines = s.engines := by
  unfold completeReq; dsimp only; split
  · simp
  · split <;> rfl
@[simp] theorem completeReq_movers (s : State) (r : Req) (st : Status) (resp : List Byte) : (completeReq s r st resp).movers = s.movers := by
  unfold completeReq; dsimp only; split
  · simp
  · split <;> rfl
@[simp] theorem completeReq_mem (s : State) (r : Req) (st : Status) (resp : List Byte) : (completeReq s r st resp).mem = s.mem := by
  unfold completeReq; dsimp only; split
  · simp
  · split <;> rfl
@[simp] theorem completeReq_gil (s : State) (r : Req) (st : Status) (resp : List Byte) : (completeReq s r st resp).gil = s.gil := by
  unfold completeReq; dsimp only; split
  · simp
  · split <;> rfl
@[simp] theorem completeReq_gilLoose (s : State) (r : Req) (st : Status) (resp : List Byte) : (completeReq s r st resp).gilLoose = s.gilLoose := by
  unfold completeReq; dsimp only; split
  · simp
  · split <;> rfl
@[simp] theorem completeReq_hbm (s : State) (r : Req) (st : Status) (resp : List Byte) : (completeReq s r st resp).hbm = s.hbm := by
  unfold completeReq; dsimp only; split
  · simp
  · split <;> rfl
@[simp] theorem completeReq_sram (s : State) (r : Req) (st : Status) (resp : List Byte) : (completeReq s r st resp).sram = s.sram := by
  unfold completeReq; dsimp only; split
  · simp
  · split <;> rfl
@[simp] theorem completeReq_sheet (s : State) (r : Req) (st : Status) (resp : List Byte) : (completeReq s r st resp).sheet = s.sheet := by
  unfold completeReq; dsimp only; split
  · simp
  · split <;> rfl
@[simp] theorem completeReq_hbmPoison (s : State) (r : Req) (st : Status) (resp : List Byte) : (completeReq s r st resp).hbmPoison = s.hbmPoison := by
  unfold completeReq; dsimp only; split
  · simp
  · split <;> rfl
@[simp] theorem completeReq_sramPoison (s : State) (r : Req) (st : Status) (resp : List Byte) : (completeReq s r st resp).sramPoison = s.sramPoison := by
  unfold completeReq; dsimp only; split
  · simp
  · split <;> rfl
@[simp] theorem completeReq_sramFlips (s : State) (r : Req) (st : Status) (resp : List Byte) : (completeReq s r st resp).sramFlips = s.sramFlips := by
  unfold completeReq; dsimp only; split
  · simp
  · split <;> rfl
@[simp] theorem completeReq_tabA (s : State) (r : Req) (st : Status) (resp : List Byte) : (completeReq s r st resp).tabA = s.tabA := by
  unfold completeReq; dsimp only; split
  · simp
  · split <;> rfl
@[simp] theorem completeReq_tabB (s : State) (r : Req) (st : Status) (resp : List Byte) : (completeReq s r st resp).tabB = s.tabB := by
  unfold completeReq; dsimp only; split
  · simp
  · split <;> rfl
@[simp] theorem completeReq_cal (s : State) (r : Req) (st : Status) (resp : List Byte) : (completeReq s r st resp).cal = s.cal := by
  unfold completeReq; dsimp only; split
  · simp
  · split <;> rfl
@[simp] theorem completeReq_tok (s : State) (r : Req) (st : Status) (resp : List Byte) : (completeReq s r st resp).tok = s.tok := by
  unfold completeReq; dsimp only; split
  · simp
  · split <;> rfl
@[simp] theorem completeReq_rpr (s : State) (r : Req) (st : Status) (resp : List Byte) : (completeReq s r st resp).rpr = s.rpr := by
  unfold completeReq; dsimp only; split
  · simp
  · split <;> rfl
@[simp] theorem completeReq_fill (s : State) (r : Req) (st : Status) (resp : List Byte) : (completeReq s r st resp).fill = s.fill := by
  unfold completeReq; dsimp only; split
  · simp
  · split <;> rfl
@[simp] theorem completeReq_bus (s : State) (r : Req) (st : Status) (resp : List Byte) : (completeReq s r st resp).bus = s.bus := by
  unfold completeReq; dsimp only; split
  · simp
  · split <;> rfl
@[simp] theorem completeReq_spanlds (s : State) (r : Req) (st : Status) (resp : List Byte) : (completeReq s r st resp).spanlds = s.spanlds := by
  unfold completeReq; dsimp only; split
  · simp
  · split <;> rfl
@[simp] theorem completeReq_cmp (s : State) (r : Req) (st : Status) (resp : List Byte) : (completeReq s r st resp).cmp = s.cmp := by
  unfold completeReq; dsimp only; split
  · simp
  · split <;> rfl
@[simp] theorem completeReq_cmpLoading (s : State) (r : Req) (st : Status) (resp : List Byte) : (completeReq s r st resp).cmpLoading = s.cmpLoading := by
  unfold completeReq; dsimp only; split
  · simp
  · split <;> rfl
@[simp] theorem completeReq_links (s : State) (r : Req) (st : Status) (resp : List Byte) : (completeReq s r st resp).links = s.links := by
  unfold completeReq; dsimp only; split
  · simp
  · split <;> rfl
@[simp] theorem completeReq_sets (s : State) (r : Req) (st : Status) (resp : List Byte) : (completeReq s r st resp).sets = s.sets := by
  unfold completeReq; dsimp only; split
  · simp
  · split <;> rfl
@[simp] theorem completeReq_setErr (s : State) (r : Req) (st : Status) (resp : List Byte) : (completeReq s r st resp).setErr = s.setErr := by
  unfold completeReq; dsimp only; split
  · simp
  · split <;> rfl
@[simp] theorem completeReq_upd (s : State) (r : Req) (st : Status) (resp : List Byte) : (completeReq s r st resp).upd = s.upd := by
  unfold completeReq; dsimp only; split
  · simp
  · split <;> rfl
@[simp] theorem completeReq_kept (s : State) (r : Req) (st : Status) (resp : List Byte) : (completeReq s r st resp).kept = s.kept := by
  unfold completeReq; dsimp only; split
  · simp
  · split <;> rfl
@[simp] theorem completeReq_far (s : State) (r : Req) (st : Status) (resp : List Byte) : (completeReq s r st resp).far = s.far := by
  unfold completeReq; dsimp only; split
  · simp
  · split <;> rfl
@[simp] theorem completeReq_cip (s : State) (r : Req) (st : Status) (resp : List Byte) : (completeReq s r st resp).cip = s.cip := by
  unfold completeReq; dsimp only; split
  · simp
  · split <;> rfl
@[simp] theorem completeReq_bnd (s : State) (r : Req) (st : Status) (resp : List Byte) : (completeReq s r st resp).bnd = s.bnd := by
  unfold completeReq; dsimp only; split
  · simp
  · split <;> rfl
@[simp] theorem completeReq_folio (s : State) (r : Req) (st : Status) (resp : List Byte) : (completeReq s r st resp).folio = s.folio := by
  unfold completeReq; dsimp only; split
  · simp
  · split <;> rfl
@[simp] theorem completeReq_sec (s : State) (r : Req) (st : Status) (resp : List Byte) : (completeReq s r st resp).sec = s.sec := by
  unfold completeReq; dsimp only; split
  · simp
  · split <;> rfl
@[simp] theorem completeReq_rst (s : State) (r : Req) (st : Status) (resp : List Byte) : (completeReq s r st resp).rst = s.rst := by
  unfold completeReq; dsimp only; split
  · simp
  · split <;> rfl
@[simp] theorem completeReq_pwr (s : State) (r : Req) (st : Status) (resp : List Byte) : (completeReq s r st resp).pwr = s.pwr := by
  unfold completeReq; dsimp only; split
  · simp
  · split <;> rfl
@[simp] theorem completeReq_devReset (s : State) (r : Req) (st : Status) (resp : List Byte) : (completeReq s r st resp).devReset = s.devReset := by
  unfold completeReq; dsimp only; split
  · simp
  · split <;> rfl
@[simp] theorem completeReq_perst (s : State) (r : Req) (st : Status) (resp : List Byte) : (completeReq s r st resp).perst = s.perst := by
  unfold completeReq; dsimp only; split
  · simp
  · split <;> rfl
@[simp] theorem completeReq_freeCtr (s : State) (r : Req) (st : Status) (resp : List Byte) : (completeReq s r st resp).freeCtr = s.freeCtr := by
  unfold completeReq; dsimp only; split
  · simp
  · split <;> rfl

/-! `finishPend` changes `cxl`, `out`, `jante` alone. -/
@[simp] theorem finishPend_pending (s : State) (p : Pend → Bool) (st : Status) (resp : List Byte) : (finishPend s p st resp).pending = s.pending := by
  unfold finishPend; split <;> simp
@[simp] theorem finishPend_dev (s : State) (p : Pend → Bool) (st : Status) (resp : List Byte) : (finishPend s p st resp).dev = s.dev := by
  unfold finishPend; split <;> simp
@[simp] theorem finishPend_absent (s : State) (p : Pend → Bool) (st : Status) (resp : List Byte) : (finishPend s p st resp).absent = s.absent := by
  unfold finishPend; split <;> simp
@[simp] theorem finishPend_pstates (s : State) (p : Pend → Bool) (st : Status) (resp : List Byte) : (finishPend s p st resp).pstates = s.pstates := by
  unfold finishPend; split <;> simp
@[simp] theorem finishPend_engines (s : State) (p : Pend → Bool) (st : Status) (resp : List Byte) : (finishPend s p st resp).engines = s.engines := by
  unfold finishPend; split <;> simp
@[simp] theorem finishPend_movers (s : State) (p : Pend → Bool) (st : Status) (resp : List Byte) : (finishPend s p st resp).movers = s.movers := by
  unfold finishPend; split <;> simp
@[simp] theorem finishPend_mem (s : State) (p : Pend → Bool) (st : Status) (resp : List Byte) : (finishPend s p st resp).mem = s.mem := by
  unfold finishPend; split <;> simp
@[simp] theorem finishPend_gil (s : State) (p : Pend → Bool) (st : Status) (resp : List Byte) : (finishPend s p st resp).gil = s.gil := by
  unfold finishPend; split <;> simp
@[simp] theorem finishPend_gilLoose (s : State) (p : Pend → Bool) (st : Status) (resp : List Byte) : (finishPend s p st resp).gilLoose = s.gilLoose := by
  unfold finishPend; split <;> simp
@[simp] theorem finishPend_hbm (s : State) (p : Pend → Bool) (st : Status) (resp : List Byte) : (finishPend s p st resp).hbm = s.hbm := by
  unfold finishPend; split <;> simp
@[simp] theorem finishPend_sram (s : State) (p : Pend → Bool) (st : Status) (resp : List Byte) : (finishPend s p st resp).sram = s.sram := by
  unfold finishPend; split <;> simp
@[simp] theorem finishPend_sheet (s : State) (p : Pend → Bool) (st : Status) (resp : List Byte) : (finishPend s p st resp).sheet = s.sheet := by
  unfold finishPend; split <;> simp
@[simp] theorem finishPend_hbmPoison (s : State) (p : Pend → Bool) (st : Status) (resp : List Byte) : (finishPend s p st resp).hbmPoison = s.hbmPoison := by
  unfold finishPend; split <;> simp
@[simp] theorem finishPend_sramPoison (s : State) (p : Pend → Bool) (st : Status) (resp : List Byte) : (finishPend s p st resp).sramPoison = s.sramPoison := by
  unfold finishPend; split <;> simp
@[simp] theorem finishPend_sramFlips (s : State) (p : Pend → Bool) (st : Status) (resp : List Byte) : (finishPend s p st resp).sramFlips = s.sramFlips := by
  unfold finishPend; split <;> simp
@[simp] theorem finishPend_tabA (s : State) (p : Pend → Bool) (st : Status) (resp : List Byte) : (finishPend s p st resp).tabA = s.tabA := by
  unfold finishPend; split <;> simp
@[simp] theorem finishPend_tabB (s : State) (p : Pend → Bool) (st : Status) (resp : List Byte) : (finishPend s p st resp).tabB = s.tabB := by
  unfold finishPend; split <;> simp
@[simp] theorem finishPend_cal (s : State) (p : Pend → Bool) (st : Status) (resp : List Byte) : (finishPend s p st resp).cal = s.cal := by
  unfold finishPend; split <;> simp
@[simp] theorem finishPend_tok (s : State) (p : Pend → Bool) (st : Status) (resp : List Byte) : (finishPend s p st resp).tok = s.tok := by
  unfold finishPend; split <;> simp
@[simp] theorem finishPend_rpr (s : State) (p : Pend → Bool) (st : Status) (resp : List Byte) : (finishPend s p st resp).rpr = s.rpr := by
  unfold finishPend; split <;> simp
@[simp] theorem finishPend_fill (s : State) (p : Pend → Bool) (st : Status) (resp : List Byte) : (finishPend s p st resp).fill = s.fill := by
  unfold finishPend; split <;> simp
@[simp] theorem finishPend_bus (s : State) (p : Pend → Bool) (st : Status) (resp : List Byte) : (finishPend s p st resp).bus = s.bus := by
  unfold finishPend; split <;> simp
@[simp] theorem finishPend_spanlds (s : State) (p : Pend → Bool) (st : Status) (resp : List Byte) : (finishPend s p st resp).spanlds = s.spanlds := by
  unfold finishPend; split <;> simp
@[simp] theorem finishPend_cmp (s : State) (p : Pend → Bool) (st : Status) (resp : List Byte) : (finishPend s p st resp).cmp = s.cmp := by
  unfold finishPend; split <;> simp
@[simp] theorem finishPend_cmpLoading (s : State) (p : Pend → Bool) (st : Status) (resp : List Byte) : (finishPend s p st resp).cmpLoading = s.cmpLoading := by
  unfold finishPend; split <;> simp
@[simp] theorem finishPend_links (s : State) (p : Pend → Bool) (st : Status) (resp : List Byte) : (finishPend s p st resp).links = s.links := by
  unfold finishPend; split <;> simp
@[simp] theorem finishPend_sets (s : State) (p : Pend → Bool) (st : Status) (resp : List Byte) : (finishPend s p st resp).sets = s.sets := by
  unfold finishPend; split <;> simp
@[simp] theorem finishPend_setErr (s : State) (p : Pend → Bool) (st : Status) (resp : List Byte) : (finishPend s p st resp).setErr = s.setErr := by
  unfold finishPend; split <;> simp
@[simp] theorem finishPend_upd (s : State) (p : Pend → Bool) (st : Status) (resp : List Byte) : (finishPend s p st resp).upd = s.upd := by
  unfold finishPend; split <;> simp
@[simp] theorem finishPend_kept (s : State) (p : Pend → Bool) (st : Status) (resp : List Byte) : (finishPend s p st resp).kept = s.kept := by
  unfold finishPend; split <;> simp
@[simp] theorem finishPend_far (s : State) (p : Pend → Bool) (st : Status) (resp : List Byte) : (finishPend s p st resp).far = s.far := by
  unfold finishPend; split <;> simp
@[simp] theorem finishPend_cip (s : State) (p : Pend → Bool) (st : Status) (resp : List Byte) : (finishPend s p st resp).cip = s.cip := by
  unfold finishPend; split <;> simp
@[simp] theorem finishPend_bnd (s : State) (p : Pend → Bool) (st : Status) (resp : List Byte) : (finishPend s p st resp).bnd = s.bnd := by
  unfold finishPend; split <;> simp
@[simp] theorem finishPend_folio (s : State) (p : Pend → Bool) (st : Status) (resp : List Byte) : (finishPend s p st resp).folio = s.folio := by
  unfold finishPend; split <;> simp
@[simp] theorem finishPend_sec (s : State) (p : Pend → Bool) (st : Status) (resp : List Byte) : (finishPend s p st resp).sec = s.sec := by
  unfold finishPend; split <;> simp
@[simp] theorem finishPend_rst (s : State) (p : Pend → Bool) (st : Status) (resp : List Byte) : (finishPend s p st resp).rst = s.rst := by
  unfold finishPend; split <;> simp
@[simp] theorem finishPend_pwr (s : State) (p : Pend → Bool) (st : Status) (resp : List Byte) : (finishPend s p st resp).pwr = s.pwr := by
  unfold finishPend; split <;> simp
@[simp] theorem finishPend_devReset (s : State) (p : Pend → Bool) (st : Status) (resp : List Byte) : (finishPend s p st resp).devReset = s.devReset := by
  unfold finishPend; split <;> simp
@[simp] theorem finishPend_perst (s : State) (p : Pend → Bool) (st : Status) (resp : List Byte) : (finishPend s p st resp).perst = s.perst := by
  unfold finishPend; split <;> simp
@[simp] theorem finishPend_freeCtr (s : State) (p : Pend → Bool) (st : Status) (resp : List Byte) : (finishPend s p st resp).freeCtr = s.freeCtr := by
  unfold finishPend; split <;> simp

/-! `setTok` changes `tok` alone. -/
@[simp] theorem setTok_pending (s : State) (fill : Bool) (t n : Nat) : (setTok s fill t n).pending = s.pending := by
  unfold setTok; split <;> rfl
@[simp] theorem setTok_dev (s : State) (fill : Bool) (t n : Nat) : (setTok s fill t n).dev = s.dev := by
  unfold setTok; split <;> rfl
@[simp] theorem setTok_absent (s : State) (fill : Bool) (t n : Nat) : (setTok s fill t n).absent = s.absent := by
  unfold setTok; split <;> rfl
@[simp] theorem setTok_pstates (s : State) (fill : Bool) (t n : Nat) : (setTok s fill t n).pstates = s.pstates := by
  unfold setTok; split <;> rfl
@[simp] theorem setTok_engines (s : State) (fill : Bool) (t n : Nat) : (setTok s fill t n).engines = s.engines := by
  unfold setTok; split <;> rfl
@[simp] theorem setTok_movers (s : State) (fill : Bool) (t n : Nat) : (setTok s fill t n).movers = s.movers := by
  unfold setTok; split <;> rfl
@[simp] theorem setTok_mem (s : State) (fill : Bool) (t n : Nat) : (setTok s fill t n).mem = s.mem := by
  unfold setTok; split <;> rfl
@[simp] theorem setTok_gil (s : State) (fill : Bool) (t n : Nat) : (setTok s fill t n).gil = s.gil := by
  unfold setTok; split <;> rfl
@[simp] theorem setTok_gilLoose (s : State) (fill : Bool) (t n : Nat) : (setTok s fill t n).gilLoose = s.gilLoose := by
  unfold setTok; split <;> rfl
@[simp] theorem setTok_hbm (s : State) (fill : Bool) (t n : Nat) : (setTok s fill t n).hbm = s.hbm := by
  unfold setTok; split <;> rfl
@[simp] theorem setTok_sram (s : State) (fill : Bool) (t n : Nat) : (setTok s fill t n).sram = s.sram := by
  unfold setTok; split <;> rfl
@[simp] theorem setTok_sheet (s : State) (fill : Bool) (t n : Nat) : (setTok s fill t n).sheet = s.sheet := by
  unfold setTok; split <;> rfl
@[simp] theorem setTok_hbmPoison (s : State) (fill : Bool) (t n : Nat) : (setTok s fill t n).hbmPoison = s.hbmPoison := by
  unfold setTok; split <;> rfl
@[simp] theorem setTok_sramPoison (s : State) (fill : Bool) (t n : Nat) : (setTok s fill t n).sramPoison = s.sramPoison := by
  unfold setTok; split <;> rfl
@[simp] theorem setTok_sramFlips (s : State) (fill : Bool) (t n : Nat) : (setTok s fill t n).sramFlips = s.sramFlips := by
  unfold setTok; split <;> rfl
@[simp] theorem setTok_tabA (s : State) (fill : Bool) (t n : Nat) : (setTok s fill t n).tabA = s.tabA := by
  unfold setTok; split <;> rfl
@[simp] theorem setTok_tabB (s : State) (fill : Bool) (t n : Nat) : (setTok s fill t n).tabB = s.tabB := by
  unfold setTok; split <;> rfl
@[simp] theorem setTok_cal (s : State) (fill : Bool) (t n : Nat) : (setTok s fill t n).cal = s.cal := by
  unfold setTok; split <;> rfl
@[simp] theorem setTok_rpr (s : State) (fill : Bool) (t n : Nat) : (setTok s fill t n).rpr = s.rpr := by
  unfold setTok; split <;> rfl
@[simp] theorem setTok_fill (s : State) (fill : Bool) (t n : Nat) : (setTok s fill t n).fill = s.fill := by
  unfold setTok; split <;> rfl
@[simp] theorem setTok_bus (s : State) (fill : Bool) (t n : Nat) : (setTok s fill t n).bus = s.bus := by
  unfold setTok; split <;> rfl
@[simp] theorem setTok_spanlds (s : State) (fill : Bool) (t n : Nat) : (setTok s fill t n).spanlds = s.spanlds := by
  unfold setTok; split <;> rfl
@[simp] theorem setTok_cmp (s : State) (fill : Bool) (t n : Nat) : (setTok s fill t n).cmp = s.cmp := by
  unfold setTok; split <;> rfl
@[simp] theorem setTok_cmpLoading (s : State) (fill : Bool) (t n : Nat) : (setTok s fill t n).cmpLoading = s.cmpLoading := by
  unfold setTok; split <;> rfl
@[simp] theorem setTok_links (s : State) (fill : Bool) (t n : Nat) : (setTok s fill t n).links = s.links := by
  unfold setTok; split <;> rfl
@[simp] theorem setTok_sets (s : State) (fill : Bool) (t n : Nat) : (setTok s fill t n).sets = s.sets := by
  unfold setTok; split <;> rfl
@[simp] theorem setTok_setErr (s : State) (fill : Bool) (t n : Nat) : (setTok s fill t n).setErr = s.setErr := by
  unfold setTok; split <;> rfl
@[simp] theorem setTok_upd (s : State) (fill : Bool) (t n : Nat) : (setTok s fill t n).upd = s.upd := by
  unfold setTok; split <;> rfl
@[simp] theorem setTok_kept (s : State) (fill : Bool) (t n : Nat) : (setTok s fill t n).kept = s.kept := by
  unfold setTok; split <;> rfl
@[simp] theorem setTok_far (s : State) (fill : Bool) (t n : Nat) : (setTok s fill t n).far = s.far := by
  unfold setTok; split <;> rfl
@[simp] theorem setTok_cip (s : State) (fill : Bool) (t n : Nat) : (setTok s fill t n).cip = s.cip := by
  unfold setTok; split <;> rfl
@[simp] theorem setTok_bnd (s : State) (fill : Bool) (t n : Nat) : (setTok s fill t n).bnd = s.bnd := by
  unfold setTok; split <;> rfl
@[simp] theorem setTok_folio (s : State) (fill : Bool) (t n : Nat) : (setTok s fill t n).folio = s.folio := by
  unfold setTok; split <;> rfl
@[simp] theorem setTok_sec (s : State) (fill : Bool) (t n : Nat) : (setTok s fill t n).sec = s.sec := by
  unfold setTok; split <;> rfl
@[simp] theorem setTok_cxl (s : State) (fill : Bool) (t n : Nat) : (setTok s fill t n).cxl = s.cxl := by
  unfold setTok; split <;> rfl
@[simp] theorem setTok_rst (s : State) (fill : Bool) (t n : Nat) : (setTok s fill t n).rst = s.rst := by
  unfold setTok; split <;> rfl
@[simp] theorem setTok_pwr (s : State) (fill : Bool) (t n : Nat) : (setTok s fill t n).pwr = s.pwr := by
  unfold setTok; split <;> rfl
@[simp] theorem setTok_jante (s : State) (fill : Bool) (t n : Nat) : (setTok s fill t n).jante = s.jante := by
  unfold setTok; split <;> rfl
@[simp] theorem setTok_devReset (s : State) (fill : Bool) (t n : Nat) : (setTok s fill t n).devReset = s.devReset := by
  unfold setTok; split <;> rfl
@[simp] theorem setTok_perst (s : State) (fill : Bool) (t n : Nat) : (setTok s fill t n).perst = s.perst := by
  unfold setTok; split <;> rfl
@[simp] theorem setTok_freeCtr (s : State) (fill : Bool) (t n : Nat) : (setTok s fill t n).freeCtr = s.freeCtr := by
  unfold setTok; split <;> rfl
@[simp] theorem setTok_out (s : State) (fill : Bool) (t n : Nat) : (setTok s fill t n).out = s.out := by
  unfold setTok; split <;> rfl

end Sys2Proof.Machine
end

