-- ==== Sys2Proof/Laws/Command.lean ====
section
/-!
SUPPORT. What running a Jante command comes to: its effect where its checks pass, its reply where one fails.
-/

namespace Sys2Proof

open Machine

theorem runCmd_passes {op : Nat} {check : State → Req → Option Reply} {eff : State → Req → State} {s : State} {r : Req}
    (h : Passes op check s r) : runCmd s op check eff = eff (examined s) r := by
  obtain ⟨h1, h2, h3, h4⟩ := h
  simp [runCmd, h1, Option.filter, h2, h3, h4, examined]

theorem runCmdMem_passes {op : Nat} {check : State → Req → Option Reply} {rw' : State → Req → List (Nat × Nat) × List (Nat × Nat)}
    {eff : State → Req → State} {s : State} {r : Req} (h : PassesMem op check rw' s r) :
    runCmdMem s op check rw' eff = eff (examined s) r := by
  have hp := runCmd_passes (eff := eff) h.toPasses
  obtain ⟨⟨h1, h2, h3, h4⟩, h5⟩ := h
  simp [runCmdMem, h1, Option.filter, h2, h3, h5, hp]

/-- With another opcode, nothing, or nobody on the bench, nothing happens. -/
theorem runCmd_other {op : Nat} {check : State → Req → Option Reply} {eff : State → Req → State} {s : State}
    (h : ∀ r, s.jante.exam = some r → r.opcode ≠ op ∨ janteAnswers s = false) : runCmd s op check eff = s := by
  unfold runCmd
  cases he : s.jante.exam with
  | none => rfl
  | some r => rcases h r he with h | h <;> simp [Option.filter, h]

/-- A failed check completes the command with its reply. -/
theorem runCmd_fails {op : Nat} {check : State → Req → Option Reply} {eff : State → Req → State} {s : State} {r : Req} {a : Reply}
    (h1 : s.jante.exam = some r) (h2 : r.opcode = op) (h3 : janteAnswers s = true) (h4 : check s r = some a) :
    runCmd s op check eff = completeReq (examined s) r a.1 a.2 := by
  simp [runCmd, h1, Option.filter, h2, h3, h4, examined]

@[simp] theorem examined_dev (s : State) : (examined s).dev = s.dev := rfl
@[simp] theorem examined_cal (s : State) : (examined s).cal = s.cal := rfl
@[simp] theorem examined_tok (s : State) : (examined s).tok = s.tok := rfl
@[simp] theorem examined_fill (s : State) : (examined s).fill = s.fill := rfl
@[simp] theorem examined_hbm (s : State) : (examined s).hbm = s.hbm := rfl
@[simp] theorem examined_sram (s : State) : (examined s).sram = s.sram := rfl
@[simp] theorem examined_pend (s : State) : (examined s).jante.pend = s.jante.pend := rfl

/-! Completing a command leaves what waits as it is, but for the sideband's own. -/

@[simp] theorem completeReq_pend (s : State) (r : Req) (st : Status) (resp : List Byte) :
    (completeReq s r st resp).jante.pend = s.jante.pend := by
  unfold completeReq; dsimp only; split
  · simp [setMailbox]
  · split <;> rfl

@[simp] theorem completeReq_exam (s : State) (r : Req) (st : Status) (resp : List Byte) :
    (completeReq s r st resp).jante.exam = s.jante.exam := by
  unfold completeReq; dsimp only; split
  · simp [setMailbox]
  · split <;> rfl

@[simp] theorem completeReq_rung (s : State) (r : Req) (st : Status) (resp : List Byte) :
    (completeReq s r st resp).jante.rung = s.jante.rung := by
  unfold completeReq; dsimp only; split
  · simp [setMailbox]
  · split <;> rfl

end Sys2Proof
end

