-- ==== Sys2Proof/Laws/Crypto.lean ====
section
/-!
SUPPORT. The ciphers undo themselves: what GCM seals under a key it opens under that key.
-/

namespace Sys2Proof.Machine

theorem xorBytes_length (a b : List Byte) : (xorBytes a b).length = min a.length b.length := by simp [xorBytes]

theorem xorBytes_twice (a k : List Byte) (h : a.length ≤ k.length) : xorBytes (xorBytes a k) k = a := by
  induction a generalizing k with
  | nil => rfl
  | cons x a ih =>
    cases k with
    | nil => simp at h
    | cons y k =>
      simp only [List.length_cons, Nat.add_le_add_iff_right] at h
      have := ih k h
      simp only [xorBytes, List.zip_cons_cons, List.map_cons] at this ⊢
      rw [this, BitVec.xor_assoc, BitVec.xor_self, BitVec.xor_zero]

/-- Every word of a list has four bytes. -/
theorem getD_length {w : List (List Byte)} {n i : Nat} (h : ∀ x ∈ w, x.length = n) (hi : i < w.length) : (w.getD i []).length = n := by
  rw [List.getD_eq_getElem?_getD, List.getElem?_eq_getElem hi, Option.getD_some]
  exact h _ (List.getElem_mem hi)

theorem aesExpand_words (n i : Nat) (rcon : Byte) (w : List (List Byte)) (h : ∀ x ∈ w, x.length = 4) (hl : 8 ≤ w.length) :
    (∀ x ∈ aesExpand n i rcon w, x.length = 4) ∧ (aesExpand n i rcon w).length = w.length + n := by
  induction n generalizing i rcon w with
  | zero => exact ⟨h, rfl⟩
  | succ n ih =>
    have h0 := getD_length h (show 0 < w.length by omega)
    have h7 := getD_length h (show 7 < w.length by omega)
    have step (t : List Byte) (ht : t.length = 4) (r : Byte) (j : Nat) :
        (∀ x ∈ aesExpand n j r (xorBytes (w.getD 7 []) t :: w), x.length = 4) ∧
          (aesExpand n j r (xorBytes (w.getD 7 []) t :: w)).length = w.length + (n + 1) := by
      have hx := ih j r (xorBytes (w.getD 7 []) t :: w) (by
        intro x hx
        rcases List.mem_cons.mp hx with rfl | hx
        · rw [xorBytes_length, h7, ht]; rfl
        · exact h x hx) (by simp only [List.length_cons]; omega)
      refine ⟨hx.1, ?_⟩
      rw [hx.2, List.length_cons]; omega
    unfold aesExpand
    dsimp only
    split
    · refine step _ ?_ _ _
      rw [xorBytes_length, List.length_map, List.length_append, List.length_drop, List.length_take, h0]
      rfl
    · split
      · exact step _ (by rw [List.length_map, h0]) _ _
      · exact step _ h0 _ _

theorem wordsBy4_words (n : Nat) (bs : List Byte) (h : bs.length = 4 * n) :
    (∀ x ∈ wordsBy4 n bs, x.length = 4) ∧ (wordsBy4 n bs).length = n := by
  induction n generalizing bs with
  | zero => exact ⟨fun x hx => by simp [wordsBy4] at hx, rfl⟩
  | succ n ih =>
    have := ih (bs.drop 4) (by rw [List.length_drop]; omega)
    refine ⟨fun x hx => ?_, by rw [wordsBy4, List.length_cons, this.2]⟩
    rw [wordsBy4] at hx
    rcases List.mem_cons.mp hx with rfl | hx
    · rw [List.length_take]; omega
    · exact this.1 x hx

/-- A key of 32 bytes expands into fifteen round keys of 16. -/
theorem aesKeys_length (key : List Byte) (h : key.length = 32) : (aesKeys key).length = 15 ∧ ∀ k ∈ aesKeys key, k.length = 16 := by
  have h0 := wordsBy4_words 8 key h
  have h1 := aesExpand_words 52 8 1#8 (wordsBy4 8 key).reverse (fun x hx => h0.1 x (List.mem_reverse.mp hx))
    (by have := h0.2; simp only [List.length_reverse]; omega)
  rw [List.length_reverse, h0.2] at h1
  refine ⟨by simp [aesKeys], fun k hk => ?_⟩
  obtain ⟨r, hr, rfl⟩ := List.mem_map.mp hk
  have hr := List.mem_range.mp hr
  have hw : ∀ x ∈ ((aesExpand 52 8 1#8 (wordsBy4 8 key).reverse).reverse.drop (4 * r)).take 4, x.length = 4 := fun x hx =>
    h1.1 x (List.mem_reverse.mp (List.mem_of_mem_drop (List.mem_of_mem_take hx)))
  have hn : (((aesExpand 52 8 1#8 (wordsBy4 8 key).reverse).reverse.drop (4 * r)).take 4).length = 4 := by
    rw [List.length_take, List.length_drop, List.length_reverse, h1.2]; omega
  rw [List.length_flatten]
  have : ∀ l : List (List Byte), (∀ x ∈ l, x.length = 4) → (l.map List.length).sum = 4 * l.length := by
    intro l
    induction l with
    | nil => intro _; rfl
    | cons a l ih =>
      intro h
      rw [List.map_cons, List.sum_cons, h a List.mem_cons_self, ih (fun x hx => h x (List.mem_cons_of_mem _ hx)), List.length_cons]
      omega
  rw [this _ hw, hn]

theorem aesRounds_length (ks : List (List Byte)) (b : List Byte) (h : ks ≠ []) (hk : ∀ k ∈ ks, k.length = 16) :
    (aesRounds ks b).length = 16 := by
  induction ks generalizing b with
  | nil => exact absurd rfl h
  | cons k ks ih =>
    cases ks with
    | nil =>
      rw [aesRounds, xorBytes_length, hk k List.mem_cons_self]
      simp [shiftRows]
    | cons k' ks =>
      rw [aesRounds]
      · exact ih _ (by simp) (fun x hx => hk x (List.mem_cons_of_mem _ hx))
      · simp

theorem aesEnc_length (key b : List Byte) (h : key.length = 32) : (aesEnc (aesKeys key) b).length = 16 := by
  have hk := aesKeys_length key h
  refine aesRounds_length _ _ (fun h0 => ?_) (fun k hx => hk.2 k (List.mem_of_mem_drop hx))
  have := congrArg List.length h0
  rw [List.length_drop, hk.1] at this
  simp at this

/-- The counter stream laid over a text twice gives the text back. -/
theorem ctrStream_twice (key iv : List Byte) (h : key.length = 32) (n c : Nat) (bs : List Byte) (hn : bs.length ≤ 16 * n) :
    ctrStream (aesKeys key) iv n c (ctrStream (aesKeys key) iv n c bs) = bs ∧ (ctrStream (aesKeys key) iv n c bs).length = bs.length := by
  induction n generalizing c bs with
  | zero =>
    have : bs = [] := List.length_eq_zero_iff.mp (by omega)
    subst this
    exact ⟨rfl, rfl⟩
  | succ n ih =>
    cases bs with
    | nil => exact ⟨rfl, rfl⟩
    | cons b bs =>
      have hl := aesEnc_length key (iv ++ beBytes 4 c) h
      by_cases hs : ((b :: bs).drop 16).length ≤ 16 * n
      · have hi := ih (c + 1) ((b :: bs).drop 16) hs
        have hx : (xorBytes ((b :: bs).take 16) (aesEnc (aesKeys key) (iv ++ beBytes 4 c))).length = min 16 (b :: bs).length := by
          rw [xorBytes_length, hl, List.length_take, Nat.min_assoc, Nat.min_comm (b :: bs).length 16, ← Nat.min_assoc, Nat.min_self]
        have e : ctrStream (aesKeys key) iv (n + 1) c (b :: bs) = xorBytes ((b :: bs).take 16) (aesEnc (aesKeys key) (iv ++ beBytes 4 c)) ++
            ctrStream (aesKeys key) iv n (c + 1) ((b :: bs).drop 16) := rfl
        have hlen : (ctrStream (aesKeys key) iv (n + 1) c (b :: bs)).length = (b :: bs).length := by
          rw [e, List.length_append, hx, hi.2, List.length_drop]; omega
        refine ⟨?_, hlen⟩
        have hne : (ctrStream (aesKeys key) iv (n + 1) c (b :: bs)).isEmpty = false := by
          cases hc : ctrStream (aesKeys key) iv (n + 1) c (b :: bs) with
          | nil => rw [hc] at hlen; simp at hlen
          | cons => rfl
        rw [ctrStream, hne, e]
        simp only [Bool.false_eq_true, if_false]
        by_cases h16 : 16 ≤ (b :: bs).length
        · have hx16 : (xorBytes ((b :: bs).take 16) (aesEnc (aesKeys key) (iv ++ beBytes 4 c))).length = 16 := by omega
          rw [List.take_append_of_le_length (by omega), List.take_of_length_le (by omega), List.drop_append_of_le_length (by omega),
            List.drop_of_length_le (by omega), List.nil_append, xorBytes_twice _ _ (by rw [List.length_take, hl]; omega), hi.1,
            List.take_append_drop]
        · have hd : (b :: bs).drop 16 = [] := List.drop_of_length_le (by omega)
          have hz : ctrStream (aesKeys key) iv n (c + 1) [] = [] := by cases n <;> rfl
          rw [hd, hz, List.append_nil, List.take_of_length_le (by omega), List.drop_of_length_le (by omega), hz, List.append_nil,
            xorBytes_twice _ _ (by rw [List.length_take, hl]; omega), List.take_of_length_le (by omega)]
      · exfalso
        rw [List.length_drop] at hs
        omega

/-- What a key seals it opens. -/
theorem gcmOpen_gcmSeal (key iv aad text : List Byte) (h : key.length = 32) :
    gcmOpen key iv aad (gcmSeal key iv aad text).1 (gcmSeal key iv aad text).2 = some text := by
  have ht := ctrStream_twice key iv h (text.length / 16 + 1) 2 text (by omega)
  have : gcmText (aesKeys key) iv (gcmText (aesKeys key) iv text) = text := by
    unfold gcmText
    rw [ht.2, ht.1]
  simp only [gcmOpen, gcmSeal, if_true, this]

/-- A sealed text has as many bytes as the text. -/
theorem gcmSeal_length (key iv aad text : List Byte) (h : key.length = 32) : (gcmSeal key iv aad text).1.length = text.length :=
  (ctrStream_twice key iv h (text.length / 16 + 1) 2 text (by omega)).2

end Sys2Proof.Machine
end

