-- ==== Sys2Proof/Laws/Tables.lean ====
section
/-!
SUPPORT. Tables: reading what was written.
-/

namespace Sys2Proof

@[simp] theorem Tbl.get_set_self {α : Type} (d : α) (t : Tbl α) (k : Nat) (v : α) : Tbl.get d (Tbl.set t k v) k = v := by
  induction t with
  | nil => simp [Tbl.set, Tbl.get]
  | cons e t ih =>
    obtain ⟨j, w⟩ := e
    simp only [Tbl.set]
    split
    · simp [Tbl.get]
    · split
      · simp [Tbl.get]
      · rename_i h1 h2
        have : ¬ j = k := by omega
        simp [Tbl.get, this, ih]

theorem Tbl.get_set_ne {α : Type} (d : α) (t : Tbl α) {k i : Nat} (v : α) (h : i ≠ k) :
    Tbl.get d (Tbl.set t k v) i = Tbl.get d t i := by
  induction t with
  | nil => simp [Tbl.set, Tbl.get, Ne.symm h]
  | cons e t ih =>
    obtain ⟨j, w⟩ := e
    simp only [Tbl.set]
    split
    · simp [Tbl.get, Ne.symm h]
    · split
      · rename_i h1 h2
        have : ¬ j = i := by omega
        simp [Tbl.get, this, Ne.symm h]
      · simp only [Tbl.get]; split
        · rfl
        · exact ih

end Sys2Proof
end

