-- ==== Sys2Proof/Laws/Memory.lean ====
section
/-!
SUPPORT. Memories in canonical form: reading what was written, and that every write keeps the form; and what the
operations over HBM can do, said once.
-/

namespace Sys2Proof.Machine

/-! ### The canonical form -/

theorem Memory.wf_cons {c : Host.Cell} {m : Mem} :
    Memory.wf (c :: m) = true ↔ c.2 ≠ 0#8 ∧ Memory.wf m = true ∧ ∀ d ∈ m, c.1 < d.1 := by
  induction m generalizing c with
  | nil => simp [Memory.wf]
  | cons d m ih =>
    simp only [Memory.wf, Bool.and_eq_true, bne_iff_ne, decide_eq_true_eq, ih]
    constructor
    · rintro ⟨⟨h1, h2⟩, h3, h4, h5⟩
      refine ⟨h1, ⟨h3, h4, h5⟩, fun e he => ?_⟩
      rcases List.mem_cons.1 he with rfl | he
      · exact h2
      · exact Nat.lt_trans h2 (h5 e he)
    · rintro ⟨h1, h2, h3⟩
      exact ⟨⟨h1, h3 d (by simp)⟩, h2⟩

/-- What is listed nowhere reads as zero. -/
theorem memGet_unlisted {m : Mem} {a : Nat} (h : ∀ d ∈ m, d.1 ≠ a) : memGet m a = 0#8 := by
  induction m with
  | nil => rfl
  | cons c m ih => simp [memGet, h c (by simp), ih (fun d hd => h d (by simp [hd]))]

theorem memSet_mem {m : Mem} {a : Nat} {b : Byte} {d : Host.Cell} (h : d ∈ memSet m a b) : d ∈ m ∨ d.1 = a := by
  induction m with
  | nil => by_cases hb : b = 0#8 <;> simp [memSet, hb] at h; simp [h]
  | cons c m ih =>
    simp only [memSet] at h
    split at h
    · split at h
      · exact .inl h
      · rcases List.mem_cons.1 h with rfl | h
        · exact .inr rfl
        · exact .inl h
    · split at h
      · split at h
        · exact .inl (by simp [h])
        · rcases List.mem_cons.1 h with rfl | h
          · exact .inr rfl
          · exact .inl (by simp [h])
      · rcases List.mem_cons.1 h with rfl | h
        · exact .inl (by simp)
        · rcases ih h with h | h
          · exact .inl (by simp [h])
          · exact .inr h

/-- A byte written keeps the form. -/
theorem memSet_wf {m : Mem} (a : Nat) (b : Byte) (h : Memory.wf m = true) : Memory.wf (memSet m a b) = true := by
  induction m with
  | nil => by_cases hb : b = 0#8 <;> simp [memSet, hb, Memory.wf]
  | cons c m ih =>
    obtain ⟨h1, h2, h3⟩ := Memory.wf_cons.1 h
    simp only [memSet]
    split
    · rename_i lt
      split
      · exact h
      · rename_i hb
        refine Memory.wf_cons.2 ⟨hb, h, fun d hd => ?_⟩
        rcases List.mem_cons.1 hd with rfl | hd
        · exact lt
        · exact Nat.lt_trans lt (h3 d hd)
    · rename_i ge
      split
      · rename_i eq
        split
        · exact h2
        · rename_i hb
          exact Memory.wf_cons.2 ⟨hb, h2, fun d hd => by simpa [eq] using h3 d hd⟩
      · rename_i ne
        refine Memory.wf_cons.2 ⟨h1, ih h2, fun d hd => ?_⟩
        rcases memSet_mem hd with hd | hd
        · exact h3 d hd
        · omega

theorem memWrite_wf {m : Mem} (a : Nat) (bs : List Byte) (h : Memory.wf m = true) : Memory.wf (memWrite m a bs) = true := by
  induction bs generalizing m a with
  | nil => exact h
  | cons b bs ih => exact ih (a + 1) (memSet_wf a b h)

theorem filter_wf {m : Mem} (p : Host.Cell → Bool) (h : Memory.wf m = true) : Memory.wf (m.filter p) = true := by
  induction m with
  | nil => rfl
  | cons c m ih =>
    obtain ⟨h1, h2, h3⟩ := Memory.wf_cons.1 h
    simp only [List.filter]
    split
    · exact Memory.wf_cons.2 ⟨h1, ih h2, fun d hd => h3 d (List.mem_filter.1 hd).1⟩
    · exact ih h2

/-! ### Reading what was written -/

theorem memGet_memSet_self {m : Mem} (a : Nat) (b : Byte) (h : Memory.wf m = true) : memGet (memSet m a b) a = b := by
  induction m with
  | nil => by_cases hb : b = 0#8 <;> simp [memSet, hb, memGet]
  | cons c m ih =>
    obtain ⟨h1, h2, h3⟩ := Memory.wf_cons.1 h
    simp only [memSet]
    split
    · rename_i lt
      split
      · rename_i hb
        rw [hb]
        refine memGet_unlisted (fun d hd => ?_)
        rcases List.mem_cons.1 hd with rfl | hd
        · omega
        · have := h3 d hd; omega
      · simp [memGet]
    · split
      · rename_i eq
        split
        · rename_i hb
          rw [hb]
          exact memGet_unlisted (fun d hd => by have := h3 d hd; omega)
        · simp [memGet]
      · rename_i ne
        simp [memGet, Ne.symm ne, ih h2]

theorem memGet_memSet_ne {m : Mem} {a k : Nat} (b : Byte) (h : k ≠ a) : memGet (memSet m a b) k = memGet m k := by
  induction m with
  | nil => by_cases hb : b = 0#8 <;> simp [memSet, hb, memGet, Ne.symm h]
  | cons c m ih =>
    simp only [memSet]
    split
    · split
      · rfl
      · simp [memGet, Ne.symm h]
    · split
      · rename_i eq
        have : ¬ c.1 = k := by omega
        split <;> simp [memGet, this, Ne.symm h]
      · simp only [memGet]; split
        · rfl
        · exact ih

/-- A write leaves every byte outside it as it was. -/
theorem memGet_memWrite_out {m : Mem} {a k : Nat} (bs : List Byte) (h : k < a ∨ a + bs.length ≤ k) :
    memGet (memWrite m a bs) k = memGet m k := by
  induction bs generalizing m a with
  | nil => rfl
  | cons b bs ih =>
    simp only [List.length_cons] at h
    rw [memWrite, ih (by omega), memGet_memSet_ne _ (by omega)]

/-- What a write stored reads back. -/
theorem memGet_memWrite_in {m : Mem} {a k : Nat} (bs : List Byte) (hm : Memory.wf m = true) (h : k < bs.length) :
    memGet (memWrite m a bs) (a + k) = bs.getD k 0#8 := by
  induction bs generalizing m a k with
  | nil => simp at h
  | cons b bs ih =>
    rw [memWrite]
    cases k with
    | zero => rw [memGet_memWrite_out _ (by omega)]; simpa using memGet_memSet_self a b hm
    | succ k =>
      have e : a + (k + 1) = a + 1 + k := by omega
      rw [e, ih (memSet_wf a b hm) (by simpa using h)]; simp

theorem memRead_memWrite {m : Mem} (a : Nat) (bs : List Byte) (hm : Memory.wf m = true) :
    memRead (memWrite m a bs) a bs.length = bs := by
  have key : ∀ (n k : Nat), k + n = bs.length → memRead (memWrite m a bs) (a + k) n = bs.drop k := by
    intro n
    induction n with
    | zero => intro k hk; simp [memRead]; omega
    | succ n ih =>
      intro k hk
      have hk' : k < bs.length := by omega
      rw [memRead, memGet_memWrite_in bs hm hk', List.drop_eq_getElem_cons hk', Nat.add_assoc, ih (k + 1) (by omega)]
      simp [List.getD_eq_getElem?_getD, hk']
  simpa using key bs.length 0 (by omega)

/-! ### What the operations over HBM can do -/

/-- `t` is `s` but for HBM and its poison, the memory sides of partitions (tip-in buffers and errors), the message of an
error and the fences it asked for; HBM keeps its canonical form. -/
def HbmChange (s t : State) : Prop :=
  ∃ h hp m irq pba o req, (Memory.wf s.hbm = true → Memory.wf h = true) ∧
    t = { s with hbm := h, hbmPoison := hp, mem := m, cxl := { s.cxl with irqStat := irq, pba := pba }, out := o,
                 rst := { s.rst with req := req } }

theorem HbmChange.refl (s : State) : HbmChange s s := ⟨_, _, _, _, _, _, _, id, rfl⟩

theorem HbmChange.trans {s t u : State} (h1 : HbmChange s t) (h2 : HbmChange t u) : HbmChange s u := by
  obtain ⟨_, _, _, _, _, _, _, w1, rfl⟩ := h1
  obtain ⟨_, _, _, _, _, _, _, w2, rfl⟩ := h2
  exact ⟨_, _, _, _, _, _, _, fun h => w2 (w1 h), rfl⟩

theorem HbmChange.foldl {α : Type} {f : State → α → State} (h : ∀ s x, HbmChange s (f s x)) (l : List α) (s : State) :
    HbmChange s (l.foldl f s) := by
  induction l generalizing s with
  | nil => exact .refl s
  | cons x l ih => exact (h s x).trans (ih _)

theorem HbmChange.wf {s t : State} (h : HbmChange s t) (hs : Memory.wf s.hbm = true) : Memory.wf t.hbm = true := by
  obtain ⟨_, _, _, _, _, _, _, w, rfl⟩ := h; exact w hs

theorem raiseVector_hbmChange (s : State) (v : Nat) : HbmChange s (raiseVector s v) := by
  unfold raiseVector
  split
  · exact .refl s
  · dsimp only; split <;> exact ⟨_, _, _, _, _, _, _, id, rfl⟩

theorem requestFence_hbmChange (s : State) (p cause : Nat) : HbmChange s (requestFence s p cause) := by
  unfold requestFence
  split
  · exact ⟨_, _, _, _, _, _, _, id, rfl⟩
  · exact .refl s

theorem memError_hbmChange (s : State) (p bit addr : Nat) (inSram : Bool) : HbmChange s (memError s p bit addr inSram) := by
  have h : ∀ x, HbmChange s (raiseVector (setMem s p x) 24) := fun x =>
    HbmChange.trans ⟨_, _, _, _, _, _, _, id, rfl⟩ (raiseVector_hbmChange _ _)
  have h2 : ∀ u, HbmChange s u → HbmChange s (if bit = errUe ∧ bitAt u.rst.policy 0 then requestFence u p 1 else u) := by
    intro u hu; split
    · exact hu.trans (requestFence_hbmChange _ _ _)
    · exact hu
  exact h2 _ (h _)

theorem updTip_hbmChange (s : State) (p : Nat) (f : Tip → Tip) : HbmChange s (updTip s p f) :=
  ⟨_, _, _, _, _, _, _, id, rfl⟩

theorem foldl_memSet_wf (l : List (Nat × Byte)) (at_ : Nat) {m : Mem} (h : Memory.wf m = true) :
    Memory.wf (l.foldl (fun m e => memSet m (at_ + e.1) e.2) m) = true := by
  induction l generalizing m with
  | nil => exact h
  | cons e l ih => exact ih (memSet_wf _ _ h)

theorem flushAtom_hbmChange (s : State) (l : TipLine) (k : Nat) : HbmChange s (flushAtom s l k) := by
  unfold flushAtom
  dsimp only
  split
  · exact .refl s
  · split
    · exact ⟨_, _, _, _, _, _, _, fun h => foldl_memSet_wf _ _ h, rfl⟩
    · split
      · exact memError_hbmChange _ _ _ _ _
      · exact ⟨_, _, _, _, _, _, _, fun h => foldl_memSet_wf _ _ h, rfl⟩

theorem meterHbm_hbmChange (s : State) (by_ : Option Poster) (cls : Nat) (write : Bool) (h n : Nat) :
    HbmChange s (meterHbm s by_ cls write h n) := ⟨_, _, _, _, _, _, _, id, rfl⟩

theorem flushTraffic_hbmChange (s : State) (l : TipLine) : HbmChange s (flushTraffic s l) :=
  (HbmChange.foldl (fun _ _ => meterHbm_hbmChange _ _ _ _ _ _) _ s).trans
    (HbmChange.foldl (fun _ _ => meterHbm_hbmChange _ _ _ _ _ _) _ _)

/-- What `f` does to HBM, `apart` does. -/
theorem apart_hbmChange (s : State) (cls : Nat) {f : State → State} (h : ∀ t, HbmChange t (f t)) : HbmChange s (apart s cls f) := by
  unfold apart
  exact (HbmChange.trans ⟨_, _, _, _, _, _, _, id, rfl⟩ (h _)).trans ⟨_, _, _, _, _, _, _, id, rfl⟩

theorem tipFlush_hbmChange (s : State) (line : Nat) : HbmChange s (tipFlush s line) := by
  unfold tipFlush
  split
  · exact .refl s
  · exact ((HbmChange.foldl (fun s k => flushAtom_hbmChange s _ k) _ s).trans
      (apart_hbmChange _ _ (fun t => flushTraffic_hbmChange t _))).trans (updTip_hbmChange _ _ _)

/-- A full buffer frees its oldest line before a new one is taken. -/
theorem tipMakeRoom_hbmChange (s : State) (ls : List TipLine) (held : Bool) :
    HbmChange s (if held then s else match ls with
      | l :: _ => if 512 ≤ ls.length then tipFlush s l.line else s
      | [] => s) := by
  split
  · exact .refl s
  · split
    · split
      · exact tipFlush_hbmChange _ _
      · exact .refl s
    · exact .refl s

theorem tipWrite_hbmChange (s : State) (line off : Nat) (bs : List Byte) (cls : Nat) : HbmChange s (tipWrite s line off bs cls) := by
  have last : ∀ t, HbmChange t (match tipLineOf t line with
      | some l => if l.data.length = 256 then tipFlush t line else t
      | none => t) := by
    intro t; split
    · split
      · exact tipFlush_hbmChange _ _
      · exact .refl t
    · exact .refl t
  exact ((tipMakeRoom_hbmChange s _ _).trans (updTip_hbmChange _ _ _)).trans (last _)

theorem lineWrite_hbmChange (s : State) (line : Nat) (bs : List Byte) : HbmChange s (lineWrite s line bs) :=
  ⟨_, _, _, _, _, _, _, fun h => memWrite_wf _ _ h, rfl⟩

theorem writeNow_hbmChange (s : State) (cls a : Nat) (bs : List Byte) : HbmChange s (writeNow s cls a bs) := by
  unfold writeNow
  split
  · exact (lineWrite_hbmChange _ _ _).trans (meterHbm_hbmChange _ _ _ _ _ _)
  · exact tipWrite_hbmChange _ _ _ _ _

/-- Flushes under way and waiting writes settled. -/
theorem tipSettle_hbmChange (s : State) (p : Nat) : HbmChange s (tipSettle s p) := by
  unfold tipSettle
  dsimp only
  split
  · exact .refl s
  · exact ((HbmChange.foldl (fun _ _ => tipFlush_hbmChange _ _) _ s).trans (updTip_hbmChange _ _ _)).trans
      (HbmChange.foldl (fun _ _ => writeNow_hbmChange _ _ _ _) _ _)

/-- A write to usable HBM. -/
theorem hbmWrite_hbmChange (s : State) (cls a : Nat) (bs : List Byte) : HbmChange s (hbmWrite s cls a bs) := by
  unfold hbmWrite
  refine HbmChange.foldl (fun s c => ?_) _ s
  split
  · exact (tipSettle_hbmChange _ _).trans (writeNow_hbmChange _ _ _ _)
  · exact writeNow_hbmChange _ _ _ _

/-- A write to device addresses. -/
theorem devWrite_hbmChange (s : State) (cls a : Nat) (bs : List Byte) : HbmChange s (devWrite s cls a bs) := by
  unfold devWrite
  generalize chunksIn a bs.length = l
  induction l generalizing s bs with
  | nil => exact .refl s
  | cons c l ih =>
    refine HbmChange.trans ?_ (ih _ _)
    dsimp only
    split
    · exact hbmWrite_hbmChange _ _ _ _
    · exact memError_hbmChange _ _ _ _ _
    · exact .refl s

/-! ### SRAM -/

theorem sramWrite_wf {s : State} (a : Nat) (bs : List Byte) (h : Memory.wf s.sram = true) :
    Memory.wf (sramWrite s a bs).sram = true := memWrite_wf a bs h

/-! ### Checksums -/

theorem crcBit_lt {c : Nat} (h : c < 2 ^ 32) : crcBit c < 2 ^ 32 := by
  have h1 : c >>> 1 < 2 ^ 32 := by rw [Nat.shiftRight_eq_div_pow]; omega
  unfold crcBit
  split
  · exact Nat.xor_lt_two_pow h1 (by decide)
  · exact h1

theorem crcByte_lt {c : Nat} (b : Byte) (h : c < 2 ^ 32) : crcByte c b < 2 ^ 32 := by
  unfold crcByte
  have h0 : c ^^^ b.toNat < 2 ^ 32 := Nat.xor_lt_two_pow h (Nat.lt_of_lt_of_le b.isLt (by decide))
  exact crcBit_lt (crcBit_lt (crcBit_lt (crcBit_lt (crcBit_lt (crcBit_lt (crcBit_lt (crcBit_lt h0)))))))

theorem foldl_crcByte_lt (bs : List Byte) {c : Nat} (h : c < 2 ^ 32) : bs.foldl crcByte c < 2 ^ 32 := by
  induction bs generalizing c with
  | nil => exact h
  | cons b bs ih => exact ih (crcByte_lt b h)

theorem crc32c_lt (bs : List Byte) : crc32c bs < 2 ^ 32 :=
  Nat.xor_lt_two_pow (foldl_crcByte_lt bs (by decide)) (by decide)

@[simp] theorem hbmRead_sheetSet (s : State) (k c a n : Nat) : hbmRead (sheetSet s k c) a n = hbmRead s a n := by
  induction n generalizing a with
  | zero => rfl
  | succ n ih => simp only [hbmRead, ih]; rfl

/-- Metering moves nothing but the traffic waiting for its class: a read sees what it saw. -/
theorem meterHbm_tip (s : State) (by_ : Option Poster) (cls : Nat) (write : Bool) (h n q : Nat) :
    (memOf (meterHbm s by_ cls write h n) q).tip = (memOf s q).tip := by
  unfold meterHbm memOf setMem
  by_cases e : q = hbmPart h
  · subst e; simp
  · simp [Tbl.get_set_ne _ _ _ e]

@[simp] theorem meterHbm_hbmRead (s : State) (by_ : Option Poster) (cls : Nat) (write : Bool) (h n a k : Nat) :
    hbmRead (meterHbm s by_ cls write h n) a k = hbmRead s a k := by
  induction k generalizing a with
  | zero => rfl
  | succ k ih => simp only [hbmRead, ih, hbmByte, tipLineOf, meterHbm_tip]; rfl

/-- A tile that has just been sealed agrees with its entry (R147, R148). -/
theorem tileOk_tileSeal (s : State) (cls a : Nat) (h : a % hbmWindow < sheetOffset) : tileOk (tileSeal s cls a) a = true := by
  have hm : ∀ t : State, tileOk (meterHbm t none cls true (entryAddr a) 4) a = tileOk t a := fun t => by
    simp only [tileOk, tileCrc, meterHbm_hbmRead]; rfl
  rw [tileSeal, hm]
  have hs : ¬ sheetOffset ≤ a % hbmWindow := by omega
  have hl := crc32c_lt (hbmRead s (a / 4096 * 4096) 4096)
  simp [tileOk, tileCrc, sheetGet, hs]
  simp [sheetSet, BitVec.toNat_ofNat]
  omega

end Sys2Proof.Machine
end

