-- ==== Sys2Proof/WellFormed.lean ====
section
/-!
DEFINITION. Well-formed commands: the operands of a command stay within what its row can carry.
-/

namespace Sys2Proof

/-- The operands are values the command can carry on the hardware: a payload fits its mailbox (R385), a line is 256
bytes (R139), a flit carries 256 bytes (R237), a clear header is 48 bytes and a tag 16 (R306), a DOE object is at
most 16 KiB (R382). -/
def Instr.wellFormed : Instr → Bool
  | .sidebandRequest _ _ fields payload => fields.length == 72 && decide (payload.length ≤ 4096)
  | .wholeLineWrite _ _ data => data.bytes.length == 256
  | .partialWrite _ addr data _ => decide (0 < data.length) && decide (addr % 256 + data.length < 257)
  | .dataFlitReceive _ _ payload | .idleFlitReceive _ _ payload | .nakReceive _ _ payload => payload.length == 256
  | .chotinData _ f | .chotinSack _ f | .chotinProbe _ f | .chotinProbeReply _ f | .chotinJoinReq _ f
  | .chotinBulk _ f | .chotinBulkEnd _ f | .chotinHello _ f | .chotinLeave _ f | .chotinReservedFrame _ f =>
    f.header.length == 48 && f.tag.length == 16
  | .cxlMemWrite _ data => data.length == 64
  | .hostWriteback _ data => data.length == 64
  | .birspReceive _ (some data) => data.length == 64
  | .bar0Access _ size _ _ => size == 1 || size == 2 || size == 4 || size == 8
  | _ => true

end Sys2Proof
end

