-- ==== Sys2Proof/Tests/Slice0.lean ====
section
/-!
SUPPORT. Tests: ill-formed commands, witnesses that the hypotheses of every statement can be met, and values the spec works out.
-/

namespace Sys2Proof.Tests

set_option Elab.async false

open Machine

/-! ### Ill-formed commands: one for each check -/

theorem test_illformed_args : (Instr.sidebandRequest 0x7F 0 (List.replicate 71 0) []).wellFormed = false := by decide +kernel
theorem test_illformed_payload : (Instr.sidebandRequest 0x7F 0 (List.replicate 72 0) (List.replicate 4097 0)).wellFormed = false := by
  decide +kernel
theorem test_illformed_line : (Instr.wholeLineWrite 0 0 ⟨6, List.replicate 255 0⟩).wellFormed = false := by decide +kernel
theorem test_illformed_partial : (Instr.partialWrite 0 0 [] 6).wellFormed = false := by decide
theorem test_illformed_crossing : (Instr.partialWrite 0 255 [1, 2] 6).wellFormed = false := by decide
theorem test_illformed_flit : (Instr.dataFlitReceive 0 0 [0]).wellFormed = false := by decide
theorem test_illformed_idle : (Instr.idleFlitReceive 0 0 [0]).wellFormed = false := by decide
theorem test_illformed_nak : (Instr.nakReceive 0 0 [0]).wellFormed = false := by decide
theorem test_illformed_header : (Instr.chotinData 0 ⟨List.replicate 47 0, [], List.replicate 16 0⟩).wellFormed = false := by decide
theorem test_illformed_tag : (Instr.chotinHello 0 ⟨List.replicate 48 0, [], List.replicate 15 0⟩).wellFormed = false := by decide
theorem test_illformed_cxl : (Instr.cxlMemWrite 0 [0]).wellFormed = false := by decide
theorem test_illformed_writeback : (Instr.hostWriteback 0 [0]).wellFormed = false := by decide
theorem test_illformed_birsp : (Instr.birspReceive 0 (some [0])).wellFormed = false := by decide
theorem test_illformed_size : (Instr.bar0Access .reserved 3 false 0).wellFormed = false := by decide
theorem test_wellformed : (Instr.bar0Access .reserved 8 false 0).wellFormed = true := by decide

/-! ### States the tests start from -/

/-- A part at READY. -/
def readyS : State := { State.reset with dev := .ready }

/-- Command `op` stands on Jante's bench. -/
def req (op : Nat) (args : List W64) (payload : List Byte) : Req := ⟨0, op, 1, payload.length, args, payload⟩
def bench (s : State) (r : Req) : State := { s with jante := { s.jante with exam := some r } }

/-- Request `r` of opcode `op` passes its checks. -/
def passes (op : Nat) (check : State → Req → Option Reply) (s : State) (r : Req) : Bool :=
  r.opcode == op && janteAnswers s && (check (bench s r) r).isNone

theorem passes_of {op : Nat} {check : State → Req → Option Reply} {s : State} {r : Req} (h : passes op check s r = true) :
    Passes op check (bench s r) r := by
  simp only [passes, Bool.and_eq_true, beq_iff_eq, Option.isNone_iff_eq_none] at h
  exact ⟨rfl, h.1.1, h.1.2, h.2⟩

/-- As `passes`, and no host holds a line of what the command reads and writes. -/
def passesMem (op : Nat) (check : State → Req → Option Reply) (rw : State → Req → List (Nat × Nat) × List (Nat × Nat)) (s : State)
    (r : Req) : Bool :=
  passes op check s r && (hostHolds (bench s r) (rw (bench s r) r).1 (rw (bench s r) r).2).isNone

theorem passesMem_of {op : Nat} {check : State → Req → Option Reply} {rw : State → Req → List (Nat × Nat) × List (Nat × Nat)}
    {s : State} {r : Req} (h : passesMem op check rw s r = true) : PassesMem op check rw (bench s r) r := by
  simp only [passesMem, Bool.and_eq_true, Option.isNone_iff_eq_none] at h
  exact ⟨passes_of h.1, h.2⟩

/-! ### The queue and the mailboxes -/

theorem witness_StepRunsFrontCommand : step { readyS with pending := [.controlStep] } = exec .controlStep readyS := rfl

theorem witness_StepOnEmptyQueue :
    (readyS.pending = [] ∧ readyS.dev ≠ .off ∧ readyS.pwr.refclk = true) ∧
    (State.reset.pending = [] ∧ clocksRun State.reset.dev = false ∧ State.reset.dev = .off) := by decide

theorem witness_StepKeepsInvariant : Inv readyS ∧ ∃ t, step readyS = .next t := ⟨⟨rfl, rfl, rfl, rfl⟩, _, rfl⟩

theorem witness_CommandsLeaveQueueAlone : ∃ t, exec .refclkReturn State.reset = .next t := ⟨_, rfl⟩

/-- A host's port is up. -/
def portS : State := { readyS with cxl := { cxlReset with up := true, rate := 2, width := 16 } }

theorem witness_DoorbellRing :
    (bar0Up portS = true ∧ bitAt (1#32) 0 = true ∧ bitAt (mailboxOf portS 0).status 31 = false) ∧
    bitAt (mailboxOf (setMailbox portS 15 { mailboxReset with status := 0x80010000 }) 15).status 31 = true := by decide

theorem witness_CompletionUpdatesMailbox : (req 0x0101 [] []).src < 16 ∧ (List.replicate 4096 (7 : Byte)).length ≤ 4096 := by decide +kernel

/-- Mailbox 3 is rung with DEV_QUERY, or with an opcode outside the command set. -/
def rungS (op : Nat) : State :=
  { setMailbox readyS 3 { mailboxReset with cmd := BitVec.ofNat 32 op } with jante := { (setMailbox readyS 3 { mailboxReset with
      cmd := BitVec.ofNat 32 op }).jante with rung := [3] } }

theorem witness_CommandTakeUp :
    ((rungS 0x0101).jante.exam = none ∧ janteAnswers (rungS 0x0101) = true ∧ (rungS 0x0101).jante.rung = [3] ∧
      (rungS 0x0101).dev ≠ .standby ∧ hostHolds (rungS 0x0101) (cmdRanges (rungS 0x0101) (boxReq (rungS 0x0101) 3)).1
        (cmdRanges (rungS 0x0101) (boxReq (rungS 0x0101) 3)).2 = none) ∧
    examine (rungS 0x0101) (boxReq (rungS 0x0101) 3) = none ∧
    examine (rungS 0x0999) (boxReq (rungS 0x0999) 3) = some (.badOpcode, []) := by decide +kernel

theorem witness_FirstChecksInOrder :
    (0x0100 ∉ commandSet) ∧ (objectsOf (req 0x0401 [64] []) = .error 0 ∧ 0x0401 ∈ commandSet) ∧
    (objectsOf (req 0x0805 [] []) = .ok [.bindery] ∧ Obj.bindery ∈ heldObjects { readyS with jante := { janteReset with
      pend := [⟨req 0x0804 [] [], .bindery, 0⟩] } } 0x0805) ∧
    (4096 < ({ req 0x0101 [] [] with plen := 4097 } : Req).plen ∧ 0x0101 ∉ ownOrder ∧
      ({ req 0x0101 [] [] with plen := 1 } : Req).payload.length < ({ req 0x0101 [] [] with plen := 1 } : Req).plen ∧
      objectsOf (req 0x0101 [] []) = .ok []) ∧
    (0x0201 ∈ commandSet ∧ 0x0201 ∈ ownOrder ∧ objectsOf (req 0x0201 [1] []) = .ok [.bank 1] ∧
      Obj.bank 1 ∉ heldObjects readyS 0x0201) :=
  ⟨by decide +kernel, ⟨rfl, by decide +kernel⟩, ⟨rfl, by decide +kernel⟩, ⟨by decide, by decide +kernel, by decide, rfl⟩,
   by decide +kernel, by decide +kernel, rfl, by decide +kernel⟩

/-- A state with one command PENDING. -/
def pendS (s : State) (r : Req) (o : Obj) (note : Nat) : State := { s with jante := { s.jante with pend := [⟨r, o, note⟩] } }

theorem witness_CommandTimeout :
    (pendS readyS (req 0x0110 [] []) .boardWrite 0).rst.mpDown = false ∧
    (limited 0x0A01 = true) ∧
    (∀ r ∈ [req 0x0A01 [0] [], req 0x0A02 [0] [], req 0x0110 [] [], req 0x0201 [1] [], req 0x040B [1] [], req 0x0605 [] [],
        req 0x0B01 [] []],
      (pendS readyS r .boardWrite 0).jante.pend.find? (fun x => x.req.src == 0 && limited x.req.opcode) =
        some ⟨r, .boardWrite, 0⟩) := by decide +kernel

theorem witness_SidebandRequest :
    (readyS.dev ≠ .off ∧ readyS.jante.sideband = none ∧ readyS.dev ≠ .standby) ∧
    (({ State.reset with dev := .standby } : State).jante.sideband = none ∧ 0x0111 ∈ commandSet ∧ 0x0111 ∉ standbyOps) ∧
    ({ readyS with jante := { janteReset with sideband := some (req 0x0101 [] []) } } : State).jante.sideband =
      some (req 0x0101 [] []) ∧
    (natAt (natBytes 2 0x0111 ++ List.replicate 70 0) 0 2 = 0x0111 ∧ (0x7E : Nat) ≠ 0x7F) := by decide +kernel

/-! ### Jante commands: each check passes somewhere -/

/-- Bytes in HBM whose tiles have their checksums. -/
def stored (s : State) (a : Nat) (bs : List Byte) : State := sealAll (devWrite s 4 a bs) 4 (tilesOf s a bs.length)

def zeros (n : Nat) : List Byte := List.replicate n 0
def les (n v : Nat) : List Byte := natBytes n v

/-- A record of the Folio (R361): TYPE, LEN, its version and reserved bytes, its body. -/
def folRec (type : Nat) (body : List Byte) : List Byte := les 2 type ++ les 2 (body.length + 8) ++ zeros 4 ++ body

/-- A board part: device 0 of a full mesh of two, joined to device 1 by link 0 (R366). -/
def boardPart : List Byte :=
  let front := folRec 0x0101 ([0, 2, 1, 1, 1, 0, 0, 0, 2] ++ zeros 7) ++ folRec 0x0102 ([1, 0] ++ zeros 14 ++
    (List.replicate 11 ([0xFF, 0] ++ zeros 14)).flatten)
  front ++ folRec 0x01FF (zeros 4 ++ les 4 (crc32c front))

theorem test_board : (boardOf boardPart).isSome = true := by decide +kernel

def boardS : State := { readyS with folio := { folioReset with board0 := boardPart, boardOk := true } }
def writeReq : Req := req 0x0110 [] boardPart

theorem witness_DeviceCommands :
    (passes 0x0101 devQueryCheck readyS (req 0x0101 [] []) = true ∧ passes 0x0111 folReadCheck readyS (req 0x0111 [255] []) = true ∧
      passes 0x0301 slowMapCheck readyS (req 0x0301 [15, 0x8000000000000001, 0x10000000000] []) = true ∧
      passes 0x0110 boardWriteCheck readyS writeReq = true) ∧
    ((pendS readyS writeReq .boardWrite 0).jante.pend.find? (fun x => x.req.opcode == 0x0110) =
        some ⟨writeReq, .boardWrite, 0⟩ ∧ clocksRun readyS.dev = true ∧ readyS.rst.mpDown = false) := by decide +kernel

/-- A bank image of one section: element engines, figure words 0 to 1. -/
def bankImage : List Byte :=
  les 4 0x4B4E4254 ++ les 2 1 ++ les 2 0 ++ les 4 7 ++ les 4 1 ++ les 4 64 ++ zeros 12 ++
    ([3, 0] ++ zeros 2 ++ les 4 0 ++ les 4 2 ++ zeros 4 ++ zeros 16)

theorem hbmRead_bench (s : State) (r : Req) (a n : Nat) : hbmRead (bench s r) a n = hbmRead s a n := by
  induction n generalizing a with
  | zero => rfl
  | succ n ih => simp only [hbmRead, ih]; rfl

/-- A sealed tile is good on the bench too. -/
theorem tileOk_bench (s : State) (r : Req) (t : Nat) (h : t % hbmWindow < sheetOffset) : tileOk (bench (tileSeal s 4 t) r) t = true := by
  have := tileOk_tileSeal s 4 t h
  have hs : sheetGet (bench (tileSeal s 4 t) r) t = sheetGet (tileSeal s 4 t) t := rfl
  simpa only [tileOk, tileCrc, hbmRead_bench, hs] using this

/-- The range lies in one tile `t`, not poisoned. -/
def oneTile (s : State) (a n t : Nat) : Bool :=
  ((chunksIn a n).map (fun c => c.1 / 4096 * 4096) == [t] && accOf s t == .hbm t) && (tilePoisoned s t).isNone

theorem badTile_one {s : State} {a n t : Nat} (h : oneTile s a n t = true) (ht : tileOk s t = true) : badTile s a n = none := by
  simp only [oneTile, Bool.and_eq_true, beq_iff_eq, Option.isNone_iff_eq_none] at h
  simp [badTile, h.1.1, h.1.2, h.2, ht]

theorem imageCheck_one {s : State} {arg a n t : Nat}
    (h : ((imageFault s a n).isNone && oneTile s a n t) = true)
    (ht : tileOk s t = true) : imageCheck s arg a n = none := by
  rw [Bool.and_eq_true] at h
  simp [imageCheck, Option.isNone_iff_eq_none.mp h.1, badTile_one h.2 ht]

def bankS : State := tileSeal (devWrite readyS 4 0x10000 bankImage) 4 0x10000
def bankReq : Req := req 0x0201 [1, 0x10000, 4096] []

theorem bank_good : loadBankCheck (bench bankS bankReq) bankReq = none := by
  have h : badTile (bench bankS bankReq) (argOf bankReq 1) (natAt (bankBytes (bench bankS bankReq) bankReq) 16 4) = none :=
    badTile_one (t := 0x10000) (by decide +kernel) (tileOk_bench _ _ _ (by decide))
  simp only [loadBankCheck, h, Option.map_none]
  decide +kernel

theorem witness_BankCommands :
    PassesMem 0x0201 loadBankCheck loadBankRanges (bench bankS bankReq) bankReq ∧
    (pendS readyS bankReq (.bank 1) 0).jante.pend.find? (fun x => pendOp 0x0201 x && x.obj == .bank ((1 : Fin 2).val)) =
      some ⟨bankReq, .bank 1, 0⟩ := ⟨⟨⟨rfl, rfl, by decide +kernel, bank_good⟩, by decide +kernel⟩, by decide +kernel⟩

/-- The header of a stream of two measures. -/
def streamHeader : List Byte := les 4 0x4D545347 ++ les 2 1 ++ zeros 2 ++ les 4 2 ++ les 4 1 ++ zeros 496

def streamS : State := stored readyS 0x100000 streamHeader
/-- The stream stands stopped. -/
def stoppedS : State := { readyS with dev := .running }

theorem witness_PrimaryCommands :
    passesMem 0x0202 startCheck startRanges streamS (req 0x0202 [0x100000] []) = true ∧
    (passes 0x0203 resumeCheck stoppedS (req 0x0203 [] []) = true ∧ stoppedS.cal.issued = false ∧
      passes 0x0203 resumeCheck { stoppedS with cal := { callerReset with issued := true } } (req 0x0203 [] []) = true) ∧
    passes 0x0204 endCheck stoppedS (req 0x0204 [] []) = true ∧
    (Pends 0x0204 ⟨req 0x0204 [] [], .stream, 0⟩ (pendS stoppedS (req 0x0204 [] []) .stream 0) ∧
      primaryIdle (pendS stoppedS (req 0x0204 [] []) .stream 0) = true) :=
  ⟨by decide +kernel, by decide +kernel, by decide +kernel, rfl, by decide +kernel⟩

/-- The fill context is enabled. -/
def fillS : State := { streamS with fill := { fillReset with en := true, run := true, base := 0x100000, size := 1, imgCount := 2 } }

theorem witness_FillCommands :
    passesMem 0x0205 fillStartCheck startRanges streamS (req 0x0205 [0x100000, 0x100000, 1] []) = true ∧
    passes 0x0206 fillStopCheck fillS (req 0x0206 [] []) = true ∧
    (Pends 0x0206 ⟨req 0x0206 [] [], .fill, 0⟩ (pendS { fillS with fill := { fillS.fill with stopping := true } } (req 0x0206 [] [])
      .fill 0)) := ⟨by decide +kernel, by decide +kernel, rfl⟩

/-- The entry of a full-mesh set of devices 0 and 1 (R243). -/
def quadEntry : List Byte :=
  les 2 0 ++ [1, 2, 0] ++ zeros 6 ++ [1] ++ les 4 1000 ++ [1, 0, 0, 0, 1] ++ zeros 11 ++ les 8 0x100000 ++ les 8 0x200000 ++
    ([0, 1] ++ zeros 62) ++ zeros 16

def quadCfg : SetCfg := entryOf quadEntry
/-- Set 0 as `x`. -/
def setS (x : SetSt) : State := { boardS with sets := [(0, x)] }
/-- Set 0 configured, in phase `ph`. -/
def phaseS (ph : SetPhase) : State := setS { setReset with cfg := some quadCfg, phase := ph }
/-- Set 0 on HOLD with a descriptor waiting. -/
def someBody : SetBody :=
  ⟨0, .barrier, false, 0, true, 0, true, 0, 0, 0, 0⟩
def heldS : State := setS { setReset with cfg := some quadCfg, phase := .hold, queue := [someBody] }

theorem witness_SetEntryCommands :
    passes 0x0401 setConfigCheck boardS (req 0x0401 [63] quadEntry) = true ∧
    passes 0x0402 (setCmdCheck idleEmpty) (phaseS .idle) (req 0x0402 [0] []) = true ∧
    passes 0x0403 (setCmdCheck anyPhase) (phaseS .run) (req 0x0403 [0] []) = true ∧
    passes 0x0404 (setCmdCheck anyPhase) (phaseS .vote) (req 0x0404 [0] []) = true ∧
    passes 0x0407 (setCmdCheck (·.phase == .hold)) heldS (req 0x0407 [0] []) = true ∧
    passes 0x0408 (setCmdCheck anyPhase) readyS (req 0x0408 [63] []) = true := by decide +kernel

theorem witness_SetResolveAndRedo :
    (passes 0x0405 setResolveCheck (phaseS .doubt) (req 0x0405 [0, 0] []) = true ∧
      passes 0x0405 setResolveCheck (phaseS .doubt) (req 0x0405 [0, 1] []) = true ∧ (setOf (phaseS .doubt) 0).cfg = some quadCfg) ∧
    (passes 0x0406 (setCmdCheck (·.phase == .hold)) heldS (req 0x0406 [0] []) = true ∧ (setOf heldS 0).queue.isEmpty = false) ∧
    passes 0x0406 (setCmdCheck (·.phase == .hold)) (phaseS .hold) (req 0x0406 [0] []) = true := by decide +kernel

theorem witness_LinkCommands :
    (passes 0x0409 lnkConfigCheck readyS (req 0x0409 [0xFF] (List.replicate 16 8)) = true ∧
      passes 0x0409 lnkConfigCheck readyS (req 0x0409 [11] (List.replicate 16 1)) = true) ∧
    (passes 0x040A lnkRetrainCheck boardS (req 0x040A [0] []) = true ∧ recorded (gath boardS) 0 = true) ∧
    (passes 0x040A lnkRetrainCheck boardS (req 0x040A [11] []) = true ∧ recorded (gath boardS) 11 = false) := by decide +kernel

/-- A table image of one plane whose every code is 8 bits long (R280). -/
def tableImage : List Byte := [1] ++ zeros 15 ++ List.replicate 128 0x88

def tableS : State := tileSeal (devWrite readyS 4 0x10000 tableImage) 4 0x10000
def areaS : State := setS { setReset with cfg := some quadCfg, phase := .idle, res := some ⟨false, 0, 0x800000, 0x20000⟩ }

theorem test_table : (tableOf tableImage).isSome = true := by decide +kernel

def tableReq : Req := req 0x040B [1, 1, 0x10000, 144] []
def encS : State := tileSeal readyS 4 0x100000
def encReq : Req := req 0x040E [1, 0x100000, 1, 0x200000, 8400] []

theorem table_good : tableLoadCheck (bench tableS tableReq) tableReq = none := by
  have h : imageCheck (bench tableS tableReq) 2 (argOf tableReq 2) (tableBytes (bench tableS tableReq) tableReq) = none :=
    imageCheck_one (t := 0x10000) (by decide +kernel) (tileOk_bench _ _ _ (by decide))
  simp only [tableLoadCheck, h]
  decide +kernel

theorem encode_good : encodeCheck (bench encS encReq) encReq = none := by
  have h : imageCheck (bench encS encReq) 1 (argOf encReq 1) (4096 * argOf encReq 2) = none :=
    imageCheck_one (t := 0x100000) (by decide +kernel) (tileOk_bench _ _ _ (by decide))
  simp only [encodeCheck, h]
  decide +kernel

theorem witness_CompressionCommands :
    PassesMem 0x040B tableLoadCheck tableLoadRanges (bench tableS tableReq) tableReq ∧
    ((pendS readyS (req 0x040B [1, 1, 0x10000, 144] tableImage) (.tableSlot 1) 0).jante.pend.find?
      (fun x => pendOp 0x040B x && x.obj == .tableSlot ((1 : Fin 2).val))).isSome = true ∧
    passesMem 0x040C resCfgCheck resCfgRanges (phaseS .idle) (req 0x040C [0, 0x1000000000000, 0x800000, 0x20000] []) = true ∧
    (passesMem 0x040D resClearCheck resClearRanges areaS (req 0x040D [0] []) = true ∧ (setOf areaS 0).res.isSome = true) ∧
    PassesMem 0x040E encodeCheck encodeRanges (bench encS encReq) encReq :=
  ⟨⟨⟨rfl, rfl, by decide +kernel, table_good⟩, by decide +kernel⟩, by decide +kernel, by decide +kernel, by decide +kernel,
   ⟨⟨rfl, rfl, by decide +kernel, encode_good⟩, by decide +kernel⟩⟩

theorem witness_CompressionCommands_done :
    (Pends 0x040E ⟨encReq, .tableSlot 1, 0⟩ (pendS readyS encReq (.tableSlot 1) 0)) ∧
    ∀ n, hostHolds (pendS readyS encReq (.tableSlot 1) 0) [] [(argOf encReq 3, n)] = none :=
  ⟨rfl, fun _ => rfl⟩

/-- An update group of one parameter, not enabled, 8 GiB up its window (R209). -/
def groupImage : List Byte :=
  les 8 0x200000000 ++ les 8 0x200100000 ++ les 8 0x200200000 ++ les 8 0x200300000 ++ les 4 1 ++ les 2 0x800 ++ [0, 0] ++ zeros 4 ++
    les 4 1 ++ les 8 0x200400000 ++ les 8 0x200500000
def groupS : State := devWrite readyS 4 0x300000000 groupImage
/-- The group in place, its load PENDING. -/
def groupedS : State :=
  setUpd (pendS readyS (req 0x0501 [7, 0, 0, 1] []) (.partition 7) 0) 7 { updReset with groups := [(0, groupOf groupImage)] }
/-- A rule of kind 1 (R211). -/
def ruleS : State := devWrite readyS 4 0x300000000 ([1, 1] ++ zeros 190)

theorem witness_UpdateUnitCommands :
    passesMem 0x0501 groupLoadCheck groupLoadRanges groupS (req 0x0501 [0, 0x300000000, 255, 1] []) = true ∧
    (pendS readyS (req 0x0501 [7, 0, 0, 1] []) (.partition 7) 0).jante.pend.find?
      (fun x => pendOp 0x0501 x && x.obj == .partition ((7 : Fin 8).val)) = some ⟨req 0x0501 [7, 0, 0, 1] [], .partition 7, 0⟩ ∧
    hostHolds groupedS [] (((List.range 1).filterMap (fun i => groupAt (updOf groupedS ((7 : Fin 8).val)) (0 + i))).map
      (fun g => (g.dmap, chunksOfGroup g))) = none ∧
    passesMem 0x0502 ruleLoadCheck ruleLoadRanges ruleS (req 0x0502 [0xFF, 0x300000000, 15, 1] []) = true ∧
    passes 0x0503 parkCfgCheck readyS (req 0x0503 [1, 0x2000000000, 131072] []) = true ∧
    passesMem 0x0504 baseCfgCheck baseCfgRanges readyS (req 0x0504 [0, 0x10000, 0x20000, 0x30000] []) = true ∧
    passes 0x0505 updQueryCheck readyS (req 0x0505 [7, 63] []) = true ∧
    passesMem 0x0506 rollCheck rollRanges readyS (req 0x0506 [7, 63] []) = true := by decide +kernel

theorem witness_RulesAndRollForward :
    passesMem 0x0502 ruleLoadCheck ruleLoadRanges ruleS (req 0x0502 [7, 0x300000000, 15, 1] []) = true ∧
    argOf (req 0x0502 [7, 0x300000000, 15, 1] []) 0 < 8 ∧ 0 < argOf (req 0x0502 [7, 0x300000000, 15, 1] []) 3 := by decide +kernel

/-- A far configuration (R314). -/
def farImage : List Byte :=
  les 2 1 ++ [0, 0] ++ les 2 100 ++ les 2 10 ++ les 4 64 ++ les 4 1000 ++ les 4 10 ++ les 2 1 ++ les 2 128 ++ les 2 256 ++ les 2 128 ++
    les 2 64 ++ les 2 4791 ++ les 4 1000 ++ zeros 4 ++ les 8 0x200000000 ++ les 8 0x210000000 ++ les 8 0x220000000
/-- The far exchange configured; partner 1 is known and ACTIVE. -/
def farS (ph : FarPhase) (en : Bool) : State :=
  { readyS with far := { farReset with cfg := some (farCfgOf farImage), phase := ph, en := en,
                                       partners := [(1, { partnerEmpty with fid := 2, st := .active, wt := 256 })] } }
/-- A partner's entry (R304). -/
def partnerImage : List Byte := les 2 2 ++ [0, 1] ++ les 2 256 ++ zeros 2 ++ les 4 800000 ++ les 2 4791 ++ zeros 50

theorem witness_FarSetUpCommands :
    passesMem 0x0601 farConfigCheck farConfigRanges readyS (req 0x0601 [] farImage) = true ∧
    passesMem 0x0602 farLoadCheck farLoadRanges (farS .none false) (req 0x0602 [7, 0x10000, 1] []) = true := by decide +kernel

theorem witness_PartnerCommands :
    passes 0x0603 partnerSetCheck readyS (req 0x0603 [255] partnerImage) = true ∧
    (passes 0x0604 partnerDelCheck (farS .none false) (req 0x0604 [1] []) = true ∧ (partnerOf (farS .none false) 1).st ≠ .left) ∧
    passes 0x0605 farJoinCheck (farS .none false) (req 0x0605 [1] []) = true ∧
    passes 0x0609 (farQueryCheck 1) readyS (req 0x0609 [255] []) = true := by decide +kernel

theorem witness_FarRoundCommands :
    (passesMem 0x0606 farEnableCheck (fun s _ => repeatRanges s) (farS .none false) (req 0x0606 [] []) = true ∧
      (farS .none false).far.stopped = false) ∧
    (∀ ph ∈ [FarPhase.none, .select, .opened, .closed, .applying], passes 0x0607 farDisableCheck (farS ph true) (req 0x0607 [] []) = true) ∧
    passes 0x0608 (farQueryCheck 0) readyS (req 0x0608 [] []) = true := by decide +kernel

/-- The base point of P-256, as a public key. -/
def basePoint : List Byte :=
  (natBytes 32 0x6B17D1F2E12C4247F8BCE6E563A440F277037D812DEB33A0F4A13945D898C296).reverse ++
  (natBytes 32 0x4FE342E2FE1A7F9B8EE7EB4A7C0F9E162BCE33576B315ECECBB6406837BF51F5).reverse

/-- Slot 5 holds a key for sealing, opening and the far ports; partner 1 has one epoch. -/
def keyS (es : List Epoch) : State :=
  { readyS with
    cip := { cipReset with slots := [(5, ⟨zeros 32, 7, 0xF, 1, 0⟩)], keks := [(0, zeros 32)] },
    far := { farReset with partners := [(1, { partnerEmpty with fid := 2, st := .active, epochs := es })] } }

theorem witness_CipherTableCommands :
    passes 0x0701 cipBindCheck readyS (req 0x0701 [3] basePoint) = true ∧
    passes 0x0702 cipUnbindCheck readyS (req 0x0702 [3] []) = true ∧
    passes 0x0704 slotClearCheck (keyS []) (req 0x0704 [5] []) = true ∧
    passes 0x0706 farSwitchCheck (keyS [⟨1, [], .cur⟩, ⟨2, [], .rx⟩]) (req 0x0706 [1] []) = true ∧
    passes 0x0707 (farQueryCheck 0) readyS (req 0x0707 [] []) = true := by decide +kernel

def blobReq : Req := req 0x0703 [63] (les 4 0x4B424C42 ++ zeros 60)
def moveReq : Req := req 0x0708 [] (les 4 0x00050000 ++ zeros 52)

theorem witness_CipherEngineCommands :
    (passes 0x0703 cipUnwrapCheck (keyS []) blobReq = true ∧ EngineFree (bench (keyS []) blobReq)) ∧
    (passes 0x0705 cipInstallCheck (keyS []) (req 0x0705 [5, 1, 65535] []) = true ∧ (Tbl.get? (keyS []).cip.slots 5).isSome = true ∧
      passes 0x0705 cipInstallCheck (keyS [⟨65535, [], .cur⟩]) (req 0x0705 [5, 1, 1] []) = true) ∧
    (passes 0x0708 cipMoveCheck (keyS []) moveReq = true ∧ (keyS []).cxl.d2h = [] ∧
      msgCheck (moverBank (examined (bench (keyS []) moveReq)) moveReq.payload)
        (bankMsg (moverBank (examined (bench (keyS []) moveReq)) moveReq.payload) .movers) = .ok) :=
  ⟨⟨by decide +kernel, rfl, rfl, rfl, rfl, rfl, rfl⟩, by decide +kernel, by decide +kernel⟩

/-- A job of one micro-batch of one clip of patches of 8 (R353). -/
def jobImage : List Byte :=
  les 8 0x10000 ++ les 4 1 ++ zeros 12 ++ les 4 0 ++ les 4 1 ++ [1, 8, 1, 0] ++ les 2 0x800 ++ [0, 0, 0, 1, 0, 0] ++ les 4 64 ++
    les 8 0x100000 ++ zeros 8
def jobRun : BndRun := ⟨jobOf 1 jobImage, 0, [], [], 0, [], 0, false, none, none, false, []⟩
def jobS : State := { readyS with bnd := { bndReset with run := some jobRun, fsSize := 0x100000 } }

def idleS : State := { jobS with bnd := { bndReset with fsSize := 0x100000 } }

theorem witness_BinderyCommands :
    passes 0x0801 fsCfgCheck readyS (req 0x0801 [0x100000, 0x100000] []) = true ∧
    passes 0x0802 filterCheck readyS (req 0x0802 [15] ((List.replicate 64 (les 2 16384 ++ zeros 14)).flatten)) = true ∧
    (passes 0x0803 colourCheck readyS (req 0x0803 [3] (zeros 48)) = true ∧
      passes 0x0803 colourCheck readyS (req 0x0803 [3] (zeros 72)) = true) ∧
    (passes 0x0804 jobSubmitCheck jobS (req 0x0804 [] jobImage) = true ∧ jobS.bnd.run.isSome = true) ∧
    (∀ s ∈ [idleS, setPstate idleS 0 .idle], passes 0x0804 jobSubmitCheck s (req 0x0804 [] jobImage) = true ∧ s.bnd.run.isNone = true ∧
      s.bnd.queue.length = 0) ∧
    (partActive idleS (hbmPart (jobOf 1 jobImage).buf) = true ∧
      partActive (setPstate idleS 0 .idle) (hbmPart (jobOf 1 jobImage).buf) = false) ∧
    passes 0x0805 jobStopCheck jobS (req 0x0805 [] []) = true ∧
    passes 0x0806 (farQueryCheck 0) readyS (req 0x0806 [] []) = true := by decide +kernel

/-- In STANDBY, rails and coolant as they must be. -/
def standbyS : State := { State.reset with dev := .standby }
def goodLevels : Levels := ⟨true, BitVec.ofNat 14 0x3FFF, 0⟩
def wakeReq : Req := { req 0x0906 [] [] with src := 16 }

theorem witness_PowerCommands :
    (passes 0x0901 capCheck readyS (req 0x0901 [260] []) = true ∧ readyS.dev ≠ .standby ∧ floorW readyS ≤ 260 ∧
      passes 0x0901 capCheck readyS (req 0x0901 [259] []) = true ∧ 259 < floorW readyS) ∧
    passes 0x0902 priorityCheck readyS (req 0x0902 [0x24] []) = true ∧ passes 0x0903 pavaneCheck readyS (req 0x0903 [1] []) = true ∧
    passes 0x0904 pwrQueryCheck readyS (req 0x0904 [] []) = true ∧ passes 0x0905 standbyCheck readyS (req 0x0905 [] []) = true ∧
    (passes 0x0906 wakeCheck standbyS wakeReq = true ∧ goodLevels.coolant = true ∧ goodLevels.rails = 0x3FFF#14 ∧
      goodLevels.junction < 105 ∧ standbyS.pwr.refclk = true ∧ standbyS.devReset = false) ∧
    (105 ≤ (⟨true, 0x3FFF#14, 105⟩ : Levels).junction ∧ (⟨true, 0x1FFF#14, 0⟩ : Levels).rails ≠ 0x3FFF#14 ∧
      (⟨false, 0x3FFF#14, 0⟩ : Levels).coolant = false) := by decide +kernel

theorem witness_ResetCommands :
    passes 0x0A01 rstPartCheck readyS (req 0x0A01 [7] []) = true ∧
    passes 0x0A02 (activateCheck goodLevels) (setPstate readyS 3 .idle) (req 0x0A02 [3] []) = true ∧
    passes 0x0A03 rstDeviceCheck readyS (req 0x0A03 [] []) = true ∧ passes 0x0A04 pwrQueryCheck readyS (req 0x0A04 [] []) = true := by
  decide +kernel

/-- An image that verifies is signed under a root key that is a free value, so `v = .ok` of the first clause has no closed witness; the
other premises are met here. -/
theorem witness_FirmwareCommands :
    passesMem 0x0B01 fwStageCheck fwStageRanges readyS (req 0x0B01 [0x100000, 0] []) = true ∧
    (pendS readyS (req 0x0B01 [0, 0] []) .firmware 0).jante.pend.find? (fun x => x.req.opcode == 0x0B01) =
      some ⟨req 0x0B01 [0, 0] [], .firmware, 0⟩ ∧
    passes 0x0B02 fwActivateCheck { readyS with sec := { secReset with slot1 := .valid } } (req 0x0B02 [] []) = true := by
  decide +kernel

/-! ### Registers -/

theorem witness_WriteOneToClear :
    (softUp readyS = true ∧ regThere readyS .calErr = true ∧ bitAt (clearMask .calErr) 9 = true ∧ bitAt (0x200#32) 9 = true ∧
      bitAt (0#32) 9 = false) ∧ bitAt (0x20000000#32) 29 = true := by decide +kernel

/-- Engine 79 is left out by the grade, and partition 3 is ABSENT. -/
def absentS : State := setPstate { readyS with absent := [79] } 3 .absent

theorem witness_RegisterReadsAndWrites :
    (softUp readyS = true ∧ regThere readyS (.eleSeedLo 79) = true ∧ plainReg (.eleSeedLo 79) = true ∧ plainReg (.calLoop 3) = true) ∧
    regThere absentS (.arrErr 79) = false ∧ regThere absentS (.memErr 3) = false := by decide +kernel

theorem witness_CallerRegisterWrites :
    softUp readyS = true ∧ bitAt (0x3F#32) 31 = false ∧ readyS.fill.en = false ∧ fillS.fill.en = true ∧ bitAt (0x8000003F#32) 31 = true ∧
    (bits (100000#32) 16 0 = 100000 ∧ bits (100001#32) 16 0 = 100001 ∧ bits (0x20000#32) 16 0 = 0) := by decide +kernel

/-- Partition 0 has a census ring, enabled, of 1,024 records where SIZE is 0. -/
def ringS (en : Bool) : State :=
  setCensus readyS 0 { censusReset with base := 0x1, cfg := if en then 0x80000000 else 0 }

theorem witness_CensusRingWrites :
    softUp (ringS true) = true ∧ ringEn (censusOf (ringS false) 0) = false ∧ ringEn (censusOf (ringS true) 0) = true ∧
    (bitAt (0x80000000#32) 31 = true ∧ ringOk (censusOf (ringS false) 0) (bits (0x80000000#32) 3 0) = true) ∧
    bits (0x80000001#32) 3 0 ≠ bits (censusOf (ringS true) 0).cfg 3 0 ∧
    (((censusOf (ringS true) 0).head - 0#32).toNat ≤ ringRecords (censusOf (ringS true) 0)) ∧
    (ringRecords (censusOf (ringS true) 0) < ((censusOf (ringS true) 0).head - 1#32).toNat) := by decide +kernel

theorem witness_GlobalInterleaveWrite :
    softUp readyS = true ∧ (bitAt (0x80000000#32) 31 = true ∧ bits (0x80000000#32) 6 0 = 0) ∧
    (127 < bits (0x80007F01#32) 14 8 + bits (0x80007F01#32) 6 0) ∧ (3 < 8 ∧ pstateOf absentS 3 = .absent) ∧
    (bits (0x80007E01#32) 6 0 ≠ 0 ∧ ¬ 127 < bits (0x80007E01#32) 14 8 + bits (0x80007E01#32) 6 0 ∧
      ∀ p, p < 8 → pstateOf readyS p ≠ .absent) := by decide +kernel

theorem witness_TipFenceWrites : softUp readyS = true ∧ bitAt (1#32) 0 = true ∧ bitAt (2#32) 0 = false := by decide

theorem witness_ClassWriteRefusals :
    softUp readyS = true ∧ bits (0x80000010#32) 23 16 = 0 ∧
    (let share (k : Nat) : Nat := bits (if k = 6 then 0x100FF#32 else classOf (memOf readyS 0).regs k) 7 0;
      256 < ((List.range 8).map share).sum) ∧
    (bits (0x10000#32) 7 0 = 0 ∧ bitAt (0x10000#32) 31 = false) ∧
    (let share (k : Nat) : Nat := bits (if k = 7 then 0x10000#32 else classOf (memOf readyS 0).regs k) 7 0;
      ¬ 256 < ((List.range 8).map share).sum ∧ bits (0x10000#32) 23 16 ≠ 0) ∧
    (let s := classWrite readyS 0 7 0x10000#32;
      clocksRun s.dev = true ∧ partActive s 0 = true ∧ bits (classOf (memOf s 0).regs 7) 7 0 = 0 ∧
        bitAt (classOf (memOf s 0).regs 7) 31 = false) := by decide +kernel

/-- The host holds the engine, a key in slot 5. -/
def hostLockS : State := { keyS [] with cip := { (keyS []).cip with owner := some .host } }

theorem witness_CipherLockWrites :
    softUp readyS = true ∧ (readyS.cip.owner ≠ some .host ∧ Owner.host ∉ readyS.cip.wait) ∧ hostLockS.cip.owner = some .host ∧
    (hostLockS.cip.running = none ∧ hostLockS.cip.save0 = none ∧ hostLockS.cip.save1 = none) ∧
    (readyS.cip.owner ≠ some .movers ∧ bitAt (0x80050000#32) 31 = true ∧ bitAt (0x50000#32) 31 = false) ∧
    bits (0x80050000#32) 29 28 ≤ 1 ∧
    msgCheck (setBankDw hostLockS .host 0 ((0x80050000#32) &&& 0x303F0000#32))
      (bankMsg (setBankDw hostLockS .host 0 ((0x80050000#32) &&& 0x303F0000#32)) .host) = .ok ∧
    (bits (10000#32) 13 0 = 10000 ∧ bits (10001#32) 13 0 = 10001 ∧ bits (0x4000#32) 13 0 = 0) := by decide +kernel

/-! ### The caller -/

def meas (w : MeasW) : Meas := ⟨1, w, false, .good, false⟩
/-- A control measure (R168). -/
def ctl (op a8 a32 : Nat) : MeasW := BitVec.ofNat 4096 (2 ^ 63 + op * 2 ^ 64 + a8 * 2 ^ 72 + a32 * 2 ^ 96)
/-- The stream runs, measure 1 is due. -/
def runS (w : MeasW) : State := { readyS with dev := .running, cal := { callerReset with run := true, imgCount := 2, queue := [meas w] } }

def dueAtB (s : State) (m : Meas) : Bool :=
  clocksRun s.dev && s.cal.run && s.cal.current.isNone && !s.cal.draining && s.pwr.gate == .none && !inSpanStop s && !s.cal.faultPend &&
    !imageFenced s && dueMeas s == some m && m.fetched == .good
def dueB (s : State) (m : Meas) : Bool := dueAtB s m && (decodeFault s m).isNone && !dueHeld s m

theorem dueAt_of {s : State} {m : Meas} (h : dueAtB s m = true) : DueAt s m := by
  simp only [dueAtB, Bool.and_eq_true, beq_iff_eq, Bool.not_eq_true', Option.isNone_iff_eq_none] at h
  exact ⟨h.1.1.1.1.1.1.1.1.1, h.1.1.1.1.1.1.1.1.2, h.1.1.1.1.1.1.1.2, h.1.1.1.1.1.1.2, h.1.1.1.1.1.2, h.1.1.1.1.2, h.1.1.1.2, h.1.1.2,
    h.1.2, h.2⟩

theorem due_of {s : State} {m : Meas} (h : dueB s m = true) : Due s m := by
  simp only [dueB, Bool.and_eq_true, Bool.not_eq_true', Option.isNone_iff_eq_none] at h
  exact ⟨dueAt_of h.1.1, h.1.2, h.2⟩

theorem witness_MeasureFetch :
    (let s : State := { runS 0 with cal := { (runS 0).cal with reqNext := 1 } };
      clocksRun s.dev = true ∧ s.cal.run = true ∧ s.cal.inflight.length + s.cal.queue.length < 112 ∧ s.cal.reqNext < s.cal.imgCount) ∧
    (let s : State := { runS 0 with cal := { (runS 0).cal with inflight := [1] } };
      s.cal.inflight = [1] ∧ trackedDev s (measureAddr s.cal.img 1 / 4096 * 4096) 4096 false = []) ∧
    (let s : State := { runS 0 with cal := { (runS 0).cal with replay := [meas 0] } };
      s.cal.replay = [meas 0] ∧ s.cal.delivered = [] ∧ s.cal.current = none) := by decide +kernel

/-- A measure of span 1 that names nothing issues. -/
theorem witness_MeasureIssue :
    (dueB (gateTest (runS 1) 5) (meas 1) = true ∧ issueFault (gateTest (runS 1) 5) (meas 1) = none ∧ mCtrl (meas 1).w = false) := by
  decide +kernel

theorem witness_MeasureStops :
    (dueAtB (gateTest (runS (ctl 9 0 0)) 0) (meas (ctl 9 0 0)) = true ∧ measureOk (ctl 9 0 0) = false) ∧
    (let w : MeasW := BitVec.ofNat 4096 (1 + 2 ^ (64 + 504 * 3 + 490));
      let s : State := { runS w with pstates := absentS.pstates };
      dueAtB (gateTest s 0) (meas w) = true ∧ measureOk w = true ∧ measureAbsent s w = true) ∧
    (let w : MeasW := BitVec.ofNat 4096 (1 + 2 ^ 51 + 2 ^ (64 + 490));
      measureOk w = true ∧ measureAbsent (runS w) w = false ∧ measureLend w = true) ∧
    (let w : MeasW := BitVec.ofNat 4096 (1 + 896 * 2 ^ (64 + 480 + 4));
      let s : State := { runS w with fill := fillS.fill };
      dueAtB (gateTest s 0) (meas w) = true ∧ measureOk w = true ∧ measureAbsent s w = false ∧ measureLend w = false ∧
        bankLoading s false = false ∧ measureFillIdx s w false false = true) ∧
    (let s : State := { runS 1 with cal := { (runS 1).cal with loadA := true } };
      dueAtB (gateTest s 0) (meas 1) = true ∧ measureOk 1 = true ∧ measureAbsent s 1 = false ∧ measureLend 1 = false ∧
        bankLoading s (meas 1).bank = true) ∧
    (let w : MeasW := BitVec.ofNat 4096 (2 ^ 60);
      dueAtB (gateTest (runS w) 0) (meas w) = true ∧ decodeFault (runS w) (meas w) = none ∧ dueHeld (runS w) (meas w) = false ∧
        spanBad (spanOf (runS w) w) = true) ∧
    (let w : MeasW := BitVec.ofNat 4096 (1 + 2 ^ 62);
      decodeFault (runS w) (meas w) = none ∧ dueHeld (runS w) (meas w) = false ∧ spanBad (spanOf (runS w) w) = false ∧
        repriseBad (runS w) (meas w) = true) ∧
    (let w : MeasW := ctl 7 0 1;
      decodeFault (runS w) (meas w) = none ∧ dueHeld (runS w) (meas w) = false ∧ spanBad (spanOf (runS w) w) = false ∧
        repriseBad (runS w) (meas w) = false ∧ mCtrl w = true ∧ mOp w = 7 ∧
        bankVersion (runS w) ((mArg8 w == 1) != (runS w).cal.bankxor) ≠ BitVec.ofNat 32 (mArg32 w)) := by decide +kernel

def issuesB (s : State) (m : Meas) : Bool := dueB s m && (issueFault s m).isNone && mCtrl m.w
def issuesAt (w : MeasW) : Bool := issuesB (runS w) (meas w)

/-- Each control measure issues somewhere: a loop at zero and one above it, the last loop register, the last segment. -/
theorem witness_ControlMeasures :
    issuesAt (ctl 0 0 0) = true ∧ issuesAt (ctl 1 0 0) = true ∧ issuesAt (ctl 2 0 7) = true ∧ issuesAt (ctl 3 3 0) = true ∧
    issuesAt (ctl 4 3 5) = true ∧ issuesAt (ctl 5 15 0) = true ∧ issuesAt (ctl 7 1 0) = true ∧ issuesAt (ctl 8 0 0) = true ∧
    issuesB { runS (ctl 3 3 0) with cal := { (runS (ctl 3 3 0)).cal with loop := [(3, 1)] } } (meas (ctl 3 3 0)) = true ∧
    issuesB { runS (ctl 6 15 0) with rpr := ⟨[(15, [meas 1])], 0, none⟩ } (meas (ctl 6 15 0)) = true := by decide +kernel

/-- A measure of span 1 with reprise mark `r`. -/
def marked (r : Nat) : MeasW := BitVec.ofNat 4096 (1 + r * 2 ^ 61)

def issuesRec (s : State) (m : Meas) : Bool := dueB s m && (issueFault s m).isNone && !m.replayed
/-- A recording into segment 15 is open. -/
def recS (r : Nat) : State := { runS (marked r) with rpr := ⟨[(15, [meas 1])], 0, some 15⟩ }

theorem witness_RepriseRecording :
    issuesRec (runS (marked 1)) (meas (marked 1)) = true ∧ issuesRec (runS (marked 3)) (meas (marked 3)) = true ∧
    (issuesRec (recS 2) (meas (marked 2)) = true ∧ mRep (marked 2) = 2) ∧
    (issuesRec (recS 0) (meas (marked 0)) = true ∧ mRep (marked 0) = 0 ∧ mCtrl (marked 0) = false ∧ (recS 0).pwr.debt < 4096) := by
  decide +kernel

/-- A span of measure `w` runs. -/
def spanS (w : MeasW) (n : Nat) (halting : Bool) : State :=
  { readyS with dev := .running, tok := { tokensReset with counts := [(63, n)] },
                cal := { callerReset with run := true, imgCount := 2, current := some (meas w, 1), halting := halting } }
/-- A measure that posts token 63. -/
def posting : MeasW := BitVec.ofNat 4096 (1 + 2 ^ 50 + 63 * 2 ^ 44)

theorem witness_SpanEnd :
    (∀ s ∈ [spanS 1 0 false, spanS posting 65534 false, spanS posting 65535 true],
      clocksRun s.dev = true ∧ s.cal.current.isSome = true ∧ s.cal.run = true ∧ busQuiet s = true ∧ inSpanStop s = false ∧
        s.pwr.gate = .none) ∧
    (mPostEn 1 = false ∧ mPostEn posting = true ∧ tokCount (spanS posting 65534 false) false (mPostTok posting) < 65535 ∧
      65535 ≤ tokCount (spanS posting 65535 true) false (mPostTok posting) ∧ (spanS posting 65535 true).cal.halting = true) ∧
    (let s : State := { readyS with dev := .running, cal := { callerReset with draining := true } };
      clocksRun s.dev = true ∧ s.cal.draining = true ∧ primaryIdle s = true ∧ s.dev = .running ∧
        s.jante.pend.all (fun p => p.req.opcode != 0x0204) = true) := by decide +kernel

/-- A post of token 63 in flight, with `n` counted. -/
def flightS (p : Post) (n : Nat) : State := { readyS with tok := { tokensReset with flight := [p], counts := [(63, n)] } }

theorem witness_PostCounting :
    ((flightS ⟨.software, true, 63, 0⟩ 0).fill.en = false) ∧
    (tokCount (flightS ⟨.software, false, 63, 0⟩ 65534) false 63 < 65535) ∧
    (65535 ≤ tokCount (flightS ⟨.mover 0 0, false, 63, 0⟩ 65535) false 63 ∧ Poster.mover 0 0 ≠ .software) ∧
    (65535 ≤ tokCount (flightS ⟨.software, false, 63, 0⟩ 65535) false 63) ∧
    (let s : State := { readyS with tok := { tokensReset with own := [(63, 2)] } };
      clocksRun s.dev = true ∧ tokCount s false ((63 : Fin 64).val) < 65535 ∧ ownHeld s false ((63 : Fin 64).val) ≠ 0) ∧
    (let s : State := { readyS with tok := { tokensReset with held := [⟨.mover 0 0, true, 63, 0⟩] } };
      tokCount s true ((63 : Fin 64).val) < 65535 ∧ ownHeld s true ((63 : Fin 64).val) = 0 ∧
        s.tok.held.find? (fun h => h.fill == true && h.token == (63 : Fin 64).val) = some ⟨.mover 0 0, true, 63, 0⟩) := by decide +kernel

/-- A measure that waits for one of token 0. -/
def waiting : MeasW := BitVec.ofNat 4096 (1 + 2 ^ 22)

/-- The fill image's one measure is fetched: it does nothing, or waits. -/
def fillRun (w : MeasW) : State :=
  { readyS with fill := { fillReset with en := true, run := true, base := 0x100000, size := 1, img := 0x100000, imgCount := 1,
                                         fetched := some ⟨0, w, false, .good, false⟩ } }

theorem witness_StreamWatchdogs :
    (clocksRun (runS waiting).dev = true ∧ (runS waiting).cal.run = true ∧ stopBits (runS waiting) ≠ 0 ∧ (runS waiting).pwr.gate = .none) ∧
    (clocksRun (fillRun waiting).dev = true ∧ (fillRun waiting).fill.run = true ∧ (fillRun waiting).pwr.gate = .none ∧
      (fillRun waiting).fill.current = none ∧
      (fillRun waiting).fill.pc < (fillRun waiting).fill.imgCount ∧ coresLent (fillRun waiting) (fillMeas (fillRun waiting)).w = true ∧
      fillHeldBack (fillRun waiting) (fillMeas (fillRun waiting)) = true) ∧
    (let s : State := { fillRun waiting with fill := { (fillRun waiting).fill with fetched := none } };
      s.fill.run = true ∧ s.fill.current = none ∧ s.fill.pc < s.fill.imgCount ∧ s.fill.fetched = none) := by decide +kernel

theorem witness_FillIssueAndReclaim :
    FillDue (fillRun 1) ∧
    (let s : State := { runS 1 with fill := { fillS.fill with lent := 0x80 } };
      clocksRun s.dev = true ∧ s.cal.run = true ∧ s.fill.lent.testBit ((7 : Fin 8).val) = true ∧
        s.fill.reclaiming.testBit ((7 : Fin 8).val) = false ∧ nextLends s ((7 : Fin 8).val) = false) ∧
    (({ fillS with fill := { fillS.fill with reclaiming := 0x80, lent := 0x80 } } : State).fill.reclaiming.testBit
      ((7 : Fin 8).val) = true) := by
  refine ⟨⟨by decide +kernel, by decide +kernel, by decide +kernel, by decide +kernel, by decide +kernel, by decide +kernel,
    fun m h => ?_, by decide +kernel, fun h => ?_, by decide +kernel, by decide +kernel, by decide +kernel, by decide +kernel,
    by decide +kernel, by decide +kernel⟩, by decide +kernel, by decide +kernel⟩
  · cases h
  · cases h

/-! ### The arrays -/

/-- An array entry of INT8 weights and activations on array 7 (R67): operation, accumulation, swap. -/
def arrWord (op acc swap : Nat) : BitVec 128 :=
  BitVec.ofNat 128 (op * 2 ^ 124 + 0x80 * 2 ^ 116 + 5 * 2 ^ 109 + 5 * 2 ^ 104 + swap * 2 ^ 100 + 511 * 2 ^ 75 + acc * 2 ^ 72 + 3 * 2 ^ 64 +
    0x400 * 2 ^ 26 + 1024 * 2 ^ 10)
def arrEnt (op acc swap : Nat) : ArrEntry := ((arrEntryOf (arrWord op acc swap)).bind id).getD
  ⟨.pass, 0, false, false, .fp32, .fp32, 0, false, false, 0, 0, false, 0, .single, 0, false, false, 0, 0, 0⟩

/-- Action `w` of unit `u` stands on the bus. -/
def onBus (u : BusUnit) (w : BitVec 256) (delta : Int) : BusAct := ⟨u, false, w, [], delta, 512, false, 1⟩
/-- Engine 79's array 7 holds both weight sets. -/
def engS (x : Engine) (bs : List BusAct) : State :=
  { readyS with dev := .running, cal := { callerReset with run := true }, engines := [(79, x)], bus := bs }
def wset (op : Nat) : WSet := { wsetOf (arrEnt op 0 0) [] with loading := false, valid := true }
def armed : Engine := { engineReset with arrs := [(7, { arrReset with front := wset 1, back := wset 1 })] }
def arrS (op acc swap : Nat) : State := engS armed [onBus (.array 79) ((arrWord op acc swap).setWidth 256) 0]

def begins (s : State) (e : Nat) (b : BusAct) (x : ArrEntry) : Bool :=
  clocksRun s.dev && s.pwr.gate == .none && busFirst s (.array e) == some b && arrEntryOf (b.entry.setWidth 128) == some (some x) &&
    arrErrBits s (engineOf s e) x b.fill (actRows x b.span) b.delta == 0 && accErrBits (engineOf s e) x b.fill (actRows x b.span) == 0 &&
    !(maskBits x.amask).isEmpty && actRows x b.span != 0 && (engineOf s e).acts.isEmpty &&
    (maskBits x.amask).all (fun a => (passOn (engineOf s e) a).isNone) && mustWait s (e / 10) b.fill == b.fill

theorem witness_ArrayActionsBegin :
    (∀ p ∈ [(1, 0, 0), (2, 0, 0), (3, 1, 0), (3, 1, 1), (4, 0, 0)],
      begins (arrS p.1 p.2.1 p.2.2) ((79 : Fin 80).val) (onBus (.array 79) ((arrWord p.1 p.2.1 p.2.2).setWidth 256) 0)
        (arrEnt p.1 p.2.1 p.2.2) = true) ∧
    (let b : BusAct := { onBus (.array 79) ((arrWord 1 0 0).setWidth 256) 0x28000 with fill := true };
      begins (engS armed [b]) ((79 : Fin 80).val) b (arrEnt 1 0 0) = true) ∧
    ((arrEnt 1 0 0).op = .pass ∧ (arrEnt 2 0 0).op = .load ∧ (arrEnt 3 1 1).op = .passLoad ∧ (arrEnt 4 0 0).op = .elem) ∧
    (backsLoading armed (arrEnt 2 0 0).amask = false ∧ backsValid armed (arrEnt 3 1 1).amask = true ∧
      ∀ a ∈ maskBits (arrEnt 3 1 1).amask, (arrOf armed a).front.loading = false) ∧
    (∀ a ∈ maskBits (arrEnt 2 0 0).amask, sramPoisoned (arrS 2 0 0) (scratchBase 79 +
      (baseAfter (arrEnt 2 0 0).wbase (arrEnt 2 0 0).dsel 0).toNat + a * arrImageBytes (arrEnt 2 0 0)) (arrImageBytes (arrEnt 2 0 0)) =
        none) := by decide +kernel

/-- A PASS to an engine whose front set was never loaded. -/
theorem witness_ArrayActionsFail :
    let s : State := engS engineReset [onBus (.array 79) ((arrWord 1 0 0).setWidth 256) 0];
    clocksRun s.dev = true ∧ s.pwr.gate = .none ∧ busFirst s (.array ((79 : Fin 80).val)) = some (onBus (.array 79) ((arrWord 1 0 0).setWidth 256) 0) ∧
      arrEntryOf ((onBus (.array 79) ((arrWord 1 0 0).setWidth 256) 0).entry.setWidth 128) = some (some (arrEnt 1 0 0)) ∧
      s.cal.run = true ∧ (∀ a ∈ maskBits (arrEnt 1 0 0).amask, passOn (engineOf s ((79 : Fin 80).val)) a = none) ∧
      arrErrBits s (engineOf s 79) (arrEnt 1 0 0) false 512 0 ≠ 0 := by decide +kernel

/-- An action in progress on array 7, at row `n` of 512. -/
def arrAct (op acc : Nat) (swap : Bool) (n : Nat) : ArrAct :=
  ⟨arrEnt op acc 0, false, 1, 0, 0, 0x10000, 512, n, 0, 0, swap, 0, 0, [], countsZero, countsZero, 0, histZero⟩
def loadingEng (acts : List ArrAct) : Engine :=
  { engineReset with acts := acts, arrs := [(7, { arrReset with front := wset 1, back := { wset 1 with valid := false, loading := true } })] }

theorem witness_ArraySteps :
    ((arrOf (engineOf (engS (loadingEng []) []) ((79 : Fin 80).val)) ((7 : Fin 8).val)).back.loading = true) ∧
    ((engineOf (engS (loadingEng [arrAct 1 0 true 0]) []) 79).acts = [arrAct 1 0 true 0] ∧ (arrAct 1 0 true 0).swap = true ∧
      (arrAct 1 0 true 0).loadDue = 0 ∧ (arrAct 1 0 true 0).ent.amask = 2 ^ ((7 : Fin 8).val)) ∧
    (∀ n ∈ [0, 511], let s := engS { armed with acts := [arrAct 1 0 false n] } [];
      s.pwr.gate = .none ∧
      passOn (engineOf s 79) ((7 : Fin 8).val) = some (0, arrAct 1 0 false n) ∧ stepWaits (engineOf s 79) (arrAct 1 0 false n) = false ∧
        (stepAddrs 79 (arrAct 1 0 false n)).findSome? (fun p => sramPoisoned s p (arrRowBytes (arrAct 1 0 false n).ent)) = none) ∧
    (opensTile (arrAct 1 0 false 0) = true ∧ finishesTile (arrAct 1 0 false 0) = false ∧
      (arrAct 1 0 false 0).done + 1 < (arrAct 1 0 false 0).rows) ∧
    (((engineOf (engS { armed with inflight := [[(0, 1), (1, 2)]] } []) 79).inflight = [[(0, 1), (1, 2)]]) ∧
      (([(0, 1), (1, 2)] : List (Nat × W48)).map (·.1)).Nodup) := by decide +kernel

/-! ### Element engines, movers, cores -/

/-- A RUN of one row of 32 FP32 elements by a one-instruction figure; a DRAIN of one tile; a SYNC (R116). -/
def runWord : BitVec 256 := BitVec.ofNat 256 (2 ^ 252 + 31 * 2 ^ 201)
def drainWord : BitVec 256 := BitVec.ofNat 256 (2 * 2 ^ 252)
def syncWord : BitVec 256 := BitVec.ofNat 256 (3 * 2 ^ 252)
/-- Its figure is one ADD. -/
def eleBus (w : BitVec 256) : BusAct := { onBus (.element 79) w 0 with fig := [BitVec.ofNat 64 (2 ^ 58)] }
def eleS (w : BitVec 256) : State := engS engineReset [eleBus w]

def eleBegins (w : BitVec 256) (op : EleOp) : Bool :=
  let s := eleS w
  let b := eleBus w
  match busElement b with
  | some (some (x, is, _)) => clocksRun s.dev && s.pwr.gate == .none && busFirst s (.element ((79 : Fin 80).val)) == some b && x.op == op &&
      !mustWait s 7 b.fill && eleFree (engineOf s 79) b.fill && !(b.fill && decide (32 < rowCycles x is)) && eleQuiet (engineOf s 79) &&
      eleErrBits s x is b.fill b.delta (if x.rowsrc then b.span else x.rows) == 0
  | _ => false

theorem witness_ElementActionsBegin :
    eleBegins runWord .run = true ∧ eleBegins drainWord .drain = true ∧ eleBegins syncWord .sync = true := by decide +kernel

def eleEnt : EleEntry := ((eleEntryFields drainWord).getD ⟨.sync, 0, 0, 0, false, 0, 0, 0, ⟨0, 0, false, .fp32, false⟩,
  ⟨0, 0, false, .fp32, false⟩, ⟨0, 0, false, .fp32, false⟩, ⟨0, 0⟩, ⟨0, 0⟩⟩)
/-- A drain in progress: its tiles taken or not, its row. -/
def eleAct (taken : Bool) (row : Nat) : EleAct :=
  ⟨eleEnt, [], [], false, 1, 0, 0, if taken then 1 else 0, row, 0, [0, 0, 0, 0, 0], [], taken, 0, [], false⟩
def desc : Desc := ⟨0, 7, true, 0, false, false, false, false⟩

theorem witness_ElementSteps :
    (let s := engS { engineReset with eles := [eleAct false 0], queue := [desc] } [];
      clocksRun s.dev = true ∧
      (engineOf s 79).eles.zipIdx.find? (fun p => !p.1.taken && !p.1.dead) = some (eleAct false 0, 0) ∧
      (((engineOf s 79).queue.filter (fun d => d.fill == (eleAct false 0).fill)).take (eleAct false 0).ent.tiles).length =
        (eleAct false 0).ent.tiles ∧ descsDiffer [desc] = false ∧
      eleErrBits s (eleAct false 0).ent (eleAct false 0).instrs false 0 (drainRows desc) = 0) ∧
    (let s := engS { engineReset with eles := [{ eleAct true 0 with tiles := [desc] }] } [];
      (engineOf s 79).eles.zipIdx.find? (fun p => eleReading p.1) =
        some ({ eleAct true 0 with tiles := [desc] }, 0) ∧ s.pwr.gate = .none ∧ (eleAct true 0).fill = false ∧
      rowUnwritten (engineOf s 79) { eleAct true 0 with tiles := [desc] } = false ∧
      rowPoisoned s { eleAct true 0 with tiles := [desc] } = none) ∧
    (let s := engS { engineReset with outs := [⟨[(0, 1), (0xBFFFFF, 2)]⟩] } [];
      (engineOf s 79).outs = [⟨[(0, 1), (0xBFFFFF, 2)]⟩] ∧ Memory.wf s.sram = true ∧
        (([(0, 1), (0xBFFFFF, 2)] : List (Nat × Byte)).map (·.1)).Nodup) ∧
    (let s := engS { engineReset with eles := [eleAct true 1] } [];
      (engineOf s 79).eles = [eleAct true 1] ∧ eleReading (eleAct true 1) = false ∧ eleWriting (eleAct true 1) = false) := by
  decide +kernel

/-- A mover's entry of one row (R150): operation, SRAM source and destination or not, destination, length, token 63 posted. -/
def movWord (op ssram dsram dst len : Nat) : BitVec 256 :=
  BitVec.ofNat 256 (op * 2 ^ 252 + 63 * 2 ^ 246 + 2 ^ 245 + ssram * 2 ^ 240 + dsram * 2 ^ 191 + dst * 2 ^ 143 + (len - 1) * 2 ^ 127)
def movEnt (op ssram dsram dst len : Nat) : MovEntry := ((movEntryOf (movWord op ssram dsram dst len)).bind id).getD
  ⟨.zero, 0, false, 0, false, false, false, 0, false, 0, 0, 0, 0, 0, 0, 0, 0⟩
def movS (w : BitVec 256) : State := engS engineReset [onBus (.mover 7 10) w 0]

def movFits (w : BitVec 256) (op : MovOp) (bad : Bool) : Bool :=
  let s := movS w
  match movEntryOf w with
  | some (some x) => clocksRun s.dev && s.pwr.gate == .none && busFirst s (.mover ((7 : Fin 8).val) ((10 : Fin 11).val)) == some (onBus (.mover 7 10) w 0) &&
      decide (((moverOf s 7 10).queue.filter (fun a => !a.suspended)).length < 4) && x.op == op && s.cal.run &&
      (if bad then (movErrBits s (movDelta x 0).1 false (movDelta x 0).2).1 != 0
       else movErrBits s (movDelta x 0).1 false (movDelta x 0).2 == (0, false))
  | _ => false

theorem witness_MoverActionsIssue :
    movFits (movWord 1 1 1 0x1000 64) .copy false = true ∧ movFits (movWord 2 0 0 0x2000 64) .zero false = true ∧
    movFits (movWord 3 0 0 0x1000 4096) .seal false = true ∧ movFits (movWord 1 1 1 0xFFFFFF 64) .copy true = true := by decide +kernel

def movAct (e : MovEntry) (running : Bool) (data : List (Nat × List Byte)) : MovAct :=
  ⟨e, false, running, data, [], [], false, none, false, (movRows e).map (fun r => (r.1, r.2, e.len)), false⟩
def moverS (a : MovAct) : State := setMover readyS 7 10 ⟨[a]⟩

theorem witness_MoverActionsRun :
    (let a := movAct (movEnt 1 1 1 0x1000 64) false [];
      nextMov (moverOf (moverS a) ((7 : Fin 8).val) ((10 : Fin 11).val)).queue = some (a, 0) ∧ (moverS a).gilLoose = a.loose ∧
        heldFor (moverS a) (.mover 7 10) a.fill = 0 ∧
        a.ent.op = .copy ∧ a.ent.srcSram = true ∧ (∀ r ∈ a.left, srcRowFault (moverS a) a.ent r.1 r.2.2 = none)) ∧
    (let a := movAct (movEnt 2 0 0 0x2000 64) false [];
      nextMov (moverOf (moverS a) 7 10).queue = some (a, 0) ∧ a.ent.op = .zero) ∧
    (let a := movAct (movEnt 1 1 1 0x1000 2) true [(0x1000, [1, 2])];
      (moverOf (moverS a) 7 10).queue.zipIdx.find? (fun p => p.1.running && !p.1.suspended) = some (a, 0) ∧ a.slowTodo = [] ∧ a.slow = [] ∧
        a.faultAt = none ∧ trafficWaits (moverS a) (.mover 7 10) = false ∧ a.ent.dstSram = true ∧
        a.ent.op ≠ .seal ∧ a.ent.produce = false ∧ a.ent.post = true) ∧
    (let a := movAct (movEnt 1 1 0 0x2000 2) true [(0x2000, [1, 2])];
      (moverOf (moverS a) 7 10).queue.zipIdx.find? (fun p => p.1.running && !p.1.suspended) = some (a, 0) ∧ a.ent.dstSram = false ∧
        slowWrites a = [] ∧ a.data.flatMap (fun r => trackedDev (moverS a) r.1 r.2.length true) = [] ∧ a.ent.op ≠ .seal ∧
        a.data.any (fun r => shutAt (moverS a) (movClass a.fill) r.1 r.2.length) = false ∧ a.ent.produce = false ∧
        (writeRows (moverS a) a.ent (movClass a.fill) a.data).2 = none) ∧
    (let a := movAct (movEnt 3 0 0 0x1000 4096) true [];
      (moverOf (moverS a) 7 10).queue.zipIdx.find? (fun p => p.1.running && !p.1.suspended) = some (a, 0) ∧ a.ent.op = .seal ∧
        a.ent.dstSram = false ∧ (moverS a).cxl.track = [] ∧ (moverS a).hbmPoison = [] ∧
        a.data = [] ∧ (∀ d ∈ devTiles a.ent, devFault (moverS a) d 4096 = none) ∧ dstTiles (moverS a) a.ent = [0x1000]) := by
  decide +kernel

/-- A BARRIER of set 63, an EXPAND of one block by expander 3 of partition 7, a SPANLD of register 7 (R172). -/
def setWord : BitVec 256 := BitVec.ofNat 256 (2 ^ 252 + 63 * 2 ^ 246 + 6 * 2 ^ 242 + 2 ^ 64)
def expWord : BitVec 256 := BitVec.ofNat 256 (2 * 2 ^ 252 + 3 * 2 ^ 250 + 3 * 2 ^ 241 + (7 * 0x2000000000) * 2 ^ 193 + 2 ^ 152)
def spanWord : BitVec 256 := BitVec.ofNat 256 (3 * 2 ^ 252 + 7 * 2 ^ 249 + 2 ^ 248 + 63 * 2 ^ 242 + (0x6E000000 : Nat) * 2 ^ 210)
def coreS (w : BitVec 256) : State := engS engineReset [onBus (.core 7) w 0]


def setD : SetBody := (setBodyOf setWord).getD someBody
def expD : ExpBody := (expBodyOf 7 expWord).getD ⟨0, false, 0, 0, 0, 0, 0, false, 0, false⟩
def spanD : SpanBody := (spanBodyOf 7 spanWord).getD ⟨0, false, 0, 0⟩
def coreOn (w : BitVec 256) (a : CoreAct) : Bool :=
  clocksRun (coreS w).dev && (coreS w).pwr.gate == .none && busFirst (coreS w) (.core ((7 : Fin 8).val)) == some (onBus (.core 7) w 0) &&
    coreEntryOf ((7 : Fin 8).val) w == some (some a)

theorem witness_CoreActions :
    (coreOn setWord (.set setD) = true ∧ setD.set = 63 ∧
      (setOf (coreS setWord) setD.set).queue.length < 256 ∧
      (setOf (coreS setWord) setD.set).cfg = none) ∧
    (let s := setSet (coreS setWord) 63 { setReset with cfg := some { quadCfg with fill := true }, phase := .idle };
      busFirst s (.core ((7 : Fin 8).val)) = some (onBus (.core 7) setWord 0) ∧
        (setOf s 63).queue.length < 256 ∧
        (setOf s 63).cfg = some { quadCfg with fill := true } ∧ ({ quadCfg with fill := true } : SetCfg).fill ≠ false) ∧
    (coreOn expWord (.expand expD) = true ∧ (expQueue (cmpOf (coreS expWord) ((7 : Fin 8).val)) expD.exp).length < 4 ∧
      expIndexOk (coreS expWord) ((7 : Fin 8).val) expD = true ∧ (movErrBits (coreS expWord) (expDst expD) false (0, 0)).1 = 0) ∧
    (coreOn spanWord (.spanld spanD) = true ∧ heldFor (coreS spanWord) (.spanld ((7 : Fin 8).val)) false = 0 ∧
      sramPoisoned (coreS spanWord) spanD.addr 4 = none ∧ (coreS spanWord).spanlds = []) ∧
    (let s : State := { coreS spanWord with tok := { tokensReset with held := [⟨.spanld 7, false, 63, 0⟩] } };
      busFirst s (.core ((7 : Fin 8).val)) = some (onBus (.core 7) spanWord 0) ∧ heldFor s (.spanld ((7 : Fin 8).val)) false ≠ 0) ∧
    (let x : SpanLoad := ⟨7, 7, 0, some 63, 0, some 0x6E000000⟩;
      let s : State := { readyS with spanlds := [x] };
      let h : State := { s with tok := { tokensReset with held := [⟨.spanld 7, false, 63, 0⟩] } };
      s.spanlds.find? (fun x => x.core == (7 : Fin 8).val && x.wait.isSome) = some x ∧ s.pwr.gate = .none ∧
        heldFor s (.spanld ((7 : Fin 8).val)) false = 0 ∧ sramPoisoned s 0x6E000000 4 = none ∧
        heldFor h (.spanld ((7 : Fin 8).val)) false ≠ 0) ∧
    (let l : SpanLoad := ⟨3, 7, 0x1FFFF, some 63, 5, none⟩;
      let s : State := { readyS with spanlds := [l], cal := { callerReset with spanBy := [(7, (5, 7))] } };
      let u : State := { s with cal := { callerReset with spanBy := [(7, (5, 2))] } };
      s.spanlds.find? (fun x => x.core == (3 : Fin 8).val && x.wait.isNone) = some l ∧
        Tbl.get? s.cal.spanBy l.reg = some (l.at_, 7) ∧ Tbl.get? u.cal.spanBy l.reg = some (l.at_, 2)) := by decide +kernel

def expAct (running : Bool) (gen : Nat) : ExpAct := ⟨expD, running, [(0, [1, 2])], gen, 0, false, none, none, [], [], false, false⟩
def expS (a : ExpAct) : State := setCmp readyS 7 { cmpOf readyS 7 with exp := [(3, [a])] }

theorem witness_ExpanderActions :
    (clocksRun (expS (expAct false 0)).dev = true ∧
      expQueue (cmpOf (expS (expAct false 0)) ((7 : Fin 8).val)) ((3 : Fin 4).val) = [expAct false 0] ∧
      heldFor (expS (expAct false 0)) (.expander 7 3) false = 0 ∧ partActive (expS (expAct false 0)) 7 = true ∧
      (expS (expAct false 0)).cxl.track = []) ∧
    (expQueue (cmpOf (expS (expAct true 0)) 7) 3 = [expAct true 0] ∧ trafficWaits (expS (expAct true 0)) (.expander 7 3) = false ∧
      (expAct true 0).slowTodo = [] ∧ (expAct true 0).slow = [] ∧ (expAct true 0).poison = none ∧ (expAct true 0).fault = none ∧ (expAct true 0).body.dstSram = true ∧
      (expAct true 0).body.produce = false ∧ (expAct true 0).gen = 0 ∧ (expAct true 1).gen ≠ 0) := by decide +kernel

/-! ### HBM, the tip-in buffer, the regulators, the census -/

/-- Partition 7 holds line `n` of its window. -/
def tipS (flushing covered : Bool) : State :=
  updTip readyS 7 (fun t => { t with lines := [⟨lineIn 7 3, [(0, 1), (255, 2)], 6, flushing, covered⟩], alloc := 1 })

theorem witness_TipInBuffer :
    (clocksRun readyS.dev = true ∧ Memory.wf readyS.hbm = true ∧ windowOpen readyS 7 (0x1FF7FFFF * 256) = true ∧
      (List.replicate 256 (1 : Byte)).length = 256 ∧ (tipOf readyS ((7 : Fin 8).val)).waiting = [] ∧
      (tipOf readyS ((7 : Fin 8).val)).lines = [] ∧ windowOpen (tipS false false) 7 (3 * 256) = true ∧
      (tipOf (tipS false false) ((7 : Fin 8).val)).lines.any (fun l => l.line == lineIn ((7 : Fin 8).val) 3 && l.flushing) = false) ∧
    (windowOpen readyS ((7 : Fin 8).val) 254 = true ∧ 254 % 256 + ([1, 2] : List Byte).length ≤ 256 ∧
      tipLineOf readyS (((7 : Fin 8).val * hbmWindow + 254) / 256) = none ∧ (tipOf readyS ((7 : Fin 8).val)).lines.length < 512) ∧
    (∀ l, (tipOf (tipS false false) ((7 : Fin 8).val)).lines = [l] → l.line = lineIn ((7 : Fin 8).val) 3) ∧
    ((tipS true false).hbmPoison = [] ∧ hbmPart (lineIn ((7 : Fin 8).val) 3 * 256) = (7 : Fin 8).val ∧
      (tipOf (tipS true false) 7).waiting = [] ∧ (tipLineOf (tipS true false) (lineIn 7 3)).map (·.flushing) = some true ∧
      (([(0, 1), (255, 2)] : Tbl Byte).map (·.1)).Nodup) ∧
    (∀ l ∈ (tipOf (tipS true false) ((7 : Fin 8).val)).lines, l.covered = false) := by
  refine ⟨by decide +kernel, by decide +kernel, ?_, by decide +kernel, by decide +kernel⟩
  intro l h
  have : (tipOf (tipS false false) ((7 : Fin 8).val)).lines = [⟨lineIn 7 3, [(0, 1), (255, 2)], 6, false, false⟩] := by decide +kernel
  rw [this] at h; cases h; rfl

theorem witness_LedgersStayBalanced :
    (∃ t, step { tipS true false with pending := [.tipinLineFreed 7 3] } = .next t) ∧
    (tipOf (tipS true false) 7).alloc = (tipOf (tipS true false) 7).freed + (tipOf (tipS true false) 7).lines.length :=
  ⟨⟨_, rfl⟩, by decide +kernel⟩

/-- Two sequences of class `c` wait at partition 7. -/
def reqS (c : Nat) : State := updRegs readyS 7 (fun r => { r with reqs := [⟨none, c, false, 3, 0, 32, false⟩, ⟨none, c, true, 4, 0, 2048, false⟩] })
/-- Class 6 of partition 7 has spent its bucket, with a request waiting. -/
def spentS (w : W32) : State := updRegs (reqS 6) 7 (fun r => { r with cls := [(6, w)], bucket := [(6, -1)] })

theorem witness_RegulatorGrant :
    (clocksRun (reqS 0).dev = true ∧ partActive (reqS 0) ((7 : Fin 8).val) = true ∧
      (memOf (reqS 0) ((7 : Fin 8).val)).regs.reqs = [⟨none, 0, false, 3, 0, 32, false⟩, ⟨none, 0, true, 4, 0, 2048, false⟩] ∧
      0 ≤ bucketOf (memOf (reqS 0) 7).regs 0 ∧ bits (classOf (memOf (reqS 0) 7).regs 0) 7 0 ≠ 0) ∧
    ([⟨6, true, 250, 12⟩] : List HbmAccess).foldl (fun rs x => addTraffic none x.cls x.write x.off x.len rs)
      (memOf readyS ((7 : Fin 8).val)).regs.reqs = [⟨none, 6, true, chanOf 250, chanLocal 250 / 32 * 32, chanLocal 250 / 32 * 32 + 32, false⟩,
        ⟨none, 6, true, chanOf 256, chanLocal 256, chanLocal 256 + 32, false⟩] ∧
    (memOf (spentS 0x100010) ((7 : Fin 8).val)).regs.reqs = [⟨none, 6, false, 3, 0, 32, false⟩, ⟨none, 6, true, 4, 0, 2048, false⟩] ∧
    (bucketOf (memOf (spentS 0x80100000) 7).regs 6 < 0 ∧ bitAt (classOf (memOf (spentS 0x80100000) 7).regs 6) 31 = true) ∧
    (bucketOf (memOf (spentS 0x100010) 7).regs 6 < 0 ∧ bitAt (classOf (memOf (spentS 0x100010) 7).regs 6) 31 = false) := by decide +kernel

/-- A census record, and partition 7 with its ring and what waits. -/
def crec (nan : Nat) (fill : Bool) : CRec := ⟨1, 5, 0, 7, fill, 1, 10, 0, 0, nan, histZero⟩
def cenS (en full : Bool) (rs : List CRec) (merge : Tbl MergeAcc) : State :=
  setCensus readyS 7 { censusReset with base := 1, cfg := if en then 0x80000000 else 0, head := if full then 256 else 255,
                                        cthr1 := 0x403F0001, waiting := rs, merge := merge }

def cenAt (s : State) (rest : List CRec) : Bool :=
  clocksRun s.dev && Memory.wf s.hbm && partActive s ((7 : Fin 8).val) && !unitHeld s (.census ((7 : Fin 8).val)) &&
    (censusOf s ((7 : Fin 8).val)).waiting.tail == rest && !(censusOf s 7).waiting.isEmpty &&
    (censusOf s ((7 : Fin 8).val)).waiting.all (fun r => !recShut s 7 r)

theorem witness_CensusRecords :
    (cenAt (cenS false false [crec 0 false] []) [] = true ∧ ringEn (censusOf (cenS false false [crec 0 false] []) 7) = false ∧
      crosses (censusOf (cenS false false [crec 0 false] []) 7) (crec 0 false) = false) ∧
    (cenAt (cenS true false [crec 0 true] []) [] = true ∧ ringEn (censusOf (cenS true false [crec 0 true] []) 7) = true ∧
      ringFull (censusOf (cenS true false [crec 0 true] []) 7) = false ∧ (ringHolds (cenS true false [crec 0 true] []) 7).isNone = true) ∧
    (cenAt (cenS true true [crec 0 true] []) [] = true ∧ ringFull (censusOf (cenS true true [crec 0 true] []) 7) = true) ∧
    (cenAt (cenS false false [crec 1 true] []) [] = true ∧ crosses (censusOf (cenS false false [crec 1 true] []) 7) (crec 1 true) = true ∧
      bitAt (censusOf (cenS false false [crec 1 true] []) 7).cthr1 30 = true) ∧
    (let m : MergeAcc := ⟨crec 0 false, 1, 1, 1, false, false, false⟩;
      ringEn (censusOf (cenS true false [] [(0, m)]) 7) = true ∧ ringFull (censusOf (cenS true false [] [(0, m)]) 7) = false ∧
      (censusOf (cenS true false [] [(0, m)]) 7).waiting = [] ∧ (ringHolds (cenS true false [] [(0, m)]) 7).isNone = true ∧
      (censusOf (cenS true false [] [(0, m)]) 7).merge.filter (fun e => e.2.nrec != 0) = [(0, m)]) := by decide +kernel

/-! ### The update units -/

/-- `crc32c`'s fold, each step made to yield its number. -/
def crcRun : List Byte → Nat → Nat
  | [], c => c
  | b :: bs, c => match crcByte c b with
    | 0 => crcRun bs 0
    | n + 1 => crcRun bs (n + 1)

theorem crcRun_eq (bs : List Byte) (c : Nat) : crcRun bs c = bs.foldl crcByte c := by
  induction bs generalizing c with
  | nil => rfl
  | cons b bs ih =>
    rw [List.foldl_cons]
    unfold crcRun
    generalize crcByte c b = x
    cases x with
    | zero => exact ih 0
    | succ n => exact ih (n + 1)

theorem crc32c_run (bs : List Byte) : crc32c bs = crcRun bs 0xFFFFFFFF ^^^ 0xFFFFFFFF := by rw [crcRun_eq]; rfl

theorem crcRun_zeros : crcRun (List.replicate 4096 0) 0xFFFFFFFF ^^^ 0xFFFFFFFF = crcZeroTile := by decide +kernel

/-- The checksum of a tile of zeros, by the polynomial of R146. -/
theorem test_crcZeroTile : crc32c (List.replicate 4096 0) = crcZeroTile := (crc32c_run _).trans crcRun_zeros

/-- The check value of CRC-32C, over the nine ASCII digits 1 to 9. -/
theorem test_crc32c : crc32c [0x31, 0x32, 0x33, 0x34, 0x35, 0x36, 0x37, 0x38, 0x39] = 0xE3069283 := by decide +kernel

/-- Nothing has been written to HBM. -/
structure Clean (s : State) : Prop where
  hbm : s.hbm = []
  sheet : s.sheet = []
  mem : s.mem = []
  poison : s.hbmPoison = []

theorem blank_read {s : State} (h1 : s.hbm = []) (h2 : s.mem = []) (a n : Nat) : hbmRead s a n = List.replicate n 0 := by
  induction n generalizing a with
  | zero => rfl
  | succ n ih =>
    simp only [hbmRead, ih, List.replicate_succ]
    congr 1
    simp [hbmByte, tipLineOf, memOf, h1, h2, Tbl.get, memGet, memSideReset, tipReset]

theorem Clean.read {s : State} (h : Clean s) (a n : Nat) : hbmRead s a n = List.replicate n 0 := blank_read h.hbm h.mem a n

theorem Clean.tile {s : State} (h : Clean s) (a : Nat) (ha : a % hbmWindow < sheetOffset) : tileOk s a = true := by
  have hs : ¬ sheetOffset ≤ a % hbmWindow := by omega
  have h0 : (Tbl.get (BitVec.ofNat 32 crcZeroTile) ([] : Tbl W32) (a / 4096)).toNat = crcZeroTile := rfl
  simp only [tileOk, tileCrc, h.read, test_crcZeroTile, sheetGet, hs, if_false, h.sheet, h0, beq_self_eq_true]

/-- Where nothing was written no read fails. -/
theorem Clean.get {s : State} (h : Clean s) (g : UpdGet)
    (hb : (tilesOf s g.2.1 g.2.2).all (fun t => decide (t % hbmWindow < sheetOffset)) = true) : getFault s g = none := by
  have hp (a n : Nat) : hbmPoisoned s a n = none := by simp [hbmPoisoned, h.poison]
  unfold getFault
  split
  · refine List.findSome?_eq_none_iff.mpr fun t ht => ?_
    simp [tilePoisoned, hp, h.tile t (of_decide_eq_true (List.all_eq_true.mp hb t ht))]
  · simp [devPoisoned, h.poison]

theorem Clean.gets {s : State} (h : Clean s) (gs : List UpdGet)
    (hb : gs.all (fun g => (tilesOf s g.2.1 g.2.2).all (fun t => decide (t % hbmWindow < sheetOffset))) = true) :
    gs.any (fun g => (getFault s g).isSome) = false := by
  simp only [List.any_eq_false]
  intro g hg
  simp [h.get g (List.all_eq_true.mp hb g hg)]

/-- Group 255 of partition 0, one parameter, of set 63. -/
def grp : UGroup :=
  ⟨0x200000000, 0x200100000, 0x200200000, 0x200300000, 1, 0x800, 0, 63, 0, true, false, true, 63, 1, 0x200400000, 0x200500000⟩
def slowGrp : UGroup := { grp with sbase0 := 0x800000000000, sbase1 := 0x800000100000 }
def dlv (good : Bool) (group : Nat) : Deliv := ⟨63, group, 0, 1, 0, [], good, 0, 0, 0⟩
def updS (f : Upd → Upd) : State := { readyS with upd := [(0, f { updReset with groups := [(255, grp)] })] }
def arriveS (d : Deliv) : State := updS (fun u => { u with deliver := [d] })
/-- The chunk stands in the done map. -/
def doneS (s : State) : State := { s with hbm := [(0x200500000, 1)] }

/-- The chunk's byte of the done map is poisoned. -/
def poisonS (s : State) : State := { s with hbmPoison := [0x10028000] }

def arrives (s : State) (d : Deliv) : Bool :=
  clocksRun s.dev && partActive s ((0 : Fin 8).val) && !unitHeld s (.update ((0 : Fin 8).val)) &&
    (updOf s ((0 : Fin 8).val)).deliver.find? (canTake (updOf s ((0 : Fin 8).val))) == some d && d.tag == (setOf s d.set).attempt &&
    (hostHolds s (arriveSpans s ((0 : Fin 8).val) d).1 (arriveSpans s ((0 : Fin 8).val) d).2).isNone

theorem witness_UpdateChunks_arrive :
    arrives (arriveS (dlv false 255)) (dlv false 255) = true ∧
    (arrives (arriveS (dlv true 254)) (dlv true 254) = true ∧ groupAt (updOf (arriveS (dlv true 254)) 0) 254 = none) ∧
    (∀ g ∈ [{ grp with en := false }, { grp with set := 62 }, { grp with count := 0 }],
      let s := updS (fun u => { u with deliver := [dlv true 255], groups := [(255, g)] });
      arrives s (dlv true 255) = true ∧ groupAt (updOf s 0) 255 = some g ∧ (g.en = false ∨ g.set ≠ 63 ∨ g.count ≤ 0)) ∧
    (arrives (poisonS (arriveS (dlv true 255))) (dlv true 255) = true ∧
      (getFault (poisonS (arriveS (dlv true 255))) (doneGet grp 0)).isSome = true ∧
      (getFault (arriveS (dlv true 255)) (doneGet grp 0)).isSome = false) ∧
    (let s := arriveS (dlv true 255);
      arrives s (dlv true 255) = true ∧ groupAt (updOf s 0) 255 = some grp ∧ grp.en = true ∧ grp.set = (dlv true 255).set ∧
      4096 * (dlv true 255).chunk < grp.count ∧ (usetOf (updOf s 0) 63).st = .idle ∧ (usetOf (updOf s 0) 63).attempt ≤ 1 ∧
      hbmByte (doneS s) (grp.dmap + 0) = tagByte 1 ∧ hbmByte s (grp.dmap + 0) ≠ tagByte 1 ∧ slowGroup grp = false) ∧
    (let s := updS (fun u => { u with deliver := [dlv true 255], groups := [(255, slowGrp)] });
      arrives s (dlv true 255) = true ∧ groupAt (updOf s 0) 255 = some slowGrp ∧ slowGroup slowGrp = true ∧
      parkFree (updOf s 0) = some 0) := by decide +kernel

def workS : State := updS (fun u => { u with work := [(dlv true 255, none)] })

theorem workS_clean : Clean workS := ⟨rfl, rfl, rfl, rfl⟩

/-- The chunk's own conditions in a state whose work it heads. -/
def applies (s : State) : Bool :=
  clocksRun s.dev && partActive s ((0 : Fin 8).val) && (updOf s ((0 : Fin 8).val)).work == [(dlv true 255, none)] &&
    groupAt (updOf s 0) 255 == some grp &&
    (hostHolds s (getSpans s (doneGet grp 0 :: chunkGets s 0 grp (dlv true 255) none)) (chunkWrites s 0 grp (dlv true 255) none)).isNone

theorem witness_UpdateChunks_apply :
    (applies (doneS workS) = true ∧ (getFault (doneS workS) (doneGet grp 0)).isSome = false ∧
      hbmByte (doneS workS) (grp.dmap + 0) = tagByte 1) ∧
    (applies workS = true ∧ (getFault workS (doneGet grp 0)).isSome = false ∧ hbmByte workS (grp.dmap + 0) ≠ tagByte 1 ∧
      (chunkGets workS 0 grp (dlv true 255) none).any (fun x => (getFault workS x).isSome) = false) :=
  ⟨by decide +kernel, by decide +kernel, by decide +kernel, by decide +kernel, workS_clean.gets _ (by decide +kernel)⟩

/-- The schedule's tile fails its check. -/
def badS : State := { workS with sheet := [(0x200400, 5)] }

theorem witness_UpdateChunks_check :
    (applies badS = true ∧ hbmByte badS (grp.dmap + 0) ≠ tagByte 1 ∧
      (chunkGets badS 0 grp (dlv true 255) none).any (fun x => (getFault badS x).isSome) = true) ∧
    (applies (poisonS workS) = true ∧ (getFault (poisonS workS) (doneGet grp 0)).isSome = true) := by
  refine ⟨⟨by decide +kernel, by decide +kernel, ?_⟩, by decide +kernel⟩
  have h1 : tilesOf badS (schedAt grp (usetOf (updOf badS 0) 63).step) 16 = [0x200400000] := by decide +kernel
  have h2 : tilePoisoned badS 0x200400000 = none := by decide +kernel
  have h3 : tileOk badS 0x200400000 = false := by
    simp only [tileOk, tileCrc, blank_read (s := badS) rfl rfl, test_crcZeroTile]
    decide +kernel
  have h4 : (true, schedAt grp (usetOf (updOf badS 0) 63).step, 16) ∈ chunkGets badS 0 grp (dlv true 255) none := by decide +kernel
  exact List.any_eq_true.mpr ⟨_, h4, by simp [getFault, updFault, h1, h2, h3]⟩

def someOut : ChunkOut := ⟨[], [], [], [], [], [], [], [], valZero⟩
def parked (applied : Bool) : Park :=
  ⟨1, dlv true 255, [3], [], [], if applied then [] else [(0xA000, List.replicate 128 7)], applied,
    if applied then some someOut else none, false, false⟩
def parkS (applied : Bool) : State := updS (fun u => { u with groups := [(255, slowGrp)], parks := [parked applied] })

def parkDone (s : State) : Bool :=
  clocksRun s.dev && partActive s ((0 : Fin 8).val) && groupAt (updOf s 0) 255 == some slowGrp &&
    (updOf s ((0 : Fin 8).val)).parks.find? (fun k => k.slot == 1 && parkWritten k && partActive s ((0 : Fin 8).val)) == some (parked true) &&
    (hostHolds s [] (countSpans s 0 255 slowGrp (dlv true 255))).isNone

theorem witness_UpdateChunks_park :
    (let s := parkS false;
      clocksRun s.dev = true ∧ partActive s ((0 : Fin 8).val) = true ∧
      (updOf s ((0 : Fin 8).val)).parks.find? (fun k => k.slot == 1) = some (parked false) ∧ groupAt (updOf s 0) 255 = some slowGrp ∧
      partCome s ((0 : Fin 8).val) (parked false) = some (3, List.replicate 128 7) ∧
      (hostHolds s [] (withEntries s [(parkBase (updOf s 0) 1 + (partSpan slowGrp (ruleAt (updOf s 0) slowGrp).mom 0 3).2.2,
        128)])).isNone = true) ∧
    (∀ s ∈ [poisonS (parkS true), doneS (parkS true), parkS true], parkDone s = true) ∧
    ((getFault (poisonS (parkS true)) (doneGet slowGrp 0)).isSome = true ∧
      hbmByte (doneS (parkS true)) (slowGrp.dmap + 0) = tagByte 1 ∧ hbmByte (parkS true) (slowGrp.dmap + 0) ≠ tagByte 1 ∧
      (parked true).result = some someOut) := by decide +kernel

/-- Set 63 in a round. -/
def roundS (st : RoundSt) (ev : List Bool) : State :=
  updS (fun u => { u with sets := [(63, ⟨st, 9, true, 3, ev⟩)], sums := [(255, ⟨valZero, valZero, 1, [], [], true⟩)] })

theorem witness_UpdateRounds :
    (clocksRun (roundS .opened []).dev = true ∧ partActive (roundS .opened []) ((0 : Fin 8).val) = true) ∧
    (let us := usetOf (updOf (roundS .opened []) 0) 63; us.st = .opened ∧ us.events = [] ∧ roundDone (roundS .opened []) 0 63 = true) ∧
    (let u := updOf (roundS .applied [true]) 0; (usetOf u 63).events.head? = some true ∧ (usetOf u 63).st = .applied ∧ committing u = false ∧
      (hostHolds (roundS .applied [true]) [] [(recordAddr u, 256)]).isNone = true) ∧
    (let us := usetOf (updOf (roundS .opened [true]) 0) 63; us.events.head? = some true ∧ us.st ≠ .applied) ∧
    ((usetOf (updOf (roundS .commit []) 0) 63).st = .commit ∧ (hostHolds (roundS .commit []) []
      ((recordAddr (updOf (roundS .commit []) 0) + 256, 256) :: tagSpans (roundS .commit []) 0 63)).isNone = true) ∧
    (let us := usetOf (updOf (roundS .applied [false]) 0) 63; us.events.head? = some false ∧ us.st = .applied ∧
      (hostHolds (roundS .applied [false]) [] (tagSpans (roundS .applied [false]) 0 63)).isNone = true) := by decide +kernel

/-- The group is not done yet: the round stays open. -/
theorem test_roundOpen : roundDone (updS (fun u => { u with sets := [(63, ⟨.opened, 9, true, 3, []⟩)] })) 0 63 = false := by decide +kernel

/-! ### Links -/

/-- `crc64`'s fold, each step made to yield its number. -/
def crc64Run : List Byte → W64 → W64
  | [], c => c
  | b :: bs, c => match (crc64Byte c b).toNat with
    | 0 => crc64Run bs (BitVec.ofNat 64 0)
    | n + 1 => crc64Run bs (BitVec.ofNat 64 (n + 1))

theorem crc64Run_eq (bs : List Byte) (c : W64) : crc64Run bs c = bs.foldl crc64Byte c := by
  induction bs generalizing c with
  | nil => rfl
  | cons b bs ih =>
    rw [List.foldl_cons]
    unfold crc64Run
    have h : ∀ x : W64, (match x.toNat with | 0 => crc64Run bs (BitVec.ofNat 64 0) | n + 1 => crc64Run bs (BitVec.ofNat 64 (n + 1))) =
        bs.foldl crc64Byte x := by
      intro x
      have hx : BitVec.ofNat 64 x.toNat = x := by simp
      split
      · rename_i h0
        rw [ih, ← h0, hx]
      · rename_i n h0
        rw [ih, ← Nat.succ_eq_add_one, ← h0, hx]
    exact h _

/-- The CRC of a flit, given as the numbers of its frame word. -/
def crcFits (hi lo : Nat) (payload : List Byte) : Bool :=
  (crc64Run (payload ++ natBytes 8 hi) (BitVec.allOnes 64) ^^^ BitVec.allOnes 64).toNat == lo

theorem frameGood_run (f : BitVec 128) (payload : List Byte) :
    frameGood f payload = (payload.length == 256 && crcFits (bits f 127 64) (bits f 63 0) payload) := by
  rw [crcFits, crc64Run_eq]; rfl

/-- Data flit 5 of VC 3 with no payload but zeros, an idle flit and a NAK, each returning seven credits of VC 2. -/
def dataW : BitVec 128 := 135584500795753683336060003899406258532
def idleW : BitVec 128 := 146215079576496426044299796170128780313
def nakW : BitVec 128 := 156848903542775753044519672873758502984

theorem test_flitGood : frameGood dataW zeros256 = true := by rw [frameGood_run]; decide +kernel
theorem test_flitBad : frameGood (dataW ^^^ 1) zeros256 = false := by rw [frameGood_run]; decide +kernel
theorem test_idleGood : frameGood idleW zeros256 = true := by rw [frameGood_run]; decide +kernel
theorem test_nakGood : frameGood nakW zeros256 = true := by rw [frameGood_run]; decide +kernel
theorem test_flitFields : fType dataW = 0 ∧ fVc dataW = 3 ∧ fSeq dataW = 5 ∧ fSom dataW = true ∧ fCvc dataW = 2 ∧ fCred dataW = 7 := by
  decide +kernel

def linkS (f : Link → Link) : State := { readyS with links := [(3, f { linkReset with state := .up, rxNext := 5 })] }
def flitA : Flit := ⟨1, true, true, 4, zeros256⟩

theorem witness_LinkFlits :
    (clocksRun (linkS id).dev = true ∧ (linkOf (linkS id) ((3 : Fin 12).val)).state = .up) ∧
    (fType dataW = 0 ∧ fSeq dataW = (linkOf (linkS id) 3).rxNext) ∧
    (fType dataW = 0 ∧ fSeq dataW ≠ (linkOf (linkS fun x => { x with rxNext := 4, nakWait := true }) 3).rxNext ∧
      (linkOf (linkS fun x => { x with rxNext := 4, nakWait := true }) 3).nakWait = true) ∧
    (fSeq dataW ≠ (linkOf (linkS fun x => { x with rxNext := 6 }) 3).rxNext ∧
      (linkOf (linkS fun x => { x with rxNext := 6 }) 3).nakWait = false) ∧
    (fType idleW = 1 ∧ (linkOf (linkS id) 3).tx = []) ∧
    (let x := linkOf (linkS fun x => { x with replay := [flitA], replays := [7] }) 3;
      fType nakW = 2 ∧ (takeAckCred x nakW).replay ≠ [] ∧ ∀ k ∈ (takeAckCred x nakW).replays, k < 8) ∧
    (let x := linkOf (linkS fun x => { x with replay := [flitA], replays := [8] }) 3;
      (takeAckCred x nakW).replay ≠ [] ∧ ∃ k ∈ (takeAckCred x nakW).replays, 8 ≤ k) := by decide +kernel

/-- What the far side reports of link 3: it is the planned one, or a stranger. -/
def report (serial : W64) : TrainReport := ⟨true, serial, (planned readyS 3).2.1, 4, [16, 128, 96, 64, 32, 96, 48, 32]⟩

theorem witness_LinkFlits_frames :
    frameGood dataW zeros256 = true ∧ frameGood (dataW ^^^ 1) zeros256 = false ∧ frameGood idleW zeros256 = true ∧
      frameGood nakW zeros256 = true := ⟨test_flitGood, test_flitBad, test_idleGood, test_nakGood⟩

theorem witness_LinkStates :
    (let s := linkS fun x => { x with state := .training };
      clocksRun s.dev = true ∧ (linkOf s ((3 : Fin 12).val)).state = .training ∧ (linkOf s 3).tx = [] ∧
      trainCode s ((3 : Fin 12).val) (report (planned readyS 3).2.2) = 1 ∧
      trainCode s ((3 : Fin 12).val) (report ((planned readyS 3).2.2 + 1)) ≠ 1) ∧
    (let s := linkS fun x => { x with state := .retrain };
      clocksRun s.dev = true ∧ (linkOf s ((3 : Fin 12).val)).state = .retrain ∧ (report 0).ok = true ∧ { report 0 with ok := false }.ok = false) := by
  decide +kernel

/-! ### Sets -/

/-- Channel `v` of link 3 holds message `m`, and its set is 0. -/
def gotS (x : SetSt) (v : Nat) (m : SetMsg) : State :=
  { setS x with links := [(3, { linkReset with state := .up, rx := [(v, [⟨msgBytes m, 1⟩])], occ := [(v, 1)] })] }

def takes (s : State) (v : Nat) (kind : MsgKind) (m : SetMsg) : Bool :=
  clocksRun s.dev && (match takeKind s ((3 : Fin 12).val) v kind with
    | some x => x.1 == m && x.2.1 == some 0
    | none => false)

theorem takes_some {s : State} {v : Nat} {kind : MsgKind} {m : SetMsg} (h : takes s v kind m = true) :
    clocksRun s.dev = true ∧ ∃ u, takeKind s ((3 : Fin 12).val) v kind = some (m, some 0, u) := by
  unfold takes at h
  rw [Bool.and_eq_true] at h
  refine ⟨h.1, ?_⟩
  have h := h.2
  split at h
  · rename_i x hx
    obtain ⟨m', k', u⟩ := x
    simp only [Bool.and_eq_true, beq_iff_eq] at h
    obtain ⟨rfl, rfl⟩ := h
    exact ⟨u, hx⟩
  · cases h

theorem witness_DescriptorStart :
    (let s := setS { setReset with queue := [someBody] };
      clocksRun s.dev = true ∧ (setOf s ((0 : Fin 64).val)).run = none ∧ mayStart s ((0 : Fin 64).val) = true ∧
      (setOf s 0).queue = [someBody] ∧ (setOf s 0).cfg = none) ∧
    (let b : SetBody := { someBody with op := .allReduce, count := 1 };
      let s := setS { setReset with cfg := some quadCfg, phase := .idle, queue := [b] };
      clocksRun s.dev = true ∧ (setOf s ((0 : Fin 64).val)).run = none ∧ mayStart s ((0 : Fin 64).val) = true ∧
      (setOf s 0).queue = [b] ∧ (setOf s 0).cfg = some quadCfg ∧ countOk quadCfg b = false) ∧
    (let b : SetBody := { someBody with op := .broadcast, count := 1, arg := 2 };
      let s := setS { setReset with cfg := some quadCfg, phase := .idle, queue := [b] };
      mayStart s ((0 : Fin 64).val) = true ∧ (setOf s 0).queue = [b] ∧ countOk quadCfg b = true ∧ quadCfg.n ≤ b.arg) ∧
    (let s := setS { setReset with cfg := some quadCfg, phase := .idle, queue := [someBody] };
      mayStart s ((0 : Fin 64).val) = true ∧ (setOf s 0).queue = [someBody] ∧ someBody.op = .barrier ∧ (setOf s 0).early = []) := by
  decide +kernel

def msg (kind : MsgKind) (attempt dest flags : Nat) (payload : List Byte) (cchk : Nat) : SetMsg :=
  ⟨quadCfg.tag, kind, attempt, 0, 1, dest, flags, 0, 0, cchk, payload⟩

def runSt (b : SetBody) : SetSt := { setReset with cfg := some quadCfg, phase := .run, run := some (runOf b) }
def idleSt : SetSt := { setReset with cfg := some quadCfg, phase := .idle }
def castBody : SetBody := { someBody with op := .broadcast, count := 1, arg := 1 }

theorem witness_ChunkMessages_credit :
    (takes (gotS idleSt 2 (msg .chunk 1 1 0 [] 0)) 2 .chunk (msg .chunk 1 1 0 [] 0) = true ∧ 1 ≠ quadCfg.ord) ∧
    (takes (gotS idleSt 2 (msg .chunk 9 0 0 [] 0)) 2 .chunk (msg .chunk 9 0 0 [] 0) = true ∧ 0 = quadCfg.ord ∧
      freshChunk idleSt (msg .chunk 9 0 0 [] 0) = false) ∧
    (takes (gotS idleSt 2 (msg .chunk 1 0 0 [] 0)) 2 .chunk (msg .chunk 1 0 0 [] 0) = true ∧
      freshChunk idleSt (msg .chunk 1 0 0 [] 0) = true ∧ idleSt.run = none) ∧
    (takes (gotS idleSt 2 (msg .wcred 1 0 0 [] 0)) 2 .wcred (msg .wcred 1 0 0 [] 0) = true ∧
      fresh idleSt (msg .wcred 1 0 0 [] 0) = true ∧ (gotS idleSt 2 (msg .wcred 1 0 0 [] 0)).gilLoose = false ∧ quadCfg.quad = true ∧
      (msg .wcred 1 0 0 [] 0).chunk % 2 = 0) := by
  decide +kernel

def castMsg : SetMsg := msg .chunk 1 0 0 (List.replicate 4096 0) crcZeroTile

theorem castMsg_payload : castMsg.payload = List.replicate 4096 0 := rfl
theorem castMsg_crc : crc32c castMsg.payload = castMsg.cchk := by rw [castMsg_payload, test_crcZeroTile]; rfl
theorem castMsg_length : castMsg.payload.length = 4096 := by rw [castMsg_payload, List.length_replicate]

theorem natAt_append (h p : List Byte) (i n : Nat) (hl : i + n ≤ h.length) : natAt (h ++ p) i n = natAt h i n := by
  simp [natAt, bytesAt, List.drop_append_of_le_length (show i ≤ h.length by omega),
    List.take_append_of_le_length (show n ≤ (h.drop i).length by rw [List.length_drop]; omega)]

/-- The head of a message. -/
def msgHead (m : SetMsg) (len : Nat) : List Byte :=
  natBytes 2 m.tag ++ natBytes 1 (kindCode m.kind) ++ natBytes 1 m.attempt ++ natBytes 4 m.step ++ natBytes 1 m.from_ ++
    natBytes 1 m.dest ++ natBytes 1 m.flags ++ natBytes 1 0 ++ natBytes 4 m.dseq ++ natBytes 4 m.chunk ++
    natBytes 4 len ++ natBytes 4 m.cchk ++ natBytes 4 0

/-- The message is read back from its bytes, whatever 4,096 bytes it carries. -/
theorem castMsg_msgOf (p : List Byte) (hp : p.length = 4096) :
    msgOf (msgBytes { castMsg with payload := p }) = some { castMsg with payload := p } := by
  have hm : msgBytes { castMsg with payload := p } = msgHead castMsg 4096 ++ p := by rw [← hp]; rfl
  have hl : (msgHead castMsg 4096).length = 32 := by decide
  have h : bytesAt (msgHead castMsg 4096 ++ p) 32 4096 = p := by
    unfold bytesAt
    rw [List.drop_append_of_le_length (by omega), List.drop_of_length_le (by omega), List.nil_append, List.take_of_length_le (by omega)]
  have e (i n : Nat) (hi : i + n ≤ 32) := natAt_append (msgHead castMsg 4096) p i n (by omega)
  have hn : natAt (msgHead castMsg 4096) 20 4 = 4096 ∧ kindOf (natAt (msgHead castMsg 4096) 2 1) = some .chunk ∧
      natAt (msgHead castMsg 4096) 0 2 = castMsg.tag ∧ natAt (msgHead castMsg 4096) 3 1 = castMsg.attempt ∧
      natAt (msgHead castMsg 4096) 4 4 = castMsg.step ∧ natAt (msgHead castMsg 4096) 8 1 = castMsg.from_ ∧
      natAt (msgHead castMsg 4096) 9 1 = castMsg.dest ∧ natAt (msgHead castMsg 4096) 10 1 = castMsg.flags ∧
      natAt (msgHead castMsg 4096) 12 4 = castMsg.dseq ∧ natAt (msgHead castMsg 4096) 16 4 = castMsg.chunk ∧
      natAt (msgHead castMsg 4096) 24 4 = castMsg.cchk := by decide +kernel
  unfold msgOf
  rw [hm, e 20 4 (by omega), e 2 1 (by omega), e 0 2 (by omega), e 3 1 (by omega), e 4 4 (by omega), e 8 1 (by omega), e 9 1 (by omega),
    e 10 1 (by omega), e 12 4 (by omega), e 16 4 (by omega), e 24 4 (by omega)]
  simp only [hn, h, Option.map_some]
  rfl

def castGot : State := gotS (runSt castBody) 2 castMsg

theorem castMsg_takes : clocksRun castGot.dev = true ∧ ∃ u, takeKind castGot ((3 : Fin 12).val) 2 .chunk = some (castMsg, some 0, u) := by
  refine ⟨by decide +kernel, ?_⟩
  have h1 : peekMsg castGot ((3 : Fin 12).val) 2 = some (msgBytes { castMsg with payload := List.replicate 4096 0 }) := rfl
  have h2 : ∃ bs u, takeMsg castGot ((3 : Fin 12).val) 2 = some (bs, u) ∧ setOfTag u castMsg.tag = some 0 :=
    ⟨_, _, rfl, by decide +kernel⟩
  obtain ⟨bs, u, h2, h3⟩ := h2
  unfold takeKind
  rw [h1, Option.bind_some, castMsg_msgOf _ List.length_replicate]
  simp only [h2]
  exact ⟨u, by rw [if_neg (by decide +kernel)]; exact congrArg (fun x => some (castMsg, x, u)) h3⟩

theorem witness_ChunkMessages_store :
    (clocksRun castGot.dev = true ∧ ∃ u, takeKind castGot ((3 : Fin 12).val) 2 .chunk = some (castMsg, some 0, u)) ∧ castMsg.dest = quadCfg.ord ∧ freshChunk (runSt castBody) castMsg = true ∧
    (runSt castBody).run = some (runOf castBody) ∧ castMsg.dseq = (runSt castBody).dseq ∧ quadCfg.quad = true ∧
    (runOf castBody).body.op = .broadcast ∧ (runOf castBody).body.dstSram = true ∧ codeLtc quadCfg.code = false ∧
    crc32c castMsg.payload = castMsg.cchk ∧ castMsg.payload.length = 4096 ∧ (runOf castBody).toSend = [] ∧ (runSt castBody).early = [] :=
  ⟨castMsg_takes, by decide +kernel, by decide +kernel, rfl, rfl, by decide +kernel, rfl, rfl, by decide +kernel, castMsg_crc,
   castMsg_length, rfl, rfl⟩

def keptMsg (n : Nat) : Retained := ⟨{ msg .chunk 1 1 0 [] 0 with from_ := 0 }, 3, n, false⟩
def nackSt (n : Nat) : SetSt := { runSt castBody with retained := [keptMsg n] }

theorem witness_ChunkMessages_nack :
    (∀ n ∈ [3, 4], takes (gotS (nackSt n) 2 (msg .nack 1 0 0 [] 0)) 2 .nack (msg .nack 1 0 0 [] 0) = true ∧
      fresh (nackSt n) (msg .nack 1 0 0 [] 0) = true ∧ (keptMsg n).msg.dest = 1 ∧
      crc32c (keptMsg n).msg.payload = (keptMsg n).msg.cchk) ∧
    (nackSt 3).frozen = false ∧ (keptMsg 3).ltc = false ∧ (nackSt 4).phase = .run := by decide +kernel

def barBody : SetBody := { someBody with post := true, token := 5 }
def commitBody : SetBody := { someBody with op := .commit }
/-- Partition 0 is the set's, and stands at APPLIED. -/
def commitS (x : SetSt) : State := { setS x with upd := [(0, { updReset with sets := [(0, ⟨.applied, 0, false, 1, []⟩)] })] }

theorem witness_SetVote_enter :
    (let s := setS (runSt barBody);
      clocksRun s.dev = true ∧ (setOf s ((0 : Fin 64).val)).run = some (runOf barBody) ∧ runComplete quadCfg (runOf barBody) = true ∧
      (setOf s 0).round = false ∧ barBody.op ≠ .commit ∧ (setOf s 0).early = []) ∧
    (let s := commitS { runSt commitBody with round := true, vetoes := [0] };
      clocksRun s.dev = true ∧ (setOf s ((0 : Fin 64).val)).run = some (runOf commitBody) ∧
      runComplete quadCfg (runOf commitBody) = true ∧ unitsApplied s ((0 : Fin 64).val) quadCfg = true ∧ censusOpen s (stepOf s ((0 : Fin 64).val) quadCfg) = false ∧
      (setOf s 0).vetoes.contains (stepOf s 0 quadCfg) = true) := by decide +kernel

def voteMsg (flags : Nat) : SetMsg := msg .vote 1 0 flags (natBytes 8 2 ++ zeros 16) 0
def voteSt : SetSt := { runSt barBody with phase := .vote, mask := 1 }

def reelCfg : SetCfg := { quadCfg with quad := false, ext := [1, 2, 1] }

/-- The vote that fills the mask meets a COMMIT, on a Quadrille, in DOUBT, and in the last stage of a Reel. -/
theorem witness_SetVote_decide :
    (∀ x ∈ [{ voteSt with run := some (runOf commitBody), done := [barBody] }, { voteSt with phase := .doubt },
        { voteSt with cfg := some reelCfg }],
      takes (gotS x 1 (voteMsg 0)) 1 .vote (voteMsg 0) = true ∧ fresh x (voteMsg 0) = true ∧ x.early = [] ∧
        x.mask ||| BitVec.ofNat 64 (natAt (voteMsg 0).payload 0 8) = fullMask quadCfg) ∧
    (partActive (commitS voteSt) 0 = true ∧ quadCfg.parts.testBit 0 = true) ∧
    (fullMask reelCfg = fullMask quadCfg ∧ (axes reelCfg)[voteSt.voteStage]? = some ((3 : Fin 12).val % 6 / 2) ∧
      extOf reelCfg 1 ≤ voteSt.voteGot + 2 ∧ (axes reelCfg)[voteSt.voteStage + 1]? = none) := by decide +kernel

theorem witness_SetVote_receive :
    (∀ fl ∈ [0, 1, 16], takes (gotS voteSt 1 (voteMsg fl)) 1 .vote (voteMsg fl) = true ∧ fresh voteSt (voteMsg fl) = true) ∧
    takes (gotS (runSt barBody) 1 (voteMsg 0)) 1 .vote (voteMsg 0) = true ∧ fresh (runSt barBody) (voteMsg 0) = true ∧
    (quadCfg.quad = true ∧ voteSt.early = [] ∧ voteSt.mask ||| BitVec.ofNat 64 (natAt (voteMsg 0).payload 0 8) = fullMask quadCfg ∧
      voteSt.done = [] ∧ voteSt.run = some (runOf barBody) ∧ barBody.op ≠ .commit) ∧
    (let a := msg .abort 1 0 0 [] 0;
      takes (gotS { idleSt with attempt := 2, aborted := some 1 } 1 a) 1 .abort a = true ∧ a.attempt ≠ 2) ∧
    (let a := msg .abort 1 0 0 [] 0; takes (gotS voteSt 1 a) 1 .abort a = true ∧ fresh voteSt a = true) := by decide +kernel

def slowBody : SetBody := { castBody with arg := 1 }

theorem witness_SetTimeoutAndFreeze :
    (let s := setS voteSt;
      clocksRun s.dev = true ∧ (setOf s ((0 : Fin 64).val)).cfg = some quadCfg ∧ (setOf s 0).frozen = false ∧ s.pwr.cfg.vc6p = false ∧
      (setOf s 0).phase = .vote) ∧
    (let s := setS (runSt slowBody);
      (setOf s ((0 : Fin 64).val)).phase = .run ∧ (setOf s 0).run = some (runOf slowBody) ∧ runComplete quadCfg (runOf slowBody) = false) ∧
    (let s := setS { idleSt with freezing := true };
      clocksRun s.dev = true ∧ (setOf s ((0 : Fin 64).val)).freezing = true ∧ (setOf s 0).run = none) ∧
    atBoundary quadCfg (runOf slowBody) (runComplete quadCfg (runOf slowBody)) = false := by decide +kernel

/-! ### The far exchange -/

def partner1 : Partner := { partnerEmpty with fid := 2, st := .active, wt := 256, epochs := [⟨1, zeros 32, .cur⟩] }

/-- A far state: set 0 has partition 0, which stands at step `step`; partner 1 is as `p`. -/
def roundFar (step : W32) (f : Far → Far) (p : Partner → Partner) : State :=
  { setS { setReset with cfg := some quadCfg, phase := .idle } with
    upd := [(0, { updReset with sets := [(0, ⟨.idle, step, false, 1, []⟩)] })],
    far := f { farReset with cfg := some (farCfgOf farImage), partners := [(1, p partner1)], port0 := ⟨true, 0⟩ } }

def fc : FarCfg := farCfgOf farImage

theorem witness_FarRounds_begin :
    (let s := roundFar 200 (fun f => { f with en := true }) id;
      clocksRun s.dev = true ∧ s.far.cfg = some fc ∧ s.far.en = true ∧ s.far.phase = .none ∧ fc.h ≠ 0 ∧
      farAtStep s fc (farStep s fc) = true ∧ farStep s fc % fc.h = 0 ∧ s.far.k ≤ farStep s fc / fc.h ∧
      (farStep s fc == s.far.enStep) = false) ∧
    (let s := setPstate (roundFar 200 (fun f => { f with phase := .select, k := 2 }) id) 0 .fencing;
      clocksRun s.dev = true ∧ s.far.cfg = some fc ∧ s.far.phase = .select ∧ (farParts s fc).all (partActive s) = false) ∧
    (let s := roundFar 200 (fun f => { f with phase := .select, k := 2 }) id;
      s.far.phase = .select ∧ (farParts s fc).all (partActive s) = true ∧ s.cxl.track = [] ∧ (farChunks s) = []) := by decide +kernel

theorem witness_FarRounds_selection :
    selChunks (roundFar 200 (fun f => { f with phase := .select, k := 2 }) id)
      (farChunks (roundFar 200 (fun f => { f with phase := .select, k := 2 }) id)) = .ok [] := by
  exact (congrArg (selChunks _) witness_FarRounds_begin.2.2.2.2.2).trans rfl

def bulkRecv (got : List Nat) : RecvSel := ⟨true, 7, 8192, got, 0, false, []⟩
def pull (failed : Bool) : FarJoin := ⟨1, 0, 7, 8192, failed⟩

theorem witness_FarRounds_end :
    (let s := roundFar 250 (fun f => { f with phase := .opened, k := 2 }) (fun p => { p with recvs := [⟨false, 2, 16, [0], 0, false, []⟩] });
      closeDue s fc = true ∧ s.cxl.track = []) ∧
    (let s := roundFar 210 (fun f => { f with phase := .closed, k := 2 }) id;
      farAtStep s fc (s.far.k * fc.h + fc.lag) = true ∧ s.far.phase = .closed ∧ s.far.stopped = false ∧ s.cxl.track = [] ∧
      (farParts s fc).all (partActive s) = true) ∧
    (let s := roundFar 0 (fun f => { f with phase := .joining, join := some (pull true) }) id;
      s.far.join = some (pull true) ∧ s.far.phase = .joining ∧ (pull true).failed = true) ∧
    (let s := roundFar 0 (fun f => { f with phase := .joining, join := some (pull false) }) (fun p => { p with recvs := [bulkRecv [0]] });
      s.far.join = some (pull false) ∧ s.far.phase = .joining ∧ (pull false).failed = false ∧
      s.cxl.track = [] ∧ (partnerOf s (pull false).entry).recvs.find? (fun r => r.bulk && r.round == (pull false).round) = some (bulkRecv [0]) ∧
      recvDone (bulkRecv [0]) = true) := by decide +kernel

/-- A frame under `key` with header `h`. -/
def sealed (key h text : List Byte) : Frame := ⟨h, (gcmSeal key (frameIv h) h text).1, (gcmSeal key (frameIv h) h text).2⟩

theorem headerBad_length (h b b' t t' : List Byte) (hl : b.length = b'.length) : headerBad ⟨h, b, t⟩ = headerBad ⟨h, b', t'⟩ := by
  unfold headerBad bodyFits frameType
  dsimp only
  rw [hl]

/-- What of a frame is open to inspection is in order. -/
def canOpen (s : State) (port : Fin 2) (h : List Byte) (n t e : Nat) (k : Epoch) (c : FarCfg) : Bool :=
  clocksRun s.dev && (portOf s port).up && natAt h 0 1 % 16 == t && !headerBad ⟨h, List.replicate n 0, []⟩ && s.far.cfg == some c &&
    natAt h 6 2 == c.fid && frameFrom s ⟨h, [], []⟩ == some e &&
    (partnerOf s e).epochs.find? (fun k => k.num == natAt h 8 2) == some k && seqFresh (partnerOf s e) (natAt h 16 8) &&
    k.key.length == 32

/-- The state with the frame's sequence number noted. -/
def noted (s : State) (e : Nat) (h : List Byte) (k : Epoch) : State :=
  let p := partnerOf s e
  let begins := p.switched && k.st == .cur
  setPartner s e { p with
    high := max p.high (natAt h 16 8),
    seen := (natAt h 16 8 :: p.seen).filter (fun n => decide (max p.high (natAt h 16 8) < n + 4096)),
    switched := p.switched && !begins,
    overlap := if begins then some (tickNow s + max (2 * p.maxRtt) (2 * msTicks)) else p.overlap }

theorem sender_of {s : State} {port : Fin 2} {h : List Byte} {n t e : Nat} {k : Epoch} {c : FarCfg}
    (hc : canOpen s port h n t e k c = true) (b tag : List Byte) (hb : b.length = n) : frameSender s ⟨h, b, tag⟩ = some e := by
  simp only [canOpen, Bool.and_eq_true, beq_iff_eq, Bool.not_eq_true'] at hc
  have hbad : headerBad ⟨h, b, tag⟩ = false := by
    rw [headerBad_length h b (List.replicate n 0) tag [] (by rw [hb, List.length_replicate])]
    exact hc.1.1.1.1.1.1.2
  have hcfg := hc.1.1.1.1.1.2
  have hfid := hc.1.1.1.1.2
  have hfrom : frameFrom s ⟨h, b, tag⟩ = some e := hc.1.1.1.2
  unfold frameSender
  rw [hcfg]
  simp [hbad, hfid, hfrom]

theorem opens_sealed {s : State} {port : Fin 2} {h text : List Byte} {t e : Nat} {k : Epoch} {c : FarCfg}
    (hc : canOpen s port h text.length t e k c = true) : Opens s (noted s e h k) port (sealed k.key h text) t e text := by
  have hs := hc
  simp only [canOpen, Bool.and_eq_true, beq_iff_eq, Bool.not_eq_true'] at hs
  have hf := sender_of hc (gcmSeal k.key (frameIv h) h text).1 (gcmSeal k.key (frameIv h) h text).2
    (gcmSeal_length k.key (frameIv h) h text hs.2)
  refine ⟨hs.1.1.1.1.1.1.1.1.1, hs.1.1.1.1.1.1.1.1.2, hs.1.1.1.1.1.1.1.2, ?_⟩
  unfold openFrame
  simp only [sealed, hf, hs.1.1.2, gcmOpen_gcmSeal k.key (frameIv h) h text hs.2]
  refine (if_neg fun h0 => ?_).trans rfl
  have h1 : (!seqFresh (partnerOf s e) (natAt h 16 8)) = true := h0
  rw [hs.1.2] at h1
  cases h1

def ep : Epoch := ⟨1, zeros 32, .cur⟩
/-- A frame of partner 1 that says `b`, its ninth. -/
def head (b : FrameBody) : List Byte := headerOf 2 1 1 9 0 b
/-- It opens, and these are the state it leaves and the partner's state there. -/
def taken (s : State) (b : FrameBody) : Bool := canOpen s 0 (head b) b.body.length b.type 1 ep fc

theorem taken_opens {s : State} {b : FrameBody} (h : taken s b = true) :
    Opens s (noted s 1 (head b) ep) 0 (sealed (zeros 32) (head b) b.body) b.type 1 b.body := opens_sealed (k := ep) h

def afterS (s : State) (b : FrameBody) : State := noted s 1 (head b) ep

theorem witness_ChotinFrames_hello :
    (taken (roundFar 0 id id) (bareFrame 8) = true ∧ (partnerOf (afterS (roundFar 0 id id) (bareFrame 8)) 1).st = .active) ∧
    (taken (roundFar 0 id fun p => { p with st := .silent }) (bareFrame 8) = true ∧
      (partnerOf (afterS (roundFar 0 id fun p => { p with st := .silent }) (bareFrame 8)) 1).st = .silent) := by decide +kernel

def dataB : FrameBody := ⟨1, 1, 2, 0, 16, zeros 16⟩
def sackB : FrameBody := { bareFrame 2 with round := 2, body := natBytes 4 2 ++ natBytes 4 0 ++ [0, 1, 0, 0] }
def heldRecv : RecvSel := ⟨false, 2, 16, [], 0, false, []⟩
def sentSel : SendSel := ⟨false, 2, zeros 16, [⟨0, 0, 1, 0, false⟩]⟩
def openS : State := roundFar 250 (fun f => { f with phase := .opened, k := 2 }) (fun p => { p with recvs := [heldRecv], sends := [sentSel] })

theorem witness_ChotinFrames_data :
    (taken openS dataB = true ∧ openS.far.cfg = some fc ∧ openS.cxl.track = [] ∧ (partnerOf (afterS openS dataB) 1).st = .active) ∧
    (recvOf (afterS openS dataB) 1 false (natAt (head dataB) 12 4) = some heldRecv ∧ heldRecv.closed = false ∧
      ageOk fc (ageOf (afterS openS dataB) (natAt (head dataB) 12 4)) = true ∧ natAt (head dataB) 28 4 = heldRecv.total ∧
      heldRecv.total ≤ fc.budget ∧ 16 ≤ heldRecv.total ∧ natAt (head dataB) 24 4 ∉ heldRecv.got ∧
      tilesOf (afterS openS dataB) (recvBase fc 1 (natAt (head dataB) 12 4) + 8192 * natAt (head dataB) 24 4) dataB.body.length ≠ []) ∧
    (taken openS sackB = true ∧
      ((partnerOf (afterS openS sackB) 1).sends.filter (fun x => x.round == natAt sackB.body 0 4)).head? = some sentSel ∧
      natAt sackB.body 9 1 = 1) := by decide +kernel

def replyB : FrameBody := { bareFrame 4 with body := zeros 24 }
/-- Group 255 of partition 0 is the one far group. -/
def donorS : State :=
  { roundFar 0 id id with
    far := { (roundFar 0 id id).far with groups := [(0, [(255, ⟨0x400000000, true⟩)])] },
    upd := [(0, { updReset with groups := [(255, grp)] })] }

theorem hbmRead_ne (s : State) (a n : Nat) (h : n ≠ 0) : hbmRead s a n ≠ [] := by
  cases n with
  | zero => exact absurd rfl h
  | succ n => simp [hbmRead]

/-- The anchor of one chunk is read where its tiles are good. -/
theorem Clean.anchor {s : State} (hc : Clean s) (copy : Bool) (x : FarG) (n a : Nat)
    (h : ((tilesOf s (planeBase x (b2n copy) n) 16384).all (fun t => decide (t % hbmWindow < sheetOffset)) &&
      (chunksIn (planeBase x (b2n copy) n) 16384).any (fun c => accOf s c.1 == .hbm a && c.2 != 0)) = true) :
    ∃ bs, anchorImage s copy [(x, n)] = .ok bs ∧ bs ≠ [] := by
  rw [Bool.and_eq_true, List.any_eq_true] at h
  obtain ⟨ht, c, hm, hx⟩ := h
  simp only [Bool.and_eq_true, beq_iff_eq, bne_iff_ne] at hx
  refine ⟨devRead s (planeBase x (b2n copy) n) 16384 ++ [], ?_, fun h => ?_⟩
  · unfold anchorImage
    have hr : updRead s (planeBase x (b2n copy) n) 16384 = .ok (devRead s (planeBase x (b2n copy) n) 16384) := by
      have h0 : updFault s (planeBase x (b2n copy) n) 16384 = none := hc.get (true, planeBase x (b2n copy) n, 16384) ht
      rw [updRead, h0]
    simp only [hr, anchorImage]
  · rw [List.append_nil, devRead, List.flatMap_eq_nil_iff] at h
    have := h c hm
    rw [hx.1] at this
    exact hbmRead_ne _ _ _ hx.2 this

theorem witness_ChotinFrames_time :
    taken openS (bareFrame 3) = true ∧
    (taken openS replyB = true ∧ (partnerOf (afterS openS replyB) 1).samples = [] ∧
      (partnerOf (afterS openS replyB) 1).timed = false ∧ (partnerOf (afterS openS replyB) 1).holdover = false) ∧
    (taken openS (bareFrame 9) = true ∧ (partnerOf (afterS openS (bareFrame 9)) 1).st = .active) := by decide +kernel

theorem witness_ChotinFrames_join_empty :
    taken openS (bareFrame 5) = true ∧ farChunks (afterS openS (bareFrame 5)) = [] ∧ farGroups (afterS openS (bareFrame 5)) = [] := by
  decide +kernel

theorem witness_ChotinFrames_join :
    (taken donorS (bareFrame 5) = true ∧ donorS.cxl.track = []) ∧
    (farGroups (afterS donorS (bareFrame 5))).all (fun x => partActive (afterS donorS (bareFrame 5)) x.p) = true ∧
    ∃ bs, anchorImage (afterS donorS (bareFrame 5)) (pinCopy (afterS donorS (bareFrame 5)) fc).1 (farChunks (afterS donorS (bareFrame 5))) =
      .ok bs ∧ bs ≠ [] := by
  refine ⟨by decide +kernel, by decide +kernel, ?_⟩
  have hc : farChunks (afterS donorS (bareFrame 5)) = [(⟨0, 255, 0x400000000, grp⟩, 0)] := by decide +kernel
  rw [hc]
  exact Clean.anchor (s := afterS donorS (bareFrame 5)) ⟨rfl, rfl, rfl, rfl⟩ _ _ _ 0x400000000 (by decide +kernel)

def bulkB (total : Nat) : FrameBody := ⟨6, 0, 7, 0, total, zeros total⟩
def joinS (repeats : Nat) : State :=
  roundFar 0 (fun f => { f with phase := .joining, join := some { pull false with repeats := repeats } }) id

theorem witness_ChotinFrames_bulk :
    (taken (joinS 0) (bulkB 16) = true ∧ (afterS (joinS 0) (bulkB 16)).far.join = some (pull false) ∧ (pull false).entry = 1 ∧
      (afterS (joinS 0) (bulkB 16)).far.phase = .joining ∧
      natAt (head (bulkB 16)) 28 4 ≠ imageBytes (afterS (joinS 0) (bulkB 16))) ∧
    (∀ fl ∈ [0, 2], taken (joinS 3) { bareFrame 7 with flags := fl } = true ∧ natAt (head { bareFrame 7 with flags := fl }) 1 1 / 2 % 2 = fl / 2) ∧
    taken (joinS 2) { bareFrame 7 with flags := 2 } = true ∧
    (afterS (joinS 3) (bareFrame 7)).far.join = some { pull false with repeats := 3 } := by decide +kernel

/-- The joining device holds the donor's group, and the first segment of its image comes. -/
def pullS : State :=
  { joinS 0 with far := { (joinS 0).far with groups := donorS.far.groups }, upd := donorS.upd }
def bulkFirst : FrameBody := ⟨6, 0, 7, 0, imageBytes pullS, zeros 8192⟩

theorem witness_ChotinFrames_image :
    taken pullS bulkFirst = true ∧ (afterS pullS bulkFirst).far.join = some (pull false) ∧
    natAt (head bulkFirst) 28 4 = imageBytes (afterS pullS bulkFirst) := by decide +kernel

theorem sealed_open (key h text : List Byte) (hk : key.length = 32) :
    gcmOpen key (frameIv h) h (sealed key h text).body (sealed key h text).tag = some text := by
  have hb : (sealed key h text).body = (gcmSeal key (frameIv h) h text).1 := by rw [sealed]
  have ht : (sealed key h text).tag = (gcmSeal key (frameIv h) h text).2 := by rw [sealed]
  rw [hb, ht]
  exact gcmOpen_gcmSeal key (frameIv h) h text hk

theorem sealed_sender {s : State} {h text : List Byte} {e : Nat} {k : Epoch} {c : FarCfg}
    (hc : canOpen s 0 h text.length 1 e k c = true) (hk : k.key.length = 32) : frameSender s (sealed k.key h text) = some e := by
  rw [sealed]
  exact sender_of hc _ _ (gcmSeal_length _ _ _ _ hk)

theorem gcmOpen_none (key iv h b : List Byte) (hk : key.length = 32) : gcmOpen key iv h b [] = none := by
  rw [gcmOpen]
  refine if_neg fun hx => ?_
  have := congrArg List.length hx
  rw [gcmTag, xorBytes_length, aesEnc_length _ _ hk] at this
  simp [beBytes] at this

theorem witness_ChotinRefusals_header :
    frameSender openS ⟨zeros 48, [], []⟩ = none ∧ clocksRun openS.dev = true ∧ (portOf openS ((0 : Fin 2).val)).up = true := by
  decide +kernel

/-- A frame of an epoch the partner has no key of. -/
theorem witness_ChotinRefusals_key :
    frameSender openS ⟨headerOf 2 1 5 9 0 dataB, zeros 16, []⟩ = some 1 ∧
    (partnerOf openS 1).epochs.find? (fun k => k.num == natAt (headerOf 2 1 5 9 0 dataB) 8 2) = none := by decide +kernel

theorem witness_ChotinRefusals_tag :
    frameSender openS ⟨head dataB, zeros 16, []⟩ = some 1 ∧
    (partnerOf openS 1).epochs.find? (fun k => k.num == natAt (head dataB) 8 2) = some ep ∧
    gcmOpen ep.key (frameIv (head dataB)) (head dataB) (zeros 16) [] = none :=
  ⟨by decide +kernel, by decide +kernel, gcmOpen_none _ _ _ _ (by decide)⟩

def seenS : State := roundFar 0 id fun p => { p with seen := [9], switched := true }
/-- A frame that opens but for its number, which has been seen; the partner has just switched to its epoch. -/
theorem witness_ChotinRefusals_replay :
    frameSender seenS (sealed ep.key (head dataB) dataB.body) = some 1 ∧ natAt (head dataB) 16 8 ∈ (partnerOf seenS 1).seen ∧
    (partnerOf seenS 1).switched = true ∧ ep.st = .cur ∧
    gcmOpen ep.key (frameIv (head dataB)) (head dataB) (sealed ep.key (head dataB) dataB.body).body
      (sealed ep.key (head dataB) dataB.body).tag = some dataB.body := by
  refine ⟨?_, by decide +kernel, rfl, rfl, sealed_open _ _ _ (by decide)⟩
  have h : frameSender (roundFar 0 id id) (sealed ep.key (head dataB) dataB.body) = some 1 :=
    sealed_sender (k := ep) (c := fc) (by decide +kernel) (by decide)
  exact h

/-- A segment is queued to be sent again. -/
def queuedS : State :=
  roundFar 250 (fun f => { f with phase := .opened, k := 2 }) (fun p => { p with sends := [⟨false, 2, zeros 16, [⟨0, 0, 1, 0, true⟩]⟩] })

theorem witness_FarTimers :
    (let s := { openS with pwr := { openS.pwr with tick := 0x1000000000 } };
      (partnerOf s 1).sends.find? (fun x => selLive s x && x.segs.any (fun g => g.seg == 0 && rtoPassed s (partnerOf s 1) g)) =
        some sentSel) ∧
    (nextSeg queuedS (partnerOf queuedS 1)).isSome = true ∧ nextSeg openS (partnerOf openS 1) = none ∧
    activePartners openS = [(1, partnerOf openS 1)] ∧ (partnerOf openS 1).st ≠ .left ∧ (partnerOf openS 1).st = .active ∧
    (let s := roundFar 0 id (fun p => { p with overlap := some 0 }); (partnerOf s 1).overlap = some 0 ∧ 0 ≤ s.pwr.tick.toNat) ∧
    (portOf openS ((0 : Fin 2).val)).up = true := by decide +kernel

/-- An address that is not the port's. -/
theorem witness_FarPorts : ∃ a, a ≠ Config.farAddr 0 := by
  generalize Config.farAddr 0 = x
  exact ⟨x + 1, by bv_omega⟩

/-! ### The cipher engine and the Bindery -/

/-- A message of 16 bytes at 1 MiB under slot 5, its tag at 3 MiB. -/
def cipM (decrypt : Bool) : CipMsg := ⟨.host, decrypt, 5, zeros 12, 0x1000, 0, 16, 0x100000, 0x200000, 0x300000, false, false, [], [], [], none, false⟩
def cipS (m : CipMsg) (hbm : Mem) : State :=
  { readyS with cip := { cipReset with slots := [(5, ⟨zeros 32, 7, 0xF, 1, 0⟩)], owner := some .host, running := some m }, hbm := hbm }

theorem witness_CipherLock :
    (let s := { readyS with cip := { cipReset with wait := [.host] } };
      clocksRun s.dev = true ∧ s.cip.owner = none ∧ s.cip.running = none ∧ s.cip.wait = [.host]) ∧
    (let s := pendS (keyS []) blobReq .firmware 0;
      clocksRun s.dev = true ∧ s.rst.mpDown = false ∧ s.jante.pend.find? (waitsLock s) = some ⟨blobReq, .firmware, 0⟩ ∧ blobReq.src < 16) ∧
    (let s := { readyS with cip := { cipReset with owner := some .host } };
      clocksRun s.dev = true ∧ s.cip.owner.isSome = true ∧ s.cip.running = none ∧ s.cip.save0 = none ∧ s.cip.save1 = none) := by
  decide +kernel

/-- All that `cipMessageDone` asks of a message but its tag. -/
def cipRuns (s : State) (m : CipMsg) : Bool :=
  clocksRun s.dev && s.cip.running == some m && s.gilLoose == m.loose && m.owner == .host && m.todo.isEmpty && m.slow.isEmpty && !m.failed && !m.fenced &&
    (msgRanges m).all (fun r => cipRange s r.1 r.2 == .good) && m.done.isNone && s.cxl.track.isEmpty && (msgPoison s m).isNone &&
    (slowPieces s m.dst m.len).isEmpty && (slowPieces s m.tag 16).isEmpty

theorem cipRuns_hbm (m : CipMsg) (hbm hbm' : Mem) : cipRuns (cipS m hbm) m = cipRuns (cipS m hbm') m := rfl

theorem witness_CipherMessages_seal : cipRuns (cipS (cipM false) []) (cipM false) = true ∧ (cipM false).decrypt = false := by decide +kernel

theorem hbmRead_plain {s : State} (h : s.mem = []) (a n : Nat) : hbmRead s a n = memRead s.hbm a n := by
  induction n generalizing a with
  | zero => rfl
  | succ n ih =>
    rw [hbmRead, memRead, ih]
    congr 1
    simp [hbmByte, tipLineOf, memOf, h, Tbl.get, memSideReset, tipReset]

theorem cipBytes_hbm (m : CipMsg) (hbm : Mem) (a : Nat) (h : chunksIn a 16 = [(a, 16)] ∧ accOf (cipS m []) a = .hbm a) :
    cipBytes (cipS m hbm) m a 16 = memRead hbm a 16 := by
  have h2 : accOf (cipS m hbm) a = .hbm a := h.2
  rw [cipBytes, h.1]
  simp only [List.flatMap_cons, List.flatMap_nil, List.append_nil, h2]
  exact hbmRead_plain rfl a 16

def cipText (m : CipMsg) (hbm : Mem) : List Byte := cipBytes (cipS m hbm) m m.src m.len
def cipKey : List (List Byte) := aesKeys (((Tbl.get? (cipS (cipM true) []).cip.slots 5).map (·.key)).getD [])
/-- The tag the message has. -/
def cipTag : List Byte := gcmTag cipKey (zeros 12) [] (zeros 16)

theorem cipTag_length : cipTag.length = 16 := by
  have h : cipKey = aesKeys (zeros 32) := rfl
  rw [cipTag, gcmTag, h, xorBytes_length, aesEnc_length _ _ (by decide)]
  simp [beBytes]

/-- Memory that holds `bs` for a tag. -/
def tagMem (bs : List Byte) : Mem := memWrite [] 0x300000 bs

theorem tagMem_text (bs : List Byte) : cipBytes (cipS (cipM true) (tagMem bs)) (cipM true) (cipM true).src (cipM true).len = zeros 16 := by
  rw [show (cipM true).src = 0x100000 from rfl, show (cipM true).len = 16 from rfl, cipBytes_hbm _ _ _ (by decide +kernel)]
  have (n a : Nat) (ha : a + n ≤ 0x300000) : memRead (tagMem bs) a n = List.replicate n 0 := by
    induction n generalizing a with
    | zero => rfl
    | succ n ih =>
      rw [memRead, ih _ (by omega), tagMem, memGet_memWrite_out _ (by omega)]
      rfl
  exact this 16 _ (by decide)

theorem tagMem_aad (bs : List Byte) : cipBytes (cipS (cipM true) (tagMem bs)) (cipM true) (cipM true).aad (cipM true).aadlen = [] := rfl

theorem tagMem_tag (bs : List Byte) (h : bs.length = 16) :
    cipBytes (cipS (cipM true) (tagMem bs)) (cipM true) (cipM true).tag 16 = bs := by
  rw [show (cipM true).tag = 0x300000 from rfl, cipBytes_hbm _ _ _ (by decide +kernel), ← h]
  exact memRead_memWrite _ _ (by decide)

/-- The tag in memory is the message's, or is not. -/
theorem witness_CipherMessages_open :
    (∀ bs, cipRuns (cipS (cipM true) (tagMem bs)) (cipM true) = true) ∧
    (let s := cipS (cipM true) (tagMem cipTag);
      cipBytes s (cipM true) (cipM true).tag 16 = gcmTag cipKey (cipM true).iv (cipBytes s (cipM true) (cipM true).aad (cipM true).aadlen)
        (cipBytes s (cipM true) (cipM true).src (cipM true).len)) ∧
    (let s := cipS (cipM true) (tagMem (cipTag.map (· + 1)));
      cipBytes s (cipM true) (cipM true).tag 16 ≠ gcmTag cipKey (cipM true).iv (cipBytes s (cipM true) (cipM true).aad (cipM true).aadlen)
        (cipBytes s (cipM true) (cipM true).src (cipM true).len)) := by
  refine ⟨fun bs => (cipRuns_hbm _ _ []).trans (by decide +kernel), ?_, ?_⟩
  · dsimp only
    rw [tagMem_tag _ cipTag_length, tagMem_text, tagMem_aad]
    rfl
  · dsimp only
    rw [tagMem_tag _ (by rw [List.length_map, cipTag_length]), tagMem_text, tagMem_aad]
    intro h
    have h : cipTag.map (· + 1) = cipTag := h
    have hl := cipTag_length
    revert h hl
    generalize cipTag = l
    intro h hl
    cases l with
    | nil => simp at hl
    | cons x l =>
      simp only [List.map_cons, List.cons.injEq] at h
      have := h.1
      revert this
      generalize (x : BitVec 8) = y
      revert y
      decide

/-- A clip of one patch. -/
def clipImage : List Byte := les 8 0x200000000 ++ les 4 16 ++ [1, 0, 0, 0] ++ les 2 0 ++ les 2 0 ++ les 2 8 ++ les 2 8 ++ les 2 8 ++ les 2 8 ++
  les 4 0 ++ les 2 1 ++ les 2 1 ++ zeros 12 ++ zeros 16
/-- The job with its entry read, `claimed` buffers claimed and the clip as `c`. -/
def clipRun (claimed : Nat) (c : ClipSt) (written : List Nat) : BndRun :=
  { jobRun with mbs := 1, entries := [(0, clipImage)], claimed := claimed, clips := [(0, c)], written := written, job := { jobRun.job with nbuf := 2 } }
def bndS (r : BndRun) (lanes : Tbl Nat) : State := { readyS with bnd := { bndReset with run := some r, lanes := lanes, fsSize := 0x100000 } }

theorem witness_BinderyJob_clip :
    (let r := clipRun 1 .waiting []; let s := bndS r [];
      clocksRun s.dev = true ∧ s.bnd.run = some r ∧ r.stopping = false ∧ s.cxl.track = [] ∧ Tbl.get? s.bnd.lanes ((31 : Fin 32).val) = none ∧
      partActive s (lanePart ((31 : Fin 32).val)) = true ∧ nextClip s r = some 0 ∧
      (clipPlaces s r 0).all (fun x => decide (x.1 < r.claimed)) = true) ∧
    (let r := clipRun 1 .running []; let s := bndS r [(31, 0)];
      Tbl.get? s.bnd.lanes ((31 : Fin 32).val) = some 0 ∧ clipInside s r ((31 : Fin 32).val) (clipPlaces s r 0) = true) := by
  decide +kernel

/-- The stream is readable as far as it is used, however far that is. -/
theorem witness_BinderyJob_stream (es : List Byte) :
    let c := clipOf (entryAt (clipRun 1 .running []) 0);
    devFault (bndS (clipRun 1 .running []) [(31, 0)]) c.es (usedBytes c es) = none := by
  have h : ∀ n, n < 17 → devFault (bndS (clipRun 1 .running []) [(31, 0)]) (clipOf (entryAt (clipRun 1 .running []) 0)).es n = none := by
    decide +kernel
  exact h _ (Nat.lt_succ_of_le (Nat.min_le_left _ _))

theorem witness_BinderyJob_piece :
    (let r := clipRun 1 .done []; let s := bndS r [];
      (piecesOf s r).find? (fun p => p.g == 0) = some ⟨0, 0, 0, 1, 1, 1, 0⟩ ∧ 0 < r.claimed ∧ r.written.contains 0 = false ∧
      pieceReady s r ⟨0, 0, 0, 1, 1, 1, 0⟩ = true ∧ devFault s (bufAt r.job 0) 4096 = none) ∧
    (let r := clipRun 1 .done [0]; let s := bndS r [];
      (piecesOf s r).find? (fun p => p.g == r.handed) = some ⟨0, 0, 0, 1, 1, 1, 0⟩ ∧ r.written.contains 0 = true ∧ r.handed = 0 ∧
      unitHeld s .bindery = false) ∧
    (let r := clipRun 1 .done [0]; { r with handed := 1 }.mbs = r.job.nmb ∧ (piecesOf (bndS r []) r).length = 1 ∧ (bndS r []).bnd.queue = []) := by
  decide +kernel

theorem bytesAt_hbmRead (s : State) (a n : Nat) (h : 4 ≤ n) : natAt (hbmRead s a n) 0 4 = bytesNat (hbmRead s a 4) := by
  obtain ⟨m, rfl⟩ : ∃ m, n = m + 4 := ⟨n - 4, by omega⟩
  simp [natAt, bytesAt, hbmRead]

/-- A header that is read, in a tile that is good. -/
theorem header_read {s : State} {a : Nat} (h : (decide (chunksIn a 4096 = [(a, 4096)]) && accOf s a == .hbm a &&
      decide (a / 4096 * 4096 = a) && (tilePoisoned s a).isNone) = true) (ht : tileOk s a = true) :
    ∃ bs, updRead s a 4096 = .ok bs ∧ natAt bs 0 4 = bytesNat (hbmRead s a 4) := by
  simp only [Bool.and_eq_true, decide_eq_true_eq, beq_iff_eq, Option.isNone_iff_eq_none] at h
  have h1 : tilesOf s a 4096 = [a] := by
    rw [tilesOf, h.1.1.1]
    simp only [List.filterMap_cons, List.filterMap_nil, h.1.1.2, h.1.2]
  have h2 : devRead s a 4096 = hbmRead s a 4096 := by
    rw [devRead, h.1.1.1]
    simp only [List.flatMap_cons, List.flatMap_nil, List.append_nil, h.1.1.2]
  refine ⟨devRead s a 4096, ?_, by rw [h2, bytesAt_hbmRead _ _ _ (by decide)]⟩
  have h0 : updFault s a 4096 = none := by rw [updFault, h1]; simp [h.2, ht]
  rw [updRead, h0]

def filledS : State := tileSeal (devWrite (bndS (clipRun 0 .waiting []) []) 4 0x100000 [7]) 4 0x100000

theorem witness_BinderyJob_poll :
    (∃ bs, updRead filledS 0x100000 4096 = .ok bs ∧ natAt bs 0 4 = 7) ∧
    (∃ bs, updRead (bndS (clipRun 0 .waiting []) []) 0x100000 4096 = .ok bs ∧ natAt bs 0 4 = 0) ∧
    (let r := clipRun 0 .waiting [];
      bufAt r.job ((0 : Fin 16).val) = 0x100000 ∧ filledS.bnd.run = some r ∧ (0 : Fin 16).val < r.job.nbuf ∧
      devFault filledS 0x100000 4096 = none ∧ devFault (bndS r []) 0x100000 4096 = none ∧
      r.claimed % r.job.nbuf = (0 : Fin 16).val ∧ r.claimed < (piecesOf (bndS r []) r).length ∧ r.claimed < r.handed + r.job.nbuf) := by
  have h1 := header_read (s := filledS) (a := 0x100000) (by decide +kernel) (tileOk_tileSeal _ _ _ (by decide))
  have h2 := header_read (s := bndS (clipRun 0 .waiting []) []) (a := 0x100000) (by decide +kernel)
    (Clean.tile (s := bndS (clipRun 0 .waiting []) []) ⟨rfl, rfl, rfl, rfl⟩ 0x100000 (by decide))
  obtain ⟨b1, e1, n1⟩ := h1
  obtain ⟨b2, e2, n2⟩ := h2
  exact ⟨⟨b1, e1, n1.trans (by decide +kernel)⟩, ⟨b2, e2, n2.trans (by decide +kernel)⟩, by decide +kernel⟩

theorem witness_BinderyJob_stop :
    (let r := { clipRun 1 .running [] with stopping := true }; r.stopping = true ∧ (bndS r []).bnd.queue = [] ∧
      (bndS r []).bnd.run = some r) := by decide +kernel

/-! ### Power, clocks, resets and start-up -/

def pwrS (f : Pwr → Pwr) : State := { readyS with pwr := f pwrReset }

theorem witness_PowerEvents :
    (clocksRun readyS.dev = true ∧ 12 * limitPeak readyS < 10 * totalW ⟨2000, 500, 0, 0⟩ ∧ readyS.pwr.gate ≠ .brake ∧
      10 * totalW ⟨2000, 400, 0, 0⟩ ≤ 12 * limitPeak readyS) ∧
    ((pwrS fun p => { p with brake := true }).pwr.brake = true ∧ (pwrS fun p => { p with unmet := true }).pwr.unmet = true) ∧
    (let s := pwrS fun p => { p with mean := 1981 };
      s.pwr.brake = false ∧ s.pwr.unmet = false ∧ (limitW s : Int) - 20 < s.pwr.mean ∧ s.pwr.cfg.point ≠ 0) ∧
    (∀ m ∈ [1850, 1980], (let s := pwrS fun p => { p with mean := m, temp := 94 };
      s.pwr.brake = false ∧ s.pwr.unmet = false ∧ s.pwr.temp < 95 ∧ (s.pwr.mean : Int) ≤ (limitW s : Int) - 20 ∧
      (limitW s : Int) - 150 ≤ s.pwr.mean)) ∧
    (pwrS fun p => { p with gate := .duty, debt := 3 }).pwr.gate = .duty ∧ readyS.pwr.brake = false ∧
    (let s := pwrS fun p => { p with brake := true, before := some (pwrConfigReset, []) };
      s.pwr.brake = true ∧ s.pwr.before = some (pwrConfigReset, []) ∧ s.pwr.unmet = false ∧ s.devReset = false) := by decide +kernel

/-- A trim can be undone; the brake's floor is reached from the configuration after reset, and from one all taken. -/
theorem witness_PowerEvents_trims :
    (let s := pwrS fun p => { p with mean := 1849, trims := [2], cfg := { pwrConfigReset with half := true } };
      s.pwr.brake = false ∧ s.pwr.unmet = false ∧ s.devReset = false ∧ s.pwr.temp < 95 ∧ s.pwr.hot = false ∧
        (s.pwr.mean : Int) < (limitW s : Int) - 150 ∧ s.pwr.trims = [2]) ∧
    (∀ c ∈ [pwrConfigReset, ⟨0, 1, 16, true, true⟩], let s := pwrS fun p => { p with cfg := c };
      s.devReset = false ∧ orderOk s.pwr.order = true ∧ s.pwr.cfg.point ≤ 7 ∧ 1 ≤ s.pwr.cfg.duty ∧ s.pwr.cfg.duty ≤ 16 ∧
        ∃ n, n < 16 ∧ s.pwr.cfg.scale = 16 * (n + 1)) := by decide +kernel

theorem witness_ClockStops :
    (∀ d ∈ [DevState.ready, .booting], clocksRun d = true) ∧ pstateOf readyS ((7 : Fin 15).val) = .active ∧ (7 : Fin 15).val < 8 ∧
    8 ≤ (8 : Fin 15).val ∧ (13 : Fin 15).val < 14 := by decide +kernel

theorem witness_AlwaysOnDomain :
    ({ State.reset with dev := .off }).dev = .off ∧ readyS.dev ≠ .off ∧
    (let s := { standbyS with pwr := { pwrReset with aonStat := 0x80000000, wakeLo := 6, tick := 6 } };
      s.dev = .standby ∧ bitAt s.pwr.aonStat 31 = true ∧ s.pwr.wakeHi.toNat * 2 ^ 32 + s.pwr.wakeLo.toNat ≤ s.pwr.tick.toNat ∧
      s.devReset = false ∧ s.pwr.refclk = true) ∧ goodLevels.coolant = true ∧ goodLevels.rails = 0x3FFF#14 ∧
    goodLevels.junction < 105 := by decide +kernel

/-- Partition 3 is IDLE and to be activated. -/
def activateS : State := setPstate (pendS readyS (req 0x0A02 [3] []) (.partition 3) 0) 3 .idle
/-- Its far records are both spoiled. -/
def spoiltS : State :=
  { activateS with far := { (farS .none false).far with recSeq := [(3, 1)] }, hbm := [(0x6220000000, 1), (0x6220001000, 1)] }

theorem witness_FencesAndPartitions :
    (let s := { readyS with rst := { readyS.rst with req := [(5, 3)] } };
      clocksRun s.dev = true ∧ s.rst.mpDown = false ∧ partActive s ((5 : Fin 8).val) = true ∧
      s.rst.req.find? (fun q => q.1 == (5 : Fin 8).val) = some (5, 3)) ∧
    (pstateOf (setPstate readyS 5 .fencing) ((5 : Fin 8).val) = .fencing ∧ readyS.rst.warm = false) ∧
    (pstateOf (setPstate readyS 5 .resetting) ((5 : Fin 8).val) = .resetting ∧ readyS.rst.warm = false) ∧
    (clocksRun activateS.dev = true ∧ activateS.rst.mpDown = false ∧ pstateOf activateS ((3 : Fin 8).val) = .idle ∧
      activateS.jante.pend.any (fun x => pendOp 0x0A02 x && x.obj == .partition (3 : Fin 8).val) = true ∧
      badRecord activateS ((3 : Fin 8).val) = none) ∧
    (pstateOf spoiltS ((3 : Fin 8).val) = .idle ∧ badRecord spoiltS ((3 : Fin 8).val) = some 0x6220000000) := by decide +kernel

theorem witness_DeviceReset :
    (clocksRun readyS.dev = true ∧ readyS.devReset = false) ∧
    (let s := { readyS with devReset := true }; s.devReset = true ∧ s.dev ≠ .off ∧ s.dev ≠ .standby ∧ s.pwr.refclk = true) ∧
    (goodLevels.junction < 95 ∧ ({ goodLevels with coolant := false }).coolant = false) ∧
    (let s := setLevels { readyS with rst := { readyS.rst with warm := true } } goodLevels;
      s.rst.warm = true ∧ s.devReset = false ∧ s.dev ≠ .off ∧ s.dev ≠ .standby ∧ levelsOk s = true ∧ s.pwr.refclk = true ∧
      s.pwr.thermtrip = false ∧ s.pwr.temp < 105 ∧ s.rst.windows = false ∧ clocksRun s.dev = true ∧ (∃ p, p < 8 ∧ partActive s p = true)) := by
  decide +kernel

/-- The windows of a warm reset run, one still open. -/
theorem witness_DeviceReset_windows :
    let s := setPstate (setLevels { readyS with rst := { readyS.rst with warm := true, windows := true } } goodLevels) 7 .fencing;
    s.rst.warm = true ∧ s.rst.windows = true ∧ clocksRun s.dev = true ∧ levelsOk s = true ∧
      ∀ q, q < 8 → q ≠ (7 : Fin 8).val → pstateOf s q ≠ .fencing := by decide +kernel

/-- An image that verifies does so under a key the part alone holds, so what asks for one has no closed witness. -/
theorem witness_Watchdogs :
    (let s := { readyS with sec := { secReset with shown := true } };
      clocksRun s.dev = true ∧ s.sec.shown = true ∧ s.rst.mpDown = false) ∧
    (let s := { readyS with sec := { secReset with shown := true, slot := true }, rst := { readyS.rst with mpDown := true } };
      s.sec.shown = true ∧ s.rst.mpDown = true ∧ slotGood s s.sec.slot = false) ∧
    (let s := { readyS with jante := { janteReset with exam := some (req 0x0101 [] []), pend := [⟨wakeReq, .none, 0⟩], rung := [15] } };
      s.jante.exam.any (fun r => r.src == (0 : Fin 16).val) = true ∧ s.jante.rung.contains ((15 : Fin 16).val) = true ∧
        s.jante.pend.any (fun x => x.req.src == 16) = true) ∧
    (jobS.bnd.run.isSome = true ∧ jobS.bnd.queue = []) ∧
    (bench readyS wakeReq).jante.exam = some wakeReq ∧ wakeReq.src = 16 := by decide +kernel

def bootS (f : Sec → Sec) : State := { State.reset with dev := .booting, sec := f secReset }

/-- The record of production survives under the part's key, and is too old once the counter has moved. -/
theorem witness_StartStages_record :
    recordSurvives (bootS fun x => { x with stage := 2, flashKey := partFlashKey }) = true ∧
    recordSurvives (bootS fun x => { x with stage := 2, counter := 1 }) = false := by
  constructor
  · simp [recordSurvives, recordHeld, sealRecord, rpTag, bootS, secReset]
  · simp [recordSurvives, recordHeld, sealRecord, bootS, secReset]

/-- The keys a certificate carries are the part's, or are not; and a static part that cannot be read is not good. -/
theorem witness_StartStages_keys :
    (let s := bootS fun x => { x with stage := 3, idKey := certIdKey, kaKey := certKaKey };
      s.sec.idKey = certIdKey ∧ s.sec.kaKey = certKaKey) ∧
    ∃ s : State, s.sec.stage = 3 ∧ s.sec.kaKey ≠ certKaKey :=
  ⟨⟨rfl, rfl⟩, bootS fun x => { x with stage := 3, kaKey := 0 :: certKaKey }, rfl, fun h => by
    have := congrArg List.length h; simp [bootS] at this⟩

theorem witness_StartStages :
    (natAt (slotImage (bootS fun x => { x with floor := 1 }) true) 12 4 < (bootS fun x => { x with floor := 1 }).sec.floor) ∧
    (∀ k ∈ [1, 2, 3, 4, 5, 6, 7], (bootS fun x => { x with stage := k }).sec.stage = k ∧ (bootS fun x => { x with stage := k }).dev = .booting) ∧
    (let s := bootS fun x => { x with stage := 2, next := true, img0 := some [] };
      slotGood s s.sec.next = false ∧ slotGood s (!s.sec.next) = false ∧
      slotState (bootS fun x => { x with slot0 := .invalid, next := true }) (!true) ≠ .valid) ∧
    (let s := bootS fun x => { x with stage := 5 }; s.sec.warm = false) ∧ (bootS id).links = [] := by decide +kernel

/-- A change of state that each list of `deviceMoves` allows. -/
theorem test_deviceMoves : deviceMoves .streamStart .ready .running ∧ ¬deviceMoves .streamStart .halted .running := by
  constructor
  · simp [deviceMoves]
  · simp [deviceMoves]

/-! ### The host -/

def hostS (f : Cxl → Cxl) : State := { readyS with cxl := f { cxlReset with up := true } }
def lineOf (line : Nat) (snooped inv : Bool) : TrackLine := ⟨line, true, snooped, inv⟩

theorem witness_HostMemoryAccesses :
    portLive (hostS id) = true ∧
    (hostStop (hostS id) 0x1FFFFFFFFFF 1 = some herrUr ∧ hostStop (setPstate (hostS id) 7 .fencing) 0xFFFFFFFFC0 64 = some herrCa) ∧
    (let s := hostS fun c => { c with track := [lineOf 4 false false] };
      hostStop s 0x100 64 = none ∧ trackedDev s 0x100 64 false ≠ [] ∧ trackedDev s 0x100 64 true ≠ [] ∧
      hostBehind s ⟨false, 0x100, 64, none⟩ = false) ∧
    (let s := hostS fun c => { c with waitHost := [⟨false, 0x1C0, 8, some []⟩] };
      hostStop s 0x100 64 = none ∧ hostBehind s ⟨true, 0x100, 64, none⟩ = true ∧ hostBehind s ⟨true, 0x200, 64, none⟩ = false) ∧
    (let s := { hostS id with hbmPoison := [8] };
      hostStop s 0x100 64 = none ∧ hostBehind s ⟨false, 0x100, 64, none⟩ = false ∧ trackedDev s 0x100 64 false = [] ∧
      devPoisoned s 0x100 64 = some 0x100) ∧
    (let s := hostS id;
      hostBehind s ⟨false, 0, 64, none⟩ = false ∧ hostBehind s ⟨true, 0, 64, some []⟩ = false ∧ hostStop s 0 64 = none ∧ trackedDev s 0 64 false = [] ∧ devPoisoned s 0 64 = none ∧ trackedDev s 0 64 true = []) := by
  decide +kernel

/-- A write to a line the host holds waits for it and is stored when the host gives it up; the read behind it then finds it. -/
theorem test_host_write_waits :
    let s := hostS fun c => { c with track := [lineOf 4 false false] };
    let t := bar2Read (bar2Write s 0x100 [7#8]) 0x100 1;
    let u := birsp t 4 none;
    t.out = [.bisnp 4 true] ∧ t.cxl.waitHost.length = 2 ∧ u.out = [.hostData [7#8], .bisnp 4 true] ∧ u.cxl.waitHost = [] ∧
      u.cxl.track = [] := by decide +kernel

theorem witness_HostWriteReadsBack :
    portLive (hostS id) = true ∧ Memory.wf (hostS id).hbm = true ∧ (hostS id).cxl.track = [] ∧ (hostS id).cxl.waitHost = [] ∧
    (∀ p, (tipOf (hostS id) p).lines = [] ∧ (tipOf (hostS id) p).waiting = []) ∧ 4095 % 4096 + ([1] : List Byte).length ≤ 4096 ∧ accOf (hostS id) 4095 = .hbm 4095 := by
  refine ⟨by decide +kernel, by decide +kernel, rfl, rfl, fun p => ?_, by decide +kernel, by decide +kernel⟩
  simp [tipOf, memOf, hostS, readyS, State.reset, Tbl.get, memSideReset, tipReset]

theorem witness_HostLines :
    (portLive (hostS id) = true ∧ hostStop (hostS id) (64 * 5) 64 = none ∧ (hostS id).cxl.track.length < trackerSize) ∧
    (let s := hostS fun c => { c with track := [lineOf 4 true true] };
      s.cxl.track.find? (fun l => l.line == 4 && l.snooped) = some (lineOf 4 true true) ∧
      s.cxl.track.any (fun l => l.line == 4) = true) ∧
    (let s := hostS fun c => { c with track := [lineOf 4 true false] };
      s.cxl.track.find? (fun l => l.line == 4 && l.snooped) = some (lineOf 4 true false)) ∧
    (let s := hostS fun c => { c with late := [4] }; s.cxl.track.any (fun l => l.line == 4) = false ∧ s.cxl.late.contains 4 = true) ∧
    (2 ^ 34 - 1 < 2 ^ 34 ∧ hostStop (hostS id) (64 * (2 ^ 34 - 1)) 64 = none ∧ sheetOffset ≤ 64 * (2 ^ 34 - 1) % hbmWindow) := by
  decide +kernel

/-- A tracker with no room left. -/
theorem witness_HostLines_full :
    let s := hostS fun c => { c with track := List.replicate trackerSize (lineOf 4 false false) };
    portLive s = true ∧ hostStop s (64 * 5) 64 = none ∧ ¬(s.cxl.track.any (fun l => l.line == 5) = true) ∧
      trackerSize ≤ s.cxl.track.length := by
  refine ⟨rfl, by decide +kernel, ?_, ?_⟩
  · simp [hostS, lineOf]
  · simp [hostS]

def slowReq (u : SlowUser) : D2h := ⟨9, false, 0, 64, u, 0, 0, 0⟩
def d2hS (u : SlowUser) : State := hostS fun c => { c with d2h := [slowReq u] }

theorem witness_CxlPort :
    (let s := setPstate (d2hS (.mover 0 0)) 0 .fencing;
      s.cxl.d2h.find? (fun r => r.id == 9) = some (slowReq (.mover 0 0)) ∧ (userPart (.mover 0 0)).any (fun p => !partActive s p) = true) ∧
    (∀ u ∈ [SlowUser.mover 0 0, .park 0 1, .expander 0 1, .cipher], (d2hS u).cxl.d2h.find? (fun r => r.id == 9) = some (slowReq u) ∧
      (userPart u).any (fun p => !partActive (d2hS u) p) = false) ∧
    ((hostS id).cxl.up = true ∧ (hostS id).cxl.d2h = [] ∧ (List.range 64).all (fun k => (setOf (hostS id) k).run.isNone) = true) ∧
    (({ hostS id with dev := .halted } : State).cxl.up = true ∧ clocksRun .halted = false) ∧
    (hostS id).dev ≠ .off ∧ (hostS id).dev ≠ .standby ∧ portLive (d2hS .cipher) = true := by decide +kernel

theorem witness_Bar0Accesses :
    bar0Up (hostS id) = true ∧ targetOff (.reg .calImgLo) % 8 = 0 ∧ (5 ≠ 4 ∧ 5 ≠ 8) ∧ 0x1F000C % 4 = 0 ∧
    bitAt (mailboxOf (hostS id) ((15 : Fin 16).val)).status 31 = false ∧
    bitAt (mailboxOf (setMailbox (hostS id) 15 { mailboxReset with status := 0x80000000 }) ((15 : Fin 16).val)).status 31 = true ∧
    (31 < 32 ∧ bitAt (hostS fun c => { c with pba := 0x80000000 }).cxl.pba 31 = true) := by decide +kernel

/-- An SPDM request waits at a connection that stands at `st`. -/
def spdmS (st : SpdmSt) (bs : List Byte) : State :=
  { hostS id with sec := { secReset with shown := true, spdm := st, doe := some bs } }
def spdmB (code n : Nat) : List Byte := [0x12, BitVec.ofNat 8 code] ++ zeros (n - 2)

theorem natBytes_length (n v : Nat) : (natBytes n v).length = n := by
  induction n generalizing v with
  | zero => rfl
  | succ n ih => rw [natBytes, List.length_cons, ih]

theorem witness_DataObjects :
    ((hostS id).cxl.up = true ∧ (hostS id).sec.doe = none) ∧ 16384 < (doeObject 1 (List.replicate 16384 0)).length ∧
    (doeObject 0 [1]).length ≤ 16384 ∧ ((doeObject 1 (spdmB 0x81 4)).length ≤ 16384 ∧ 4 ≤ (spdmB 0x81 4).length ∧
      spdmSupported (spdmB 0x81 4) = true) ∧
    (spdmS .start [0]).sec.doe = some [0] := by
  refine ⟨by decide +kernel, ?_, by decide +kernel, by decide +kernel, rfl⟩
  rw [doeObject]
  rw [List.length_append]
  simp only [List.length_append, natBytes_length, List.length_replicate]
  decide

/-- A request of code `c` at its place in the connection passes; at START it is misplaced. -/
def spdmOk (c least : Nat) (at_ : SpdmSt) (bs : List Byte) : Bool :=
  heldSpdm (spdmS at_ bs) c == some bs && (spdmRefusal (spdmS at_ bs) bs at_ least).isNone && heldSpdm (spdmS .start bs) c == some bs &&
    natAt bs 0 1 == 0x12 && (spdmS .start bs).sec.spdm != at_

def capB : List Byte := spdmB 0xE1 12 ++ les 4 42 ++ zeros 4
def algB : List Byte := spdmB 0xE3 4 ++ les 2 32 ++ zeros 2 ++ les 4 16 ++ les 4 1 ++ zeros 16
def measB : List Byte := [0x12, 0xE0, 1, 0xFF] ++ zeros 33

theorem witness_Attestation :
    (heldSpdm (spdmS .negotiated ([0x10, 0x84] ++ zeros 2)) 0x84 = some ([0x10, 0x84] ++ zeros 2)) ∧
    (spdmOk 0xE1 20 .versioned capB = true ∧ 42 ≤ natAt capB 12 4) ∧
    (spdmOk 0xE3 32 .capable algB = true ∧ 32 ≤ natAt algB 4 2 ∧ natAt algB 4 2 ≤ algB.length ∧ natAt algB 8 4 / 16 % 2 = 1 ∧
      natAt algB 12 4 % 2 = 1) ∧
    spdmOk 0x81 4 .negotiated (spdmB 0x81 4) = true ∧ (spdmOk 0x82 8 .negotiated (spdmB 0x82 8) = true ∧ natAt (spdmB 0x82 8) 2 1 % 16 = 0) ∧
    (spdmOk 0x83 36 .negotiated (spdmB 0x83 36) = true ∧ natAt (spdmB 0x83 36) 2 1 = 0 ∧ natAt (spdmB 0x83 36) 3 1 = 0) ∧
    (spdmOk 0xE0 37 .negotiated measB = true ∧ natAt measB 2 1 % 2 = 1 ∧ natAt measB 3 1 = 0xFF ∧ natAt measB 36 1 % 16 = 0) ∧
    (spdmOk 0xE0 4 .negotiated (spdmB 0xE0 4) = true ∧ natAt (spdmB 0xE0 4) 3 1 ≤ 6) ∧
    (∀ n ∈ [1, 7], spdmOk 0x82 8 .negotiated ([0x12, 0x82, BitVec.ofNat 8 n] ++ zeros 5) = true ∧
      spdmOk 0x83 36 .negotiated ([0x12, 0x83, BitVec.ofNat 8 n] ++ zeros 33) = true) ∧
    natAt (spdmB 0x82 8) 4 2 = 0 := by decide +kernel

/-- The chain is not empty, whatever its certificates. -/
theorem witness_Attestation_chain : 0 < certChain.length := by
  simp only [certChain, List.length_append, natBytes_length]
  omega

theorem witness_TestAccessPort :
    readyS.dev ≠ .off ∧ ∀ ir ∈ [2, 3, 4], ({ readyS with devReset := true, sec := { secReset with tapIr := ir } } : State).sec.tapIr = ir := by
  decide +kernel

theorem witness_PpsEdge : regsUp readyS = true := by decide +kernel

theorem witness_DeviceTransitions : ∃ t, exec .coolantLoss readyS = .next t ∧ t.dev = .halted ∧ readyS.dev = .ready := ⟨_, rfl, rfl, rfl⟩

/-! ### Values the spec works out -/

def q (neg : Bool) (num den : Nat) : Val := .fin neg num den

/-- "Worked example: one G4 block" (spec/02_number_formats.md). -/
theorem test_g4Block :
    let o := blockEncode ⟨.g4, .rne, false, 0, false, false⟩ (fun _ => 0)
      ([q false 31 10, q true 74 100, q false 113 10, q false 2 10] ++ List.replicate 28 valZero)
    (packCodes 4 (o.codes.map (·.1))).take 3 = [0x93, 0x06, 0x00] ∧ o.scale = 0x80 ∧ o.lift = 0x17 ∧
      (o.codes.filter (fun c => c.2 == .flushed)).length = 1 := by decide +kernel

theorem test_g4Reads :
    let bs : List Byte := [0x93, 0x06] ++ zeros 14
    blockValue .g4 bs 0x80 0x17 0 = q false 3 1 ∧ blockValue .g4 bs 0x80 0x17 1 = q true 1 1 ∧
      blockValue .g4 bs 0x80 0x17 2 = q false 23 2 ∧ valIsZero (blockValue .g4 bs 0x80 0x17 3) = true := by decide +kernel

/-- "Worked example: SR into BF16" (spec/02_number_formats.md). -/
theorem test_srBf16 :
    (fltEncode fltBf16 .sr false 0x5A3C (fp32Val 0x3F808000)).1 = 0x3F80 ∧ (fltEncode fltBf16 .sr false 0xA100 (fp32Val 0x3F808000)).1 = 0x3F81 ∧
    (fltEncode fltBf16 .rne false 0 (fp32Val 0x3F808000)).1 = 0x3F80 ∧ (fltEncode fltBf16 .rtz false 0 (fp32Val 0x3F808000)).1 = 0x3F80 := by
  decide +kernel

/-- "Worked example: FP32 into F19" (spec/02_number_formats.md). -/
theorem test_f19 :
    (fltEncode fltF19 .rtz true 0 (fp32Val 0x3FAAF000)).1 = 0x1FD57 ∧ (fltEncode fltF19 .rne true 0 (fp32Val 0x3FAAF000)).1 = 0x1FD58 := by
  decide +kernel

/-- "Worked example: one group rounded once" (spec/03_matrix_arrays.md). -/
theorem test_groupOnce :
    let w (_ : Nat) : Val × Val := (fltDecode fltE4m3 0x38, valOne)
    let a (k : Nat) : Val × Val := (fltDecode fltE4m3 (if k < 2 then 0x30 else 0x28), valOne)
    fp32Of (runAdd (fp32Val 0x4B800000) (groupSum w a 0 4)) = 0x4B800001 := by decide +kernel

/-- The example of one first-moment and one second-moment block (spec/10_training_state_update.md). -/
theorem test_moments :
    (let o := momentBlock false false (fun _ => 0) ([q false 3 4, q false 1 10, q true 9 10000] ++ List.replicate 125 valZero);
      o.1 = 0x3F40 ∧ o.2.1.take 3 = [0x7E, 0x67, 0xB1]) ∧
    (let o := momentBlock true false (fun _ => 0) ([q false 5 100, q false 2 100] ++ List.replicate 126 valZero);
      o.1 = 0x3D4D ∧ o.2.1.take 2 = [0xFF, 0xE9]) := by decide +kernel

/-- The values of "Worked example: one TOPK block" (spec/12_compression.md), in units of 1/512. -/
def topkVals : List Val :=
  (List.range 256).map (fun i => if i = 3 then q false 37 512 else if i = 17 then q true 21 512 else if i = 90 then q false 3 512
    else if i = 100 then q false 5 512 else if i = 201 then q true 33 512 else valZero)
def topkBlock : List Byte := [0x03, 0x11, 0x64, 0xC9, 0x7E, 0xF8, 0x67, 0xFC, 0x2A, 0x39]

theorem test_topk : lossyBlock (.topk 4) topkVals = topkBlock := by decide +kernel

theorem test_topkResiduals :
    let es := (lossyExpand (.topk 4) topkBlock).getD []
    [3, 17, 100, 201, 90].map (fun i => bf16OfIeee (valSub (topkVals.getD i valZero) (es.getD i valZero))) =
      [0xB9C0, 0x3A00, 0x3820, 0xBB10, 0x3BC0] := by decide +kernel

/-- The nonce of "Worked example: a rekey that meets a re-send and a late frame" (spec/14_cipher_engine.md). -/
theorem test_nonce : frameIv (headerOf 2 4 8 90415 0 (bareFrame typeHello)) = [2, 0, 8, 0] ++ natBytes 8 90415 := by decide +kernel

end Sys2Proof.Tests
end

section
namespace Sys2Proof.Machine

/-!
PROOFS. Every operation of the block leaves the queue of commands and the set of absent engines alone and keeps the
invariant. `Keeps s t` says so of two states; one lemma per operation carries it through that operation, in the order of
the model's text, and `Keeps.exec` assembles them over the commands.

In each lemma `s₀` is the state the step began in and `h` says what has been kept on the way to `s`. An operation that
writes nothing the relation speaks of closes by `h.core rfl`; HBM changes by its `HbmChange`
lemma, SRAM by `sramWrite_wf`, and a token count by `Keeps.setTok`, whose bound each caller shows.
-/

/-- From `s` to `t` the queue and the set of absent engines stay, and the invariant, where `s` meets it, still holds. -/
structure Keeps (s t : State) : Prop where
  pending : t.pending = s.pending
  absent : t.absent = s.absent
  inv : Inv s → Inv t

namespace Keeps
section
variable {s₀ s t : State}

theorem refl (s : State) : Keeps s s := ⟨rfl, rfl, id⟩

/-- Two states that agree in all that the relation speaks of. -/
theorem core (h : Keeps s₀ s) (e : (t.pending, t.absent, t.hbm, t.sram, t.tok.counts, t.tok.fcounts) =
    (s.pending, s.absent, s.hbm, s.sram, s.tok.counts, s.tok.fcounts)) : Keeps s₀ t := by
  simp only [Prod.mk.injEq] at e
  obtain ⟨h1, h2, h3, h4, h5, h6⟩ := e
  refine ⟨h1.trans h.pending, h2.trans h.absent, fun hi => ?_⟩
  have k : Inv s := h.inv hi
  exact ⟨h3 ▸ k.hbm, h4 ▸ k.sram, h5 ▸ k.counts, h6 ▸ k.fcounts⟩

/-- `core` for a record update of `s`: stated over the fields, so that the state's other fields need no comparison. -/
theorem update
    {dev : DevState} {pstates : Tbl PState} {engines : Tbl Engine} {movers : Tbl Mover} {mem : Tbl MemSide}
    {gil setErr : W32} {gilLoose devReset perst : Bool} {sheet : Tbl W32}
    {hbmPoison sramPoison sramFlips cmpLoading : List Nat} {tabA tabB : Tables} {cal : Caller} {tok : Tokens}
    {rpr : Reprise} {fill : Fill} {bus : List BusAct} {spanlds : List SpanLoad} {cmp : Tbl Cmp} {links : Tbl Link}
    {sets : Tbl SetSt} {upd kept : Tbl Upd} {far : Far} {cip : Cip} {bnd : Bnd} {folio : Folio} {sec : Sec}
    {cxl : Cxl} {rst : Rst} {pwr : Pwr} {jante : Jante} {freeCtr : Nat} {out : List Out}
    (h : Keeps s₀ s) (ht : (tok.counts, tok.fcounts) = (s.tok.counts, s.tok.fcounts)) :
    Keeps s₀ ⟨
      s.pending, dev, s.absent, pstates, engines, movers, mem, gil, gilLoose, s.hbm, s.sram, sheet, hbmPoison, sramPoison,
      sramFlips, tabA, tabB, cal, tok, rpr, fill, bus, spanlds, cmp, cmpLoading, links, sets, setErr, upd, kept, far, cip, bnd,
      folio, sec, cxl, rst, pwr, jante, devReset, perst, freeCtr, out⟩ := by
  obtain ⟨hc, hf⟩ := Prod.mk.inj ht
  exact h.core (by rw [hc, hf])

theorem trans {u : State} (h : Keeps s t) (k : Keeps t u) : Keeps s u :=
  ⟨k.pending.trans h.pending, k.absent.trans h.absent, fun hi => k.inv (h.inv hi)⟩

theorem hbmChange (h : Keeps s₀ s) (k : HbmChange s t) : Keeps s₀ t := by
  obtain ⟨_, _, _, _, _, _, _, w, rfl⟩ := k
  exact h.trans ⟨rfl, rfl, fun hi => ⟨w hi.hbm, hi.sram, hi.counts, hi.fcounts⟩⟩

/-- A state taken out of a pair by a match. -/
theorem ofPair {β : Type} {x : State × β} {b : β} (h : Keeps s₀ x.1) (e : x = (t, b)) : Keeps s₀ t := by
  subst e
  exact h

theorem ite {c : Prop} [Decidable c] (hs : Keeps s₀ s) (ht : Keeps s₀ t) : Keeps s₀ (if c then s else t) := by
  split <;> assumption

/-- `ite` under a projection to the state. -/
theorem iteProj {α : Type} {p : α → State} {c : Prop} [Decidable c] {x y : α} (hs : Keeps s₀ (p x))
    (ht : Keeps s₀ (p y)) : Keeps s₀ (p (if c then x else y)) := by
  split <;> assumption

/-- A fold whose accumulator holds the state at `p`. -/
theorem foldlProj {α β : Type} {p : β → State} {f : β → α → β} {l : List α} {b : β} (h : Keeps s₀ (p b))
    (step : ∀ b x, Keeps s₀ (p b) → Keeps s₀ (p (f b x))) : Keeps s₀ (p (l.foldl f b)) := by
  induction l generalizing b with
  | nil => exact h
  | cons x l ih => exact ih (step b x h)

theorem foldl {α : Type} {f : State → α → State} {l : List α} (h : Keeps s₀ s)
    (step : ∀ s x, Keeps s₀ s → Keeps s₀ (f s x)) : Keeps s₀ (l.foldl f s) := foldlProj (p := id) h step
end
end Keeps

/-- Where `x` answers a value, the state `p` finds in it keeps. -/
def KeepsOk {ε α : Type} (s₀ : State) (p : α → State) (x : Except ε α) : Prop :=
  ∀ ⦃a⦄, x = .ok a → Keeps s₀ (p a)

namespace KeepsOk
variable {ε α β : Type} {s₀ : State} {p : α → State} {q : β → State}

theorem error {e : ε} : KeepsOk s₀ p (.error e : Except ε α) := fun _ h => nomatch h

theorem ok {a : α} (h : Keeps s₀ (p a)) : KeepsOk s₀ p (.ok a : Except ε α) := fun _ e => Except.ok.inj e ▸ h

theorem bind {x : Except ε α} {f : α → Except ε β} (hx : KeepsOk s₀ p x)
    (hf : ∀ a, Keeps s₀ (p a) → KeepsOk s₀ q (f a)) :
    KeepsOk s₀ q (x >>= f) := by
  cases x with
  | error e => exact .error
  | ok a => exact hf a (hx rfl)

theorem ite {c : Prop} [Decidable c] {x y : Except ε α} (hx : KeepsOk s₀ p x) (hy : KeepsOk s₀ p y) :
    KeepsOk s₀ p (if c then x else y) := by
  split <;> assumption

theorem foldlM {f : α → β → Except ε α} {l : List β} {a : α} (h : Keeps s₀ (p a))
    (step : ∀ a x, Keeps s₀ (p a) → KeepsOk s₀ p (f a x)) : KeepsOk s₀ p (l.foldlM f a) := by
  induction l generalizing a with
  | nil => exact .ok h
  | cons x l ih => exact .bind (step a x h) fun _ h => ih h
end KeepsOk

/-- Where `o` answers a next state, that state keeps. -/
def KeepsNext (s₀ : State) (o : Host.Outcome State Fault Refusal) : Prop := ∀ ⦃t⦄, o = .next t → Keeps s₀ t

theorem KeepsNext.next {s₀ t : State} (h : Keeps s₀ t) : KeepsNext s₀ (.next t) :=
  fun _ e => Host.Outcome.next.inj e ▸ h

namespace Keeps
section
variable {s₀ s t : State}

/-! ### The operations of `Machine/Ops` -/

theorem setEngine {e : Nat} {x : Engine} (h : Keeps s₀ s) : Keeps s₀ (setEngine s e x) :=
  h.core rfl

theorem setMover {c m : Nat} {x : Mover} (h : Keeps s₀ s) : Keeps s₀ (setMover s c m x) :=
  h.core rfl

theorem setMem {p : Nat} {x : MemSide} (h : Keeps s₀ s) : Keeps s₀ (setMem s p x) :=
  h.core rfl

theorem setPstate {p : Nat} {v : PState} (h : Keeps s₀ s) : Keeps s₀ (setPstate s p v) :=
  h.core rfl

theorem raiseVector {v : Nat} (h : Keeps s₀ s) : Keeps s₀ (raiseVector s v) :=
  h.hbmChange (raiseVector_hbmChange _ _)

theorem requestFence {p cause : Nat} (h : Keeps s₀ s) : Keeps s₀ (requestFence s p cause) :=
  h.hbmChange (requestFence_hbmChange _ _ _)

theorem memError {p bit addr : Nat} {inSram : Bool} (h : Keeps s₀ s) : Keeps s₀ (memError s p bit addr inSram) :=
  h.hbmChange (memError_hbmChange _ _ _ _ _)

theorem sramWrite {a : Nat} {bs : List Byte} (h : Keeps s₀ s) : Keeps s₀ (sramWrite s a bs) :=
  h.trans ⟨rfl, rfl, fun hi => ⟨hi.hbm, sramWrite_wf a bs hi.sram, hi.counts, hi.fcounts⟩⟩

theorem sramCorrected {a n : Nat} (h : Keeps s₀ s) : Keeps s₀ (sramCorrected s a n) := by
  unfold Machine.sramCorrected
  extract_lets
  exact .ite h (h.core rfl)

theorem updTip {p : Nat} {f : Tip → Tip} (h : Keeps s₀ s) : Keeps s₀ (updTip s p f) :=
  h.hbmChange (updTip_hbmChange _ _ _)

theorem meterHbm {by_ : Option Poster} {cls : Nat} {write : Bool} {a n : Nat} (h : Keeps s₀ s) :
    Keeps s₀ (meterHbm s by_ cls write a n) :=
  h.hbmChange (meterHbm_hbmChange _ _ _ _ _ _)

theorem meterRead {by_ : Option Poster} {cls a n : Nat} (h : Keeps s₀ s) : Keeps s₀ (meterRead s by_ cls a n) := by
  unfold Machine.meterRead
  refine h.foldl (fun _ _ h => ?_)
  split
  · exact h.meterHbm
  · exact h.meterHbm
  · exact h

theorem meterVerify {by_ : Option Poster} {cls a n : Nat} (h : Keeps s₀ s) :
    Keeps s₀ (meterVerify s by_ cls a n) := by
  unfold Machine.meterVerify
  extract_lets
  refine .ite h (h.meterRead.foldl (fun _ _ h => ?_))
  split
  · exact h.meterHbm
  · exact h.meterHbm
  · exact h

theorem tileSeal {cls a : Nat} (h : Keeps s₀ s) : Keeps s₀ (tileSeal s cls a) :=
  .meterHbm (h.core rfl)

theorem sealAll {cls : Nat} {ts : List Nat} (h : Keeps s₀ s) : Keeps s₀ (sealAll s cls ts) :=
  h.foldl (fun _ _ h => h.tileSeal)

theorem apart {cls : Nat} {f : State → State} (h : Keeps s₀ s) (hf : ∀ t, Keeps s₀ t → Keeps s₀ (f t)) :
    Keeps s₀ (apart s cls f) :=
  .update (hf _ (h.core rfl)) rfl

theorem tipFlush {line : Nat} (h : Keeps s₀ s) : Keeps s₀ (tipFlush s line) :=
  h.hbmChange (tipFlush_hbmChange _ _)

theorem writeNow {cls a : Nat} {bs : List Byte} (h : Keeps s₀ s) : Keeps s₀ (writeNow s cls a bs) :=
  h.hbmChange (writeNow_hbmChange _ _ _ _)

theorem hbmWrite {cls a : Nat} {bs : List Byte} (h : Keeps s₀ s) : Keeps s₀ (hbmWrite s cls a bs) :=
  h.hbmChange (hbmWrite_hbmChange _ _ _ _)

theorem devWrite {cls a : Nat} {bs : List Byte} (h : Keeps s₀ s) : Keeps s₀ (devWrite s cls a bs) :=
  h.hbmChange (devWrite_hbmChange _ _ _ _)

theorem sendSnoops {ls : List TrackLine} {inv : Bool} (h : Keeps s₀ s) : Keeps s₀ (sendSnoops s ls inv) := by
  unfold Machine.sendSnoops
  extract_lets
  exact h.core rfl

theorem loosely {loose : Bool} {f : State → State} (h : Keeps s₀ s) (hf : ∀ t, Keeps s₀ t → Keeps s₀ (f t)) :
    Keeps s₀ (loosely loose s f) := .update (hf _ (h.core rfl)) rfl

theorem hostHolds {rd wr : List (Nat × Nat)} (h : Keeps s₀ s) (e : hostHolds s rd wr = some t) : Keeps s₀ t := by
  simp only [Machine.hostHolds, Option.ite_none_left_eq_some, Option.some.injEq] at e
  exact e.2 ▸ h.core rfl

theorem sendPost {by_ : Poster} {fill : Bool} {token : Nat} {slots : Nat} (h : Keeps s₀ s) :
    Keeps s₀ (sendPost s by_ fill token slots) :=
  h.core rfl

theorem streamStop {pc : Nat} {issued : Bool} (h : Keeps s₀ s) : Keeps s₀ (streamStop s pc issued) :=
  .raiseVector (h.core rfl)

theorem fillStop {bit : Nat} (h : Keeps s₀ s) : Keeps s₀ (fillStop s bit) :=
  .raiseVector (h.core rfl)

theorem faultAtIssue {fill : Bool} (h : Keeps s₀ s) : Keeps s₀ (faultAtIssue s fill) := by
  unfold Machine.faultAtIssue
  extract_lets
  exact .ite h.fillStop (.ite (.streamStop (h.core rfl)) (h.core rfl))

theorem faultInRun {fill : Bool} (h : Keeps s₀ s) : Keeps s₀ (faultInRun s fill) :=
  .ite h.fillStop (h.core rfl)

theorem pushCensus {p : Nat} {r : CRec} (h : Keeps s₀ s) : Keeps s₀ (pushCensus s p r) := by
  unfold Machine.pushCensus
  extract_lets
  exact h.core rfl

/-! ### The operations of `Machine/Clock` -/

theorem clocked (h : Keeps s₀ s) (h2 : Keeps s₀ t) : Keeps s₀ (clocked s t) :=
  .ite h2 h

theorem tableError {double : Bool} {x : Option (Bool × Nat × Nat × Nat)} (h : Keeps s₀ s) :
    Keeps s₀ (tableError s double x) := by
  unfold Machine.tableError
  split
  · exact h
  · extract_lets
    exact .ite h (.ite (h.core rfl) (h.core rfl))

theorem memoryErrors (h : Keeps s₀ s) : Keeps s₀ (memoryErrors s) := by
  unfold Machine.memoryErrors
  extract_lets
  exact .update h.tableError.tableError rfl

theorem clockPeriod (h : Keeps s₀ s) : Keeps s₀ (clockPeriod s) := by
  unfold Machine.clockPeriod
  extract_lets _ s1
  have h1 : Keeps s₀ s1 := .ite (h.core rfl) h
  refine .ite (h1.memoryErrors.foldl (fun _ _ h => ?_)) h1
  extract_lets
  exact h.core rfl

/-! ### The operations of `Machine/Arrays` -/

theorem busTake {u : BusUnit} (h : Keeps s₀ s) : Keeps s₀ (busTake s u) := by
  unfold Machine.busTake
  split
  · exact h.core rfl
  · exact h

theorem running (h : Keeps s₀ s) (h2 : Keeps s₀ t) : Keeps s₀ (running s t) :=
  .ite h2 h

theorem fillRange {fill : Bool} (h : Keeps s₀ s) : Keeps s₀ (fillRange s fill) :=
  .ite (h.core rfl) h

theorem loadCorrected {eng : Nat} {before after : ArrAct} (h : Keeps s₀ s) :
    Keeps s₀ (loadCorrected s eng before after) :=
  h.foldl (fun _ _ h => h.sramCorrected)

theorem retireActs {eng : Nat} (h : Keeps s₀ s) : Keeps s₀ (retireActs s eng) := by
  unfold Machine.retireActs
  extract_lets
  exact .foldl (h.core rfl) (fun _ _ h => h.pushCensus)

theorem consumedSram {p addr : Nat} {fill : Bool} (h : Keeps s₀ s) : Keeps s₀ (consumedSram s p addr fill) :=
  h.memError.faultInRun

theorem advanceAll {eng : Nat} (h : Keeps s₀ s) : Keeps s₀ (advanceAll s eng) := by
  unfold Machine.advanceAll
  dsimp only
  refine .retireActs (.setEngine (.foldlProj (p := Prod.fst) h (fun _ _ h => ?_)))
  split
  · exact .consumedSram (.loadCorrected (h.core rfl))
  · exact .loadCorrected (h.core rfl)

theorem arrayBegin {eng : Nat} {b : BusAct} {e : ArrEntry} (h : Keeps s₀ s) : Keeps s₀ (arrayBegin s eng b e) := by
  unfold Machine.arrayBegin
  extract_lets
  exact .ite (h.core rfl) (.advanceAll (h.core rfl))

theorem arrayIssue {eng : Nat} {op : ArrOp} (h : Keeps s₀ s) : Keeps s₀ (arrayIssue s eng op) := by
  unfold Machine.arrayIssue
  split
  · exact h
  · split
    · extract_lets
      exact .ite h (.ite h (.ite h (.ite h.busTake.arrayBegin h.busTake.setEngine.fillRange.faultAtIssue)))
    · exact h

theorem weightLoaded {eng a : Nat} (h : Keeps s₀ s) : Keeps s₀ (weightLoaded s eng a) := by
  unfold Machine.weightLoaded
  extract_lets
  exact .ite h (.advanceAll (h.core rfl))

theorem rowStepRun {eng idx : Nat} {act : ArrAct} (h : Keeps s₀ s) : Keeps s₀ (rowStepRun s eng idx act) := by
  unfold Machine.rowStepRun
  extract_lets
  exact .advanceAll (.foldl (h.core rfl) (fun _ _ h => h.sramCorrected))

theorem rowStepPoisoned {eng idx : Nat} {act : ArrAct} {at_ : Nat} (h : Keeps s₀ s) :
    Keeps s₀ (rowStepPoisoned s eng idx act at_) := by
  unfold Machine.rowStepPoisoned
  extract_lets
  exact .retireActs (.consumedSram (h.core rfl))

theorem rowStep {eng a : Nat} (h : Keeps s₀ s) : Keeps s₀ (rowStep s eng a) := by
  unfold Machine.rowStep
  extract_lets
  split
  · exact h
  · refine .ite h ?_
    split
    · exact h.rowStepPoisoned
    · exact h.rowStepRun

theorem bankWrite {eng : Nat} (h : Keeps s₀ s) : Keeps s₀ (bankWrite s eng) := by
  unfold Machine.bankWrite
  extract_lets
  split
  · exact h
  · exact h.core rfl

/-! ### The operations of `Machine/Mailbox` -/

theorem completeReq {r : Req} {st : Status} {resp : List Byte} (h : Keeps s₀ s) :
    Keeps s₀ (completeReq s r st resp) := by
  unfold Machine.completeReq
  extract_lets
  exact .ite (.raiseVector (h.core rfl)) (.ite h (h.core rfl))

theorem completeConflict {r : Req} {c : Conflict} (h : Keeps s₀ s) : Keeps s₀ (completeConflict s r c) :=
  h.completeReq

theorem setLoading {b on : Bool} (h : Keeps s₀ s) : Keeps s₀ (setLoading s b on) :=
  h.core rfl

theorem finishPend {p : Pend → Bool} {st : Status} {resp : List Byte} (h : Keeps s₀ s) :
    Keeps s₀ (finishPend s p st resp) := by
  unfold Machine.finishPend
  split
  · exact h
  · exact .completeReq (h.core rfl)

/-! ### The operations of `Machine/SlowTier` -/

theorem sendD2h {user : SlowUser} {off dst len : Nat} {bytes : List Byte} (h : Keeps s₀ s) :
    Keeps s₀ (sendD2h s user off dst len bytes) := by
  unfold Machine.sendD2h
  extract_lets
  exact h.core rfl

/-! ### The operations of `Machine/Cipher` -/

theorem updCip {f : Cip → Cip} (h : Keeps s₀ s) : Keeps s₀ (updCip s f) :=
  h.core rfl

theorem setCipErr {b : Nat} (h : Keeps s₀ s) : Keeps s₀ (setCipErr s b) := by
  unfold Machine.setCipErr
  extract_lets
  exact .ite (.raiseVector (h.core rfl)) (h.core rfl)

theorem lockRequest {o : Owner} (h : Keeps s₀ s) : Keeps s₀ (lockRequest s o) :=
  .ite h (h.core rfl)

theorem lockGrant (h : Keeps s₀ s) : Keeps s₀ (lockGrant s) := by
  unfold Machine.lockGrant
  split
  · exact h
  · split
    · exact h.core rfl
    · exact .ite (h.core rfl) h
    · exact h

theorem cipSlowFail {addr : Nat} (h : Keeps s₀ s) : Keeps s₀ (cipSlowFail s addr) :=
  h.memError

theorem pumpCip {fuel : Nat} (h : Keeps s₀ s) : Keeps s₀ (pumpCip fuel s) := by
  induction fuel generalizing s with
  | zero => exact h
  | succ fuel ih =>
    unfold Machine.pumpCip
    split
    · exact h
    · split
      · exact h
      · extract_lets
        exact .ite h (.ite (.cipSlowFail (h.core rfl)) (ih h.sendD2h.updCip))

theorem cipPump (h : Keeps s₀ s) : Keeps s₀ (cipPump s) := by
  unfold Machine.cipPump
  split
  · exact h.pumpCip
  · exact h

theorem resumeSaved (h : Keeps s₀ s) : Keeps s₀ (resumeSaved s) := by
  unfold Machine.resumeSaved
  extract_lets
  refine .cipPump ?_
  split <;> exact h.core rfl

theorem lockRelease {o : Owner} (h : Keeps s₀ s) : Keeps s₀ (lockRelease s o) :=
  .ite h.resumeSaved (h.core rfl)

theorem bankDone {o : Owner} {code : Nat} (h : Keeps s₀ s) : Keeps s₀ (bankDone s o code) :=
  h.core rfl

theorem msgStart {m : CipMsg} (h : Keeps s₀ s) : Keeps s₀ (msgStart s m) := by
  unfold Machine.msgStart
  extract_lets
  exact .cipPump (h.core rfl)

theorem cipSlowDone {r : D2h} {ok : Bool} {data : List Byte} (h : Keeps s₀ s) :
    Keeps s₀ (cipSlowDone s r ok data) := by
  unfold Machine.cipSlowDone
  extract_lets
  exact .cipPump (.updCip (.ite h h.cipSlowFail))

theorem spoilTiles {m : CipMsg} (h : Keeps s₀ s) : Keeps s₀ (spoilTiles s m) :=
  h.foldl (fun _ _ h => .meterHbm (h.core rfl))

theorem cipSeal {cls a n : Nat} (h : Keeps s₀ s) : Keeps s₀ (cipSeal s cls a n) := by
  unfold Machine.cipSeal
  refine h.foldl (fun _ _ h => ?_)
  split
  · exact .ite h.tileSeal h
  · exact h

theorem msgPut {cls a : Nat} {bs : List Byte} (h : Keeps s₀ s) : Keeps s₀ (msgPut s cls a bs).1 := by
  unfold Machine.msgPut
  extract_lets
  refine .foldlProj (p := Prod.fst) h (fun _ _ h => ?_)
  split
  · exact h.hbmWrite
  · exact h

theorem moversNext (h : Keeps s₀ s) : Keeps s₀ (moversNext s) :=
  .ite h.lockRequest h

theorem msgEnd {m : CipMsg} {st : Status} (h : Keeps s₀ s) : Keeps s₀ (msgEnd s m st) := by
  unfold Machine.msgEnd
  extract_lets
  split
  · exact .moversNext (.lockRelease (.finishPend (h.core rfl)))
  · exact h.core rfl

theorem msgFail {m : CipMsg} {st : Status} (h : Keeps s₀ s) : Keeps s₀ (msgFail s m st) :=
  h.spoilTiles.msgEnd

theorem msgRun {m : CipMsg} (h : Keeps s₀ s) : Keeps s₀ (msgRun s m) := by
  unfold Machine.msgRun
  extract_lets
  split
  rename_i s1 w1 e1
  have h1 : Keeps s₀ s1 := h.msgPut.ofPair e1
  split
  rename_i s2 w2 e2
  have h2 : Keeps s₀ s2 := Keeps.ofPair (.iteProj (p := Prod.fst) h1 h1.msgPut) e2
  extract_lets s3
  have h3 : Keeps s₀ s3 := .ite h2.cipSeal h2.spoilTiles
  exact .ite h3.msgEnd (.cipPump (h3.core rfl))

theorem messageDone (h : Keeps s₀ s) : Keeps s₀ (messageDone s) := by
  unfold Machine.messageDone
  split
  · exact h
  · refine .ite h (.ite h.msgFail (.ite h.msgFail ?_))
    split
    · exact h.msgEnd
    · extract_lets _ _ _ s1
      have h1 : Keeps s₀ s1 := h.apart (fun _ h => h.foldl (fun _ _ h2 => h2.meterRead))
      refine .ite h.sendSnoops.sendSnoops ?_
      split
      · exact h1.memError.msgFail
      · exact h1.apart (fun _ h => h.msgRun)

theorem cipGo {o : Owner} {v : W32} (h : Keeps s₀ s) : Keeps s₀ (cipGo s o v) := by
  unfold Machine.cipGo
  extract_lets
  exact .ite (h.core rfl) (.ite (.setCipErr (h.core rfl))
    (.ite (h.core rfl) (.ite (.msgStart (h.core rfl)) (.msgEnd (h.core rfl)))))

theorem revokeOwner {o : Owner} (h : Keeps s₀ s) : Keeps s₀ (revokeOwner s o) := by
  unfold Machine.revokeOwner
  extract_lets _ s1 s2 s3 s4 s5
  have h1 : Keeps s₀ s1 := by
    unfold s1
    split
    · exact .bankDone (.spoilTiles (h.core rfl))
    · exact h
  have h2 : Keeps s₀ s2 := by
    unfold s2
    split
    · exact .bankDone (.spoilTiles (h1.core rfl))
    · exact h1
  have h3 : Keeps s₀ s3 := by
    unfold s3
    split
    · exact .bankDone (.spoilTiles (h2.core rfl))
    · exact h2
  have h4 : Keeps s₀ s4 := .ite h3.finishPend h3
  have h5 : Keeps s₀ s5 := h4.resumeSaved.raiseVector
  exact .ite (.ite h5.moversNext h5) (h2.core rfl)

theorem idleRevoke (h : Keeps s₀ s) : Keeps s₀ (idleRevoke s) :=
  .ite (.setCipErr (h.core rfl)) h

theorem locktoWrite {v : W32} (h : Keeps s₀ s) : Keeps s₀ (locktoWrite s v) := by
  unfold Machine.locktoWrite
  extract_lets
  exact .ite h.setCipErr (h.core rfl)

theorem fenceCipher {p : Nat} (h : Keeps s₀ s) : Keeps s₀ (fenceCipher s p) := by
  unfold Machine.fenceCipher
  extract_lets
  exact h.core rfl

/-! ### The operations of `Machine/Attest` -/

theorem updSec {f : Sec → Sec} (h : Keeps s₀ s) : Keeps s₀ (updSec s f) :=
  h.core rfl

theorem doeAnswer {type : Nat} {bs : List Byte} (h : Keeps s₀ s) : Keeps s₀ (doeAnswer s type bs) :=
  h.core rfl

theorem answerHeld (h : Keeps s₀ s) : Keeps s₀ (answerHeld s) := by
  unfold Machine.answerHeld
  split
  · exact h
  · exact .ite h h.doeAnswer

theorem doeRequest {type : Nat} {data : List Byte} (h : Keeps s₀ s) : Keeps s₀ (doeRequest s type data) :=
  .ite h (.ite (h.core rfl) (.ite h.doeAnswer (.ite h (.answerHeld (h.core rfl)))))

theorem doeAbort (h : Keeps s₀ s) : Keeps s₀ (doeAbort s) :=
  .ite (h.core rfl) (h.core rfl)

theorem getVersion (h : Keeps s₀ s) : Keeps s₀ (getVersion s) := by
  unfold Machine.getVersion
  split
  · exact h
  · extract_lets
    exact .ite h.doeAnswer (.doeAnswer (h.core rfl))

theorem getCapabilities (h : Keeps s₀ s) : Keeps s₀ (getCapabilities s) := by
  unfold Machine.getCapabilities
  split
  · exact h
  · split
    · exact h.doeAnswer
    · extract_lets
      exact .ite h.doeAnswer (.doeAnswer (h.core rfl))

theorem negotiateAlgorithms (h : Keeps s₀ s) : Keeps s₀ (negotiateAlgorithms s) := by
  unfold Machine.negotiateAlgorithms
  split
  · exact h
  · split
    · exact h.doeAnswer
    · extract_lets
      exact .ite h.doeAnswer (.doeAnswer (h.core rfl))

theorem certAnswer {req r : List Byte} (h : Keeps s₀ s) : Keeps s₀ (certAnswer s req r) :=
  .doeAnswer (h.core rfl)

theorem getDigests (h : Keeps s₀ s) : Keeps s₀ (getDigests s) := by
  unfold Machine.getDigests
  split
  · exact h
  · split
    · exact h.doeAnswer
    · exact h.certAnswer

theorem getCertificate (h : Keeps s₀ s) : Keeps s₀ (getCertificate s) := by
  unfold Machine.getCertificate
  split
  · exact h
  · split
    · exact h.doeAnswer
    · extract_lets
      exact .ite h.doeAnswer (.ite h.doeAnswer h.certAnswer)

theorem challenge (h : Keeps s₀ s) : Keeps s₀ (challenge s) := by
  unfold Machine.challenge
  split
  · exact h
  · split
    · exact h.doeAnswer
    · extract_lets
      exact .ite h.doeAnswer (.ite h.doeAnswer (.doeAnswer (h.core rfl)))

theorem getMeasurements (h : Keeps s₀ s) : Keeps s₀ (getMeasurements s) := by
  unfold Machine.getMeasurements
  split
  · exact h
  · extract_lets
    split
    · exact h.doeAnswer
    · exact h.doeAnswer
    · extract_lets
      exact .ite h.doeAnswer (.ite (.doeAnswer (h.core rfl)) (.doeAnswer (h.core rfl)))

theorem spdmReset (h : Keeps s₀ s) : Keeps s₀ (spdmReset s) :=
  h.core rfl

theorem tapInstruction {t : TapOp} (h : Keeps s₀ s) : Keeps s₀ (tapInstruction s t) := by
  unfold Machine.tapInstruction
  split
  · exact h.core rfl
  · exact .ite h (h.core rfl)

/-! ### The operations of `Machine/Elements` -/

theorem setEleErr {eng bitsSet : Nat} (h : Keeps s₀ s) : Keeps s₀ (setEleErr s eng bitsSet) := by
  unfold Machine.setEleErr
  extract_lets
  exact h.core rfl

theorem eleBegin {eng : Nat} {b : BusAct} {e : EleEntry} {is : List FInstr} {ks : List Val} {rows : Nat}
    (h : Keeps s₀ s) :
    Keeps s₀ (eleBegin s eng b e is ks rows) := by
  unfold Machine.eleBegin
  extract_lets
  exact .ite (h.core rfl) (h.core rfl)

theorem elementIssue {eng : Nat} {op : EleOp} (h : Keeps s₀ s) : Keeps s₀ (elementIssue s eng op) := by
  unfold Machine.elementIssue
  split
  · exact h
  · split
    · extract_lets
      exact .ite h
        (.ite (.ite h.busTake h) (.ite h (.ite h.busTake.eleBegin h.busTake.setEleErr.fillRange.faultAtIssue)))
    · exact h

theorem takeDescriptors {eng : Nat} (h : Keeps s₀ s) : Keeps s₀ (takeDescriptors s eng) := by
  unfold Machine.takeDescriptors
  extract_lets
  split
  · exact h
  · extract_lets
    exact .ite h (.ite (.faultInRun (.fillRange (.setEleErr (h.core rfl)))) (h.core rfl))

theorem readRow {eng i : Nat} {a : EleAct} (h : Keeps s₀ s) : Keeps s₀ (readRow s eng i a) := by
  unfold Machine.readRow
  extract_lets
  refine .foldl (h.core rfl) (fun _ _ h => ?_)
  extract_lets
  exact h.sramCorrected.sramCorrected

theorem eleRowRead {eng : Nat} (h : Keeps s₀ s) : Keeps s₀ (eleRowRead s eng) := by
  unfold Machine.eleRowRead
  extract_lets
  split
  · exact h
  · refine .ite h ?_
    split
    · extract_lets
      exact .consumedSram (h.core rfl)
    · exact h.readRow

theorem sramPut {ws : List (Nat × Byte)} (h : Keeps s₀ s) : Keeps s₀ (sramPut s ws) :=
  h.foldl (fun _ _ h => h.sramWrite)

theorem clearCovered {ws : List (Nat × Byte)} (h : Keeps s₀ s) : Keeps s₀ (clearCovered s ws) :=
  .ite h (h.core rfl)

theorem eleOutputWrite {eng : Nat} (h : Keeps s₀ s) : Keeps s₀ (eleOutputWrite s eng) := by
  unfold Machine.eleOutputWrite
  extract_lets
  split
  · exact h
  · exact .clearCovered (.sramPut (h.core rfl))

theorem eleComplete {eng : Nat} (h : Keeps s₀ s) : Keeps s₀ (eleComplete s eng) := by
  unfold Machine.eleComplete
  extract_lets
  split
  · extract_lets
    exact .ite h (.ite (h.core rfl) (.foldl (h.core rfl) (fun _ _ h => h.pushCensus)))
  · exact h

/-! ### The operations of `Machine/Movers` -/

theorem setErrBits {p bitsSet addr : Nat} {inSram : Bool} (h : Keeps s₀ s) :
    Keeps s₀ (setErrBits s p bitsSet addr inSram) :=
  h.foldl (fun _ _ h => .ite h.memError h)

theorem moverIssue {c m : Nat} {op : MovOp} (h : Keeps s₀ s) : Keeps s₀ (moverIssue s c m op) := by
  unfold Machine.moverIssue
  split
  · exact h
  · split
    · exact .ite h (.ite h (.ite (.setMover h.busTake) (.faultAtIssue (.fillRange (.setErrBits h.busTake)))))
    · exact h

theorem movReadTraffic {c m : Nat} {a : MovAct} (h : Keeps s₀ s) : Keeps s₀ (movReadTraffic s c m a) := by
  unfold Machine.movReadTraffic
  extract_lets
  split
  · exact h
  · exact h.foldl fun _ _ h => h.meterRead
  · refine .ite (h.foldl fun _ _ h => h.sramCorrected) (h.foldl fun _ _ h => ?_)
    split
    · exact h.meterVerify
    · exact h.meterRead

theorem pumpMover {fuel c m i : Nat} (h : Keeps s₀ s) : Keeps s₀ (pumpMover fuel s c m i) := by
  induction fuel generalizing s c m i with
  | zero => exact h
  | succ fuel ih =>
    unfold Machine.pumpMover
    split
    · exact h
    · split
      · exact h
      · extract_lets
        exact .ite h (.ite (h.core rfl) (ih h.sendD2h.setMover))

theorem movBegin {c m i : Nat} {a : MovAct} (h : Keeps s₀ s) : Keeps s₀ (movBegin s c m i a) := by
  unfold Machine.movBegin
  extract_lets
  exact .ite h.sendSnoops h.movReadTraffic.setMover.pumpMover

theorem moverStart {c m : Nat} (h : Keeps s₀ s) : Keeps s₀ (moverStart s c m) := by
  unfold Machine.moverStart
  split
  · exact h
  · exact .ite h (h.loosely (fun _ h => h.movBegin))

theorem writeRows {e : MovEntry} {cls : Nat} {rows : List (Nat × List Byte)} (h : Keeps s₀ s) :
    Keeps s₀ (writeRows s e cls rows).1 := by
  induction rows generalizing s e cls with
  | nil => exact h
  | cons x l ih =>
    unfold Machine.writeRows
    refine .iteProj (p := Prod.fst) (ih h.sramWrite) (.iteProj (p := Prod.fst) (ih h) ?_)
    split
    · exact h.devWrite
    · exact ih h.devWrite

theorem sealTiles {cls : Nat} {ts : List Nat} (h : Keeps s₀ s) : Keeps s₀ (sealTiles s cls ts).1 := by
  induction ts generalizing s cls with
  | nil => exact h
  | cons x l ih =>
    unfold Machine.sealTiles
    split
    · exact h
    · split
      · exact h
      · exact ih h.tileSeal
    · exact ih h

theorem movFault {c m i : Nat} {a : MovAct} {f : Nat × Nat} (h : Keeps s₀ s) : Keeps s₀ (movFault s c m i a f) := by
  unfold Machine.movFault
  extract_lets
  exact .faultInRun (.memError (.ite (h.core rfl) (h.core rfl)))

theorem movFinish {c m i : Nat} {a : MovAct} (h : Keeps s₀ s) : Keeps s₀ (movFinish s c m i a) := by
  unfold Machine.movFinish
  extract_lets _ _ s1
  have h1 : Keeps s₀ s1 := .setMover (.iteProj (p := Prod.fst) h.writeRows.sealTiles h.writeRows)
  split
  · exact h.writeRows.movFault
  · split
    · exact .movFault (.iteProj (p := Prod.fst) h.writeRows.sealTiles h.writeRows)
    · exact .ite (h1.core rfl) h1

theorem movSlowWrite {c m i : Nat} {a : MovAct} {sw : List (Nat × Nat × List Byte)} (h : Keeps s₀ s) :
    Keeps s₀ (movSlowWrite s c m i a sw) := by
  unfold Machine.movSlowWrite
  dsimp only
  split
  · exact h.movFault
  · exact .pumpMover (h.core rfl)

theorem movEnd {c m i : Nat} {a : MovAct} (h : Keeps s₀ s) : Keeps s₀ (movEnd s c m i a) := by
  unfold Machine.movEnd
  extract_lets
  exact .ite h.movSlowWrite (.ite h (.ite h.sendSnoops (h.apart (fun _ h => h.movFinish))))

theorem moverComplete {c m : Nat} (h : Keeps s₀ s) : Keeps s₀ (moverComplete s c m) := by
  unfold Machine.moverComplete
  split
  · exact h
  · exact .ite h (h.loosely (fun _ h => h.movEnd))

theorem moverSlowDone {c m : Nat} {r : D2h} {ok : Bool} {data : List Byte} (h : Keeps s₀ s) :
    Keeps s₀ (moverSlowDone s c m r ok data) := by
  unfold Machine.moverSlowDone
  split
  · exact h
  · extract_lets
    exact .pumpMover (h.core rfl)

/-! ### The operations of `Machine/Measure` -/

theorem entriesCorrected {as_ : List BusAct} (h : Keeps s₀ s) : Keeps s₀ (entriesCorrected s as_) := by
  unfold Machine.entriesCorrected
  refine h.foldl (fun _ _ h => ?_)
  extract_lets
  exact .ite h (h.core rfl)

theorem setSet {n : Nat} {x : SetSt} (h : Keeps s₀ s) : Keeps s₀ (setSet s n x) :=
  h.core rfl

theorem setCmp {p : Nat} {x : Cmp} (h : Keeps s₀ s) : Keeps s₀ (setCmp s p x) :=
  h.core rfl

/-! ### The operations of `Machine/Caller` -/

theorem tblSet_countsOk {c : Tbl Nat} {i n : Nat} (hc : countsOk c = true) (hn : n ≤ 65535) :
    countsOk (Tbl.set c i n) = true := by
  induction c with
  | nil => simp [Tbl.set, countsOk, hn]
  | cons e c ih =>
    obtain ⟨j, m⟩ := e
    simp only [countsOk, List.all_cons, Bool.and_eq_true, decide_eq_true_eq] at hc ih ⊢
    simp only [Tbl.set]
    split
    · simp [hn, hc]
    · split
      · simp [hn, hc]
      · simp [hc, ih]

theorem tblGet_le {c : Tbl Nat} {i : Nat} (hc : countsOk c = true) : Tbl.get 0 c i ≤ 65535 := by
  induction c with
  | nil => simp [Tbl.get]
  | cons e c ih =>
    obtain ⟨j, m⟩ := e
    simp only [countsOk, List.all_cons, Bool.and_eq_true, decide_eq_true_eq] at hc ih
    simp only [Tbl.get]
    split
    · exact hc.1
    · exact ih hc.2

/-- A count written within its bound. -/
theorem setTok {fill : Bool} {i n : Nat} (h : Keeps s₀ s) (hn : Inv s → n ≤ 65535) : Keeps s₀ (setTok s fill i n) :=
  h.trans <| by
    cases fill
    · exact ⟨rfl, rfl, fun hi => ⟨hi.hbm, hi.sram, tblSet_countsOk hi.counts (hn hi), hi.fcounts⟩⟩
    · exact ⟨rfl, rfl, fun hi => ⟨hi.hbm, hi.sram, hi.counts, tblSet_countsOk hi.fcounts (hn hi)⟩⟩

theorem tokCount_le {fill : Bool} {i : Nat} (hi : Inv s) : tokCount s fill i ≤ 65535 := by
  cases fill
  · exact tblGet_le hi.counts
  · exact tblGet_le hi.fcounts

/-! ### The operations of `Machine/Measure` -/

theorem takeTok {fill : Bool} {i n : Nat} (h : Keeps s₀ s) : Keeps s₀ (takeTok s fill i n) :=
  h.setTok fun hi => Nat.le_trans (Nat.sub_le _ _) (tokCount_le hi)

theorem consumeWaits {fill : Bool} {w : MeasW} (h : Keeps s₀ s) : Keeps s₀ (consumeWaits s fill w) :=
  h.takeTok.takeTok

theorem countTok {fill : Bool} {i : Nat} (h : Keeps s₀ s) (e : countTok s fill i = some t) : Keeps s₀ t := by
  simp only [Machine.countTok, Option.ite_none_right_eq_some, Option.some.injEq] at e
  exact e.2 ▸ h.setTok fun _ => e.1

theorem ownPost {fill : Bool} {i : Nat} (h : Keeps s₀ s) : Keeps s₀ (ownPost s fill i) := by
  unfold Machine.ownPost
  split
  · next e => exact h.countTok e
  · cases fill <;> exact h.core rfl

theorem lendCore {c : Nat} (h : Keeps s₀ s) : Keeps s₀ (lendCore s c) := by
  unfold Machine.lendCore
  extract_lets
  exact .ite h (.foldl (.foldl (h.core rfl) (fun _ _ h => .advanceAll (h.core rfl))) (fun _ _ h => h.core rfl))

theorem movStop {c m i : Nat} {a : MovAct} (h : Keeps s₀ s) : Keeps s₀ (movStop s c m i a) := by
  unfold Machine.movStop
  extract_lets
  split
  · exact .movFault (.writeRows (h.core rfl))
  · exact .setMover (.writeRows (h.core rfl))

theorem moverSuspend {c m : Nat} (h : Keeps s₀ s) : Keeps s₀ (moverSuspend s c m) := by
  unfold Machine.moverSuspend
  extract_lets s1
  have h1 : Keeps s₀ s1 := by
    unfold s1
    split
    · exact h.loosely (fun _ h => h.movStop)
    · exact h
  exact h1.core rfl

theorem landAll {e n : Nat} (h : Keeps s₀ s) : Keeps s₀ (landAll s e n) := by
  induction n generalizing s e with
  | zero => exact h
  | succ n ih =>
    unfold Machine.landAll
    exact ih h.eleOutputWrite

theorem suspendCore {c : Nat} (h : Keeps s₀ s) : Keeps s₀ (suspendCore s c) := by
  unfold Machine.suspendCore
  extract_lets s1
  have h1 : Keeps s₀ s1 := by
    unfold s1
    refine h.foldl (fun _ _ h => ?_)
    extract_lets
    exact h.landAll.setEngine
  exact h1.foldl (fun _ _ h => h.moverSuspend)

/-! ### The operations of `Machine/Caller` -/

theorem fetchMarks {m : Meas} (h : Keeps s₀ s) : Keeps s₀ (fetchMarks s m) := by
  unfold Machine.fetchMarks
  extract_lets
  split
  · exact h.core rfl
  · exact .update h.memError rfl
  · exact h

theorem fetchArrive (h : Keeps s₀ s) : Keeps s₀ (fetchArrive s) := by
  unfold Machine.fetchArrive
  split
  · exact h
  · extract_lets
    exact .ite h.sendSnoops (.fetchMarks (.apart (h.core rfl) (fun _ h => h.meterVerify)))

theorem record {m : Meas} (h : Keeps s₀ s) : Keeps s₀ (record s m) := by
  unfold Machine.record
  extract_lets
  refine .ite h (.ite (h.core rfl) ?_)
  split
  · exact h
  · exact h.core rfl

theorem setLoopReg {fill : Bool} {n : Nat} {v : W32} (h : Keeps s₀ s) : Keeps s₀ (setLoopReg s fill n v) :=
  .ite (h.core rfl) (h.core rfl)

theorem flowTo {i k : Nat} (h : Keeps s₀ s) : Keeps s₀ (flowTo s i k) :=
  .ite h (h.core rfl)

theorem stepEngines (h : Keeps s₀ s) : Keeps s₀ (stepEngines s) :=
  h.foldl (fun _ _ h => .ite (h.core rfl) h)

theorem controlAct {m : Meas} (h : Keeps s₀ s) : Keeps s₀ (controlAct s m) := by
  unfold Machine.controlAct
  split
  · exact h.core rfl
  · exact h.flowTo
  · extract_lets
    exact .ite h h.setLoopReg.flowTo
  · exact h.setLoopReg
  · exact h.core rfl
  · exact h.core rfl
  · exact h.stepEngines
  · exact h

theorem dueStop {b : Nat} (h : Keeps s₀ s) : Keeps s₀ (dueStop s b) := by
  unfold Machine.dueStop
  extract_lets
  exact .update (.streamStop (h.core rfl)) rfl

theorem poisonedActs {acts : List BusAct} (h : Keeps s₀ s) : Keeps s₀ (poisonedActs s acts) := by
  induction acts generalizing s with
  | nil => exact h
  | cons x l ih =>
    unfold Machine.poisonedActs
    exact ih h.memError.faultAtIssue

theorem issueMeas {m : Meas} (h : Keeps s₀ s) : Keeps s₀ (issueMeas s m) := by
  unfold Machine.issueMeas
  extract_lets _ _ s1 s2 s3
  have h1 : Keeps s₀ s1 := h.consumeWaits.entriesCorrected
  have h2 : Keeps s₀ s2 := h1.foldl (fun _ _ h => h.lendCore)
  have h3 : Keeps s₀ s3 := .record (h2.core rfl)
  exact .poisonedActs (.update (.ite (.controlAct (h3.core rfl)) (h3.core rfl)) rfl)

theorem issueDue (h : Keeps s₀ s) : Keeps s₀ (issueDue s) := by
  unfold Machine.issueDue
  refine .ite h (.ite h.dueStop ?_)
  split
  · exact .ite h.dueStop h
  · split
    · exact h.dueStop
    · exact h.dueStop
    · exact h.dueStop
    · split
      · exact h.dueStop
      · refine .ite h ?_
        split
        · exact h.dueStop
        · exact h.issueMeas

theorem gateTest {cycles : Nat} (h : Keeps s₀ s) : Keeps s₀ (gateTest s cycles) := by
  unfold Machine.gateTest
  extract_lets
  exact .ite h (h.core rfl)

theorem issueControl {op : Nat} (h : Keeps s₀ s) : Keeps s₀ (issueControl s op) := by
  unfold Machine.issueControl
  split
  · exact .ite h.gateTest.issueDue h
  · exact h

theorem issueMarked {marks : Nat → Bool} (h : Keeps s₀ s) : Keeps s₀ (issueMarked s marks) := by
  unfold Machine.issueMarked
  split
  · exact .ite h.gateTest.issueDue h
  · exact h

theorem spanPeriod (h : Keeps s₀ s) : Keeps s₀ (spanPeriod s) := by
  unfold Machine.spanPeriod
  split
  · exact .ite h (h.core rfl)
  · exact h

theorem spanEnd (h : Keeps s₀ s) : Keeps s₀ (spanEnd s) := by
  unfold Machine.spanEnd
  split
  · exact h
  · extract_lets _ _ _ s1
    have h1 : Keeps s₀ s1 := .ite (.ownPost (h.core rfl)) (h.core rfl)
    exact .ite h (.ite (h1.core rfl) h1)

theorem replayDeliver (h : Keeps s₀ s) : Keeps s₀ (replayDeliver s) := by
  unfold Machine.replayDeliver
  split
  · exact h
  · exact .ite h (h.core rfl)

theorem haltComplete (h : Keeps s₀ s) : Keeps s₀ (haltComplete s) :=
  .ite (h.core rfl) h

theorem postArrive (h : Keeps s₀ s) : Keeps s₀ (postArrive s) := by
  unfold Machine.postArrive
  split
  · exact h
  · extract_lets
    refine .ite (h.core rfl) ?_
    split
    · next e =>
      refine .countTok ?_ e
      exact h.core rfl
    · exact .ite (h.core rfl) (h.core rfl)

theorem heldCounted {fill : Bool} {i : Nat} (h : Keeps s₀ s) : Keeps s₀ (heldCounted s fill i) := by
  unfold Machine.heldCounted
  split
  · exact h
  · next e =>
    refine .ite ?_ (.ite ((h.countTok e).core rfl) h)
    cases fill <;> exact (h.countTok e).core rfl

theorem recordBite {kind detail : Nat} (h : Keeps s₀ s) : Keeps s₀ (recordBite s kind detail) :=
  .raiseVector (h.core rfl)

theorem streamBite (h : Keeps s₀ s) : Keeps s₀ (streamBite s) := by
  unfold Machine.streamBite
  extract_lets _ _ _ s1 s2
  have h1 : Keeps s₀ s1 := .recordBite (h.core rfl)
  have h2 : Keeps s₀ s2 := .ite h1.streamStop h1.streamStop
  refine .ite (.ite h ?_) (.ite (.recordBite (h.core rfl)) h)
  split
  · exact .ite h2.requestFence h2
  · exact h2

theorem spanldBegin {c : Nat} {x : SpanLoad} {addr : Nat} {fill : Bool} (h : Keeps s₀ s) :
    Keeps s₀ (spanldBegin s c x addr fill) := by
  unfold Machine.spanldBegin
  split
  · exact h.consumedSram
  · extract_lets
    exact .update h.sramCorrected rfl

theorem spanldIssue {c : Nat} (h : Keeps s₀ s) : Keeps s₀ (spanldIssue s c) := by
  unfold Machine.spanldIssue
  split
  · exact .ite h (.spanldBegin (h.core rfl))
  · split
    · exact h
    · split
      · extract_lets
        exact .ite (.update h.busTake rfl) h.busTake.spanldBegin
      · exact h

theorem spanldWrite {c : Nat} (h : Keeps s₀ s) : Keeps s₀ (spanldWrite s c) := by
  unfold Machine.spanldWrite
  split
  · exact h
  · extract_lets _ _ _ _ s1
    have h1 : Keeps s₀ s1 := .ite (h.core rfl) (h.core rfl)
    split
    · exact h1.core rfl
    · exact h1

/-! ### The operations of `Machine/Links` -/

theorem setLink {n : Nat} {x : Link} (h : Keeps s₀ s) : Keeps s₀ (setLink s n x) :=
  h.core rfl

theorem sendIdle {n type cvc cred : Nat} (h : Keeps s₀ s) : Keeps s₀ (sendIdle s n type cvc cred) :=
  h.core rfl

theorem pumpLink {fuel n : Nat} (h : Keeps s₀ s) : Keeps s₀ (pumpLink fuel s n) := by
  induction fuel generalizing s n with
  | zero => exact h
  | succ fuel ih =>
    unfold Machine.pumpLink
    refine .ite h ?_
    split
    · exact h
    · split
      · exact h
      · extract_lets
        exact ih (h.core rfl)

theorem pump {n : Nat} (h : Keeps s₀ s) : Keeps s₀ (pump s n) :=
  h.pumpLink

theorem sendMsg {n v : Nat} {msg : List Byte} (h : Keeps s₀ s) : Keeps s₀ (sendMsg s n v msg) := by
  unfold Machine.sendMsg
  extract_lets
  exact .pump (h.core rfl)

theorem rejectFlit {n : Nat} (h : Keeps s₀ s) : Keeps s₀ (rejectFlit s n) :=
  h.core rfl

theorem rejectOrder {n : Nat} (h : Keeps s₀ s) : Keeps s₀ (rejectOrder s n) :=
  .ite h h.rejectFlit

theorem pumpAck {n : Nat} (h : Keeps s₀ s) : Keeps s₀ (pumpAck s n) := by
  unfold Machine.pumpAck
  extract_lets
  exact .ite h.pump.sendIdle h.pump

theorem dataFlit {n : Nat} {f : BitVec 128} {payload : List Byte} (h : Keeps s₀ s) :
    Keeps s₀ (dataFlit s n f payload) := by
  unfold Machine.dataFlit
  extract_lets
  exact .ite h (.ite h.rejectFlit (.ite h (.ite h.rejectOrder (.pumpAck (h.core rfl)))))

theorem idleFlit {n : Nat} {f : BitVec 128} {payload : List Byte} (h : Keeps s₀ s) :
    Keeps s₀ (idleFlit s n f payload) := by
  unfold Machine.idleFlit
  extract_lets
  exact .ite h (.ite h.rejectFlit (.ite h (.pump (h.core rfl))))

theorem replayAll {n : Nat} (h : Keeps s₀ s) : Keeps s₀ (replayAll s n) := by
  unfold Machine.replayAll
  extract_lets
  exact .foldl (h.core rfl) (fun _ _ h => h.core rfl)

theorem nakFlit {n : Nat} {f : BitVec 128} {payload : List Byte} (h : Keeps s₀ s) :
    Keeps s₀ (nakFlit s n f payload) := by
  unfold Machine.nakFlit
  extract_lets
  exact .ite h (.ite h.rejectFlit (.ite h (.ite (.pump (h.core rfl))
    (.ite (h.core rfl) (.pump (.replayAll (h.core rfl)))))))

theorem returnCredits {fuel n v k : Nat} (h : Keeps s₀ s) : Keeps s₀ (returnCredits fuel s n v k) := by
  induction fuel generalizing s n v k with
  | zero => exact h
  | succ fuel ih =>
    unfold Machine.returnCredits
    exact .ite h (ih (h.core rfl))

theorem freeBuffers {n v k : Nat} (h : Keeps s₀ s) : Keeps s₀ (freeBuffers s n v k) := by
  unfold Machine.freeBuffers
  extract_lets
  exact .ite (.returnCredits (h.core rfl)) (h.core rfl)

theorem payOwed {n : Nat} (h : Keeps s₀ s) : Keeps s₀ (payOwed s n) := by
  unfold Machine.payOwed
  extract_lets
  exact .foldl (h.core rfl) (fun _ _ h => h.returnCredits)

theorem takeMsg {n v : Nat} {x : List Byte × State} (h : Keeps s₀ s) (e : takeMsg s n v = some x) : Keeps s₀ x.2 := by
  unfold Machine.takeMsg at e
  extract_lets at e
  split at e
  · exact nomatch e
  · exact Option.some.inj e ▸ h.setLink.freeBuffers

theorem linkDown {n : Nat} (h : Keeps s₀ s) : Keeps s₀ (linkDown s n) := by
  unfold Machine.linkDown
  extract_lets
  exact h.core rfl

theorem retrainDone {n : Nat} (h : Keeps s₀ s) : Keeps s₀ (retrainDone s n) :=
  h.finishPend

theorem linkTrained {n : Nat} {r : TrainReport} (h : Keeps s₀ s) : Keeps s₀ (linkTrained s n r) := by
  unfold Machine.linkTrained
  extract_lets
  split
  · exact .ite (.pump (h.core rfl)) (.linkDown (h.core rfl))
  · exact .ite (.pump (.replayAll (.payOwed (h.core rfl)))) h.linkDown
  · exact h

theorem startTraining {n : Nat} (h : Keeps s₀ s) : Keeps s₀ (startTraining s n) :=
  .ite (h.core rfl) h

/-! ### The operations of `Machine/SetData` -/

theorem setUpd {p : Nat} {x : Upd} (h : Keeps s₀ s) : Keeps s₀ (setUpd s p x) :=
  h.core rfl

theorem setRead {c : SetCfg} {sram : Bool} {a n : Nat} (h : Keeps s₀ s) :
    KeepsOk s₀ Prod.fst (setRead s c sram a n) := by
  unfold Machine.setRead
  refine .ite ?_ ?_
  · split
    · exact .error
    · exact .ok h.sramCorrected
  · split
    · exact .error
    · split
      · exact .error
      · split
        · exact .error
        · exact .ok (h.apart (fun _ h => h.meterRead))

theorem sealWhole {cls a n : Nat} (h : Keeps s₀ s) : Keeps s₀ (sealWhole s cls a n) := by
  unfold Machine.sealWhole
  refine h.foldl (fun _ _ h => ?_)
  split
  · exact h.tileSeal
  · exact h

theorem fillTile {cls a n : Nat} {x : State × List (Nat × Nat)} (h : Keeps s₀ x.1) :
    Keeps s₀ (fillTile cls x a n).1 := by
  unfold Machine.fillTile
  extract_lets
  split
  · exact .iteProj (p := Prod.fst) h.tileSeal h
  · exact h

theorem setWrite {c : SetCfg} {filled : List (Nat × Nat)} {sram : Bool} {a : Nat} {bs : List Byte} (h : Keeps s₀ s) :
    KeepsOk s₀ Prod.fst (setWrite s c filled sram a bs) := by
  unfold Machine.setWrite
  refine .ite (.ok h.sramWrite) ?_
  split
  · exact .error
  · split
    · exact .error
    · extract_lets
      exact .ok (.foldlProj (p := Prod.fst) (h.apart (fun _ h => h.devWrite)) (fun _ _ h => h.fillTile))

theorem runWrite {c : SetCfg} {r : SetRun} {a : Nat} {bs : List Byte} (h : Keeps s₀ s) :
    KeepsOk s₀ Prod.fst (runWrite s c r a bs) :=
  .bind h.setWrite (fun _ h => .ok h)

theorem setVerify {c : SetCfg} {a n : Nat} (h : Keeps s₀ s) : KeepsOk s₀ id (setVerify s c a n) := by
  unfold Machine.setVerify
  extract_lets
  split
  · exact .error
  · split
    · exact .error
    · exact .ok (h.apart (fun _ h => h.meterVerify))

theorem setReadVerified {c : SetCfg} {a n : Nat} (h : Keeps s₀ s) : KeepsOk s₀ Prod.fst (setReadVerified s c a n) :=
  .bind h.setVerify fun _ hv => .bind (Keeps.setRead h) fun _ _ => .ok hv

theorem resRead1 {c : SetCfg} {r : ResArea} {a n : Nat} (h : Keeps s₀ s) :
    KeepsOk s₀ Prod.fst (resRead1 s c r a n) := by
  unfold Machine.resRead1
  split
  · exact .error
  · exact h.setReadVerified

theorem resRead {c : SetCfg} {r : ResArea} {i : Nat} (h : Keeps s₀ s) : KeepsOk s₀ Prod.fst (resRead s c r i) := by
  unfold Machine.resRead
  extract_lets
  exact .bind h.resRead1 (fun _ h => .bind h.resRead1 (fun _ h2 => .ok h2))

theorem resWrite {c : SetCfg} {r : ResArea} {i : Nat} {vs : List Val} (h : Keeps s₀ s) :
    KeepsOk s₀ id (resWrite s c r i vs) :=
  .bind h.setWrite (fun _ h => .ok h)

theorem flipRsel {r : ResArea} {used : List Nat} (h : Keeps s₀ s) : Keeps s₀ (flipRsel s r used) := by
  unfold Machine.flipRsel
  refine h.foldl (fun _ _ h => ?_)
  split
  · exact h.hbmWrite.tileSeal
  · exact h

theorem sourceVals {c : SetCfg} {b : SetBody} {i : Nat} (h : Keeps s₀ s) : KeepsOk s₀ Prod.fst (sourceVals s c b i) :=
  .bind h.setRead (fun _ h => .ok h)

theorem localVals {c : SetCfg} {r : SetRun} {i : Nat} (h : Keeps s₀ s) : KeepsOk s₀ Prod.fst (localVals s c r i) := by
  unfold Machine.localVals
  split
  · exact .ok h
  · exact h.sourceVals

theorem deliveryEntry {c : SetCfg} {aux i : Nat} (h : Keeps s₀ s) : KeepsOk s₀ Prod.fst (deliveryEntry s c aux i) :=
  .bind h.setReadVerified (fun _ h => .ok h)

theorem workingChunk {k : Nat} {c : SetCfg} {aux j : Nat} (h : Keeps s₀ s) :
    KeepsOk s₀ Prod.fst (workingChunk s k c aux j) := by
  unfold Machine.workingChunk
  dsimp only
  refine .bind h.deliveryEntry (fun _ h => ?_)
  split
  · exact .error
  · exact h.setRead

/-! ### The operations of `Machine/Sets` -/

theorem updSet {k : Nat} {f : SetSt → SetSt} (h : Keeps s₀ s) : Keeps s₀ (updSet s k f) :=
  h.core rfl

theorem sendOn {n v : Nat} {m : SetMsg} (h : Keeps s₀ s) : Keeps s₀ (sendOn s n v m) :=
  h.sendMsg

theorem sendVote {k : Nat} {c : SetCfg} {dest link : Nat} (h : Keeps s₀ s) : Keeps s₀ (sendVote s k c dest link) := by
  unfold Machine.sendVote
  extract_lets
  exact h.sendOn

theorem floodVote {k : Nat} {c : SetCfg} (h : Keeps s₀ s) : Keeps s₀ (floodVote s k c) :=
  .ite h (.ite (h.foldl (fun _ _ h => h.sendVote)) (h.foldl (fun _ _ h => h.sendVote)))

theorem sendAbort {k : Nat} {c : SetCfg} {cause : Nat} (h : Keeps s₀ s) : Keeps s₀ (sendAbort s k c cause) :=
  h.foldl (fun _ _ h => h.sendOn)

theorem tellUnits {k : Nat} {c : SetCfg} {commit : Bool} (h : Keeps s₀ s) : Keeps s₀ (tellUnits s k c commit) := by
  unfold Machine.tellUnits
  refine h.foldl (fun _ _ h => ?_)
  extract_lets
  exact h.core rfl

theorem decideAbort {k : Nat} {c : SetCfg} {cause : Nat} {flagged : Bool} (h : Keeps s₀ s) :
    Keeps s₀ (decideAbort s k c cause flagged) := by
  unfold Machine.decideAbort
  extract_lets _ s1
  have h1 : Keeps s₀ s1 := .ite h.tellUnits h
  exact .ite (h1.core rfl) (.raiseVector (h1.core rfl))

theorem originateAbort {k : Nat} {c : SetCfg} {cause : Nat} (h : Keeps s₀ s) :
    Keeps s₀ (originateAbort s k c cause) := by
  unfold Machine.originateAbort
  split
  · exact h.sendAbort.decideAbort
  · exact h

theorem failWork {k : Nat} {c : SetCfg} (h : Keeps s₀ s) : Keeps s₀ (failWork s k c) := by
  unfold Machine.failWork
  extract_lets
  exact .decideAbort (.floodVote (h.core rfl))

theorem setErrBit {b : Nat} (h : Keeps s₀ s) : Keeps s₀ (setErrBit s b) :=
  h.core rfl

theorem handleTrouble {k : Nat} {c : SetCfg} {x : Trouble} (h : Keeps s₀ s) : Keeps s₀ (handleTrouble s k c x) := by
  induction x generalizing s with
  | fail => exact h.memError.failWork
  | fence => exact h.originateAbort
  | check => exact h.originateAbort
  | rcheck => exact .originateAbort (h.core rfl)
  | wait => exact h.sendSnoops
  | read a n v why ih =>
    refine ih (h.apart fun _ h => ?_)
    cases v
    · exact h.meterRead
    · exact h.meterVerify

theorem decideCommit {k : Nat} {c : SetCfg} (h : Keeps s₀ s) : Keeps s₀ (decideCommit s k c) := by
  unfold Machine.decideCommit
  extract_lets _ _ _ s1
  have h1 : Keeps s₀ s1 := by
    unfold s1
    split
    · exact h.flipRsel
    · exact h
  exact .foldl (.setSet (.ite h1.tellUnits h1)) (fun _ _ h => h.core rfl)

theorem commitSeen {k p : Nat} (h : Keeps s₀ s) : Keeps s₀ (commitSeen s k p) := by
  unfold Machine.commitSeen
  extract_lets
  split
  · extract_lets
    exact .ite (h.core rfl) (h.core rfl)
  · exact h

theorem takeVote {k : Nat} {c : SetCfg} {link : Nat} {m : SetMsg} (h : Keeps s₀ s) :
    Keeps s₀ (takeVote s k c link m) := by
  unfold Machine.takeVote
  extract_lets
  refine .ite (.ite (.decideCommit (h.core rfl)) (h.core rfl)) ?_
  split
  · exact h
  · refine .ite (h.core rfl) (.ite (.sendVote (h.core rfl)) ?_)
    split
    · exact .sendVote (h.core rfl)
    · exact .ite (.decideCommit (h.core rfl)) (h.core rfl)

theorem earlyVotes {fuel k : Nat} {c : SetCfg} (h : Keeps s₀ s) : Keeps s₀ (earlyVotes fuel s k c) := by
  induction fuel generalizing s k c with
  | zero => exact h
  | succ fuel ih =>
    unfold Machine.earlyVotes
    extract_lets
    refine .ite h ?_
    split
    · exact h
    · exact ih (.takeVote (h.core rfl))

theorem voteEnter {k : Nat} (h : Keeps s₀ s) : Keeps s₀ (voteEnter s k) := by
  unfold Machine.voteEnter
  extract_lets
  split
  · extract_lets _ _ _ s1
    have h1 : Keeps s₀ s1 := by
      unfold s1
      refine .ite (.floodVote (h.core rfl)) ?_
      split
      · exact .sendVote (h.core rfl)
      · exact h.core rfl
    exact .ite h (.ite (.decideAbort (.floodVote (h.core rfl))) h1.earlyVotes)
  · exact h

theorem formHop {k i : Nat} {c : SetCfg} {r : SetRun} {x l : List Val} (h : Keeps s₀ s) :
    KeepsOk s₀ Prod.fst (formHop s k c r i x l) := by
  unfold Machine.formHop
  extract_lets
  refine .ite ?_ (.ok h)
  split
  · exact .error
  · extract_lets
    exact .bind h.resRead fun _ h => .bind h.resWrite fun _ (h : Keeps s₀ _) => .ok (h.core rfl)

theorem formSend {k : Nat} {c : SetCfg} {r : SetRun} {e : ToSend} (h : Keeps s₀ s) :
    KeepsOk s₀ Prod.fst (formSend s k c r e) := by
  unfold Machine.formSend
  split
  · exact .ok h
  · split
    · exact .ok h
    · extract_lets go
      have hgo : ∀ u, KeepsOk s₀ Prod.fst (go u) := by
        intro u
        unfold go
        split
        · exact .bind h.localVals fun _ h => .bind h.formHop fun _ h => .ok h
        · exact .bind h.localVals fun _ h => .bind h.formHop fun _ h => .ok h
        · exact .bind h.localVals fun _ h => .bind h.formHop fun _ h => .ok h
        · exact .bind h.workingChunk fun _ h => .ok h
        · exact .bind h.setRead fun _ h => .ok h
        · exact .bind h.setRead fun _ h => .ok h
      exact .ite .error (hgo ())

theorem sendChunk {k : Nat} {c : SetCfg} {r : SetRun} {e : ToSend} (h : Keeps s₀ s) :
    KeepsOk s₀ id (sendChunk s k c r e) :=
  .bind h.formSend (fun _ h => .ok (.sendOn (h.core rfl)))

theorem pumpGo {k : Nat} {c : SetCfg} {r : SetRun} {es : List ToSend} {blocked : List Nat} {kept : List ToSend}
    (h : Keeps s₀ s) :
    Keeps s₀ (pumpGo k c r es s blocked kept).1 := by
  induction es generalizing k c r s blocked kept with
  | nil => exact h
  | cons x l ih =>
    unfold Machine.pumpGo
    refine .iteProj (p := Prod.fst) (ih h) (.iteProj (p := Prod.fst) (ih h) (.iteProj (p := Prod.fst) h ?_))
    split
    · next e => exact ih (h.sendChunk e)
    · exact h

theorem setLoosely {k : Nat} {f : State → State} (h : Keeps s₀ s) (hf : ∀ t, Keeps s₀ t → Keeps s₀ (f t)) :
    Keeps s₀ (setLoosely s k f) := h.loosely hf

theorem sendDue {k : Nat} (h : Keeps s₀ s) : Keeps s₀ (sendDue s k) := by
  unfold Machine.sendDue
  extract_lets
  split
  · refine .ite h ?_
    split
    rename_i s1 _ _ e
    have h1 : Keeps s₀ s1 := h.pumpGo.ofPair e
    dsimp only
    split
    · exact .handleTrouble (h1.core rfl)
    · exact h1.core rfl
  · exact h

theorem pumpSet {k : Nat} (h : Keeps s₀ s) : Keeps s₀ (pumpSet s k) :=
  h.setLoosely (fun _ h => h.sendDue)

theorem setRun {k : Nat} {r : SetRun} (h : Keeps s₀ s) : Keeps s₀ (setRun s k r) :=
  h.core rfl

theorem deliverChunk {k i link src : Nat} {c : SetCfg} {r : SetRun} {d : List Val} {good : Bool} (h : Keeps s₀ s) :
    KeepsOk s₀ Prod.fst (deliverChunk s k c r i link src d good) :=
  .bind h.deliveryEntry fun _ h => .bind h.sourceVals fun _ h => .ite .error (.ok (h.core rfl))

theorem finishOwn {k : Nat} {c : SetCfg} {r : SetRun} {i link src : Nat} {x l : List Val} (h : Keeps s₀ s) :
    KeepsOk s₀ Prod.fst (finishOwn s k c r i link src x l) := by
  unfold Machine.finishOwn
  split
  · exact h.deliverChunk
  · extract_lets
    exact .bind h.runWrite (fun _ h => .ok h)
  · exact .bind h.formHop (fun _ h => .bind h.runWrite (fun _ h2 => .ok h2))

theorem storeGathered {c : SetCfg} {r : SetRun} {m : SetMsg} {v : Content} (h : Keeps s₀ s) :
    KeepsOk s₀ Prod.fst (storeGathered s c r m v) :=
  .bind h.runWrite (fun _ h => .ok h)

theorem takeReel {k ax d link : Nat} {c : SetCfg} {r : SetRun} {gather : Bool} {m : SetMsg} {v : Content} (h : Keeps s₀ s) :
    KeepsOk s₀ Prod.fst (takeReel s k c r gather ax d link m v) := by
  unfold Machine.takeReel
  extract_lets
  refine .ite (.bind h.storeGathered fun _ h => .ok h) ?_
  split
  · exact .error
  · exact .bind h.localVals fun _ h => .ite (.ite (Keeps.finishOwn h) (.ok h))
      (.bind (Keeps.formHop h) fun _ h => .ok h)

theorem takeQuad {k link : Nat} {c : SetCfg} {r : SetRun} {m : SetMsg} {v : Content} (h : Keeps s₀ s) :
    KeepsOk s₀ Prod.fst (takeQuad s k c r link m v) := by
  unfold Machine.takeQuad
  extract_lets
  refine .ite (.ite (.ok h) (.bind h.sourceVals fun _ h => ?_)) h.storeGathered
  dsimp only
  split
  · exact .bind h.finishOwn fun _ h => .ok h
  · exact h.finishOwn

theorem takeBroadcast {c : SetCfg} {r : SetRun} {m : SetMsg} {v : Content} (h : Keeps s₀ s) :
    KeepsOk s₀ Prod.fst (takeBroadcast s c r m v) :=
  .bind h.storeGathered (fun _ h => .ite (.ok h) (.ok h))

theorem takePermute {c : SetCfg} {r : SetRun} {m : SetMsg} {v : Content} (h : Keeps s₀ s) :
    KeepsOk s₀ Prod.fst (takePermute s c r m v) := by
  unfold Machine.takePermute
  split
  · exact .bind h.runWrite (fun _ h => .ok h)
  · exact .error

theorem closeShare {c : SetCfg} {r : SetRun} {src rows : Nat} (h : Keeps s₀ s) :
    KeepsOk s₀ Prod.fst (closeShare s c r src rows) := by
  unfold Machine.closeShare
  extract_lets
  exact .bind h.runWrite (fun _ h => h.runWrite)

theorem takeRow {c : SetCfg} {r : SetRun} {m : SetMsg} (h : Keeps s₀ s) : KeepsOk s₀ Prod.fst (takeRow s c r m) :=
  .ite (.bind h.closeShare (fun _ h => .ok h)) (.bind h.runWrite (fun _ h => .ok h))

theorem takeContent {k : Nat} {c : SetCfg} {r : SetRun} {link : Nat} {m : SetMsg} {v : Content} (h : Keeps s₀ s) :
    KeepsOk s₀ Prod.fst (takeContent s k c r link m v) := by
  unfold Machine.takeContent
  split
  · exact h.takeBroadcast
  · exact h.takePermute
  · exact h.takeRow
  · refine .ite h.takeQuad ?_
    split
    · exact h.takeReel
    · exact .error

theorem returnWindow {k : Nat} {c : SetCfg} {op : SetOp} {link from_ : Nat} (h : Keeps s₀ s) :
    Keeps s₀ (returnWindow s k c op link from_) := by
  unfold Machine.returnWindow
  extract_lets
  exact .sendOn (h.core rfl)

theorem chunkBad {k : Nat} {c : SetCfg} {link : Nat} {m : SetMsg} (h : Keeps s₀ s) :
    Keeps s₀ (chunkBad s k c link m) := by
  unfold Machine.chunkBad
  extract_lets
  exact .ite (.originateAbort (h.core rfl)) (.sendOn (h.core rfl))

theorem chunkTrouble {k : Nat} {c : SetCfg} {op : SetOp} {link : Nat} {m : SetMsg} {t : Trouble} (h : Keeps s₀ s) :
    Keeps s₀ (chunkTrouble s k c op link m t) := by
  unfold Machine.chunkTrouble
  split
  · exact .sendSnoops (h.core rfl)
  · exact h.returnWindow.handleTrouble
  · exact h.handleTrouble

theorem countBlock {c : SetCfg} {b : SetBody} {m : SetMsg} (h : Keeps s₀ s) : Keeps s₀ (countBlock s c b m) := by
  unfold Machine.countBlock
  extract_lets
  refine .ite ?_ h
  split
  · exact h.core rfl
  · exact h.core rfl
  · exact h

theorem meetChunk {k : Nat} {c : SetCfg} {r : SetRun} {link : Nat} {m : SetMsg} (h : Keeps s₀ s) :
    Keeps s₀ (meetChunk s k c r link m) := by
  unfold Machine.meetChunk
  extract_lets
  refine .ite (.failWork (h.core rfl)) (.ite h.chunkTrouble ?_)
  split
  · refine .ite ?_ h.countBlock.chunkBad
    split
    · next e => exact .setRun (h.deliverChunk e)
    · exact h.chunkTrouble
  · split
    · exact h.chunkTrouble
    · next e =>
      extract_lets s1
      have h1 : Keeps s₀ s1 := .setRun (h.takeContent e)
      exact .pumpSet (.ite h1 h1.returnWindow)

theorem applyChunk {k : Nat} {c : SetCfg} {r : SetRun} {link : Nat} {m : SetMsg} (h : Keeps s₀ s) :
    Keeps s₀ (applyChunk s k c r link m) :=
  h.setLoosely (fun _ h => h.meetChunk)

theorem earlyChunks {fuel k : Nat} (h : Keeps s₀ s) : Keeps s₀ (earlyChunks fuel s k) := by
  induction fuel generalizing s k with
  | zero => exact h
  | succ fuel ih =>
    rw [Machine.earlyChunks]
    split
    · extract_lets
      split
      · exact h
      · exact ih (.applyChunk (h.core rfl))
    · exact h

theorem countStale {k : Nat} (h : Keeps s₀ s) : Keeps s₀ (countStale s k) :=
  h.core rfl

theorem takeKind {n v : Nat} {kind : MsgKind} {x : SetMsg × Option Nat × State} (h : Keeps s₀ s)
    (e : takeKind s n v kind = some x) : Keeps s₀ x.2.2 := by
  unfold Machine.takeKind at e
  split at e
  · exact nomatch e
  · split at e
    · exact nomatch e
    · split at e
      · exact nomatch e
      · next e' => exact Option.some.inj e ▸ h.takeMsg e'

theorem transit {c : SetCfg} {v : Nat} {m : SetMsg} (h : Keeps s₀ s) : Keeps s₀ (transit s c v m) :=
  h.sendOn

theorem chunkReceive {n v : Nat} (h : Keeps s₀ s) : Keeps s₀ (chunkReceive s n v) := by
  unfold Machine.chunkReceive
  split
  · exact h
  · next e => exact h.takeKind e
  · next e =>
    have hk := h.takeKind e
    extract_lets _ s1
    have h1 : Keeps s₀ s1 := .updSet hk
    split
    · exact hk
    · refine .ite hk.transit (.ite hk.countStale ?_)
      split
      · exact h1.core rfl
      · exact .ite (h1.core rfl) h1.applyChunk.earlyChunks

theorem wcredReceive {n v : Nat} (h : Keeps s₀ s) : Keeps s₀ (wcredReceive s n v) := by
  unfold Machine.wcredReceive
  split
  · exact h
  · next e => exact h.takeKind e
  · next e =>
    have hk := h.takeKind e
    extract_lets
    split
    · exact hk
    · extract_lets
      exact .ite hk.transit (.ite hk.countStale hk.setSet.pumpSet)

theorem voteReceive {n v : Nat} (h : Keeps s₀ s) : Keeps s₀ (voteReceive s n v) := by
  unfold Machine.voteReceive
  split
  · exact h
  · next e => exact h.takeKind e
  · next e =>
    have hk := h.takeKind e
    extract_lets
    split
    · exact hk
    · exact .ite hk.countStale (.ite (.decideAbort hk.setSet.floodVote) (.ite hk.takeVote.earlyVotes hk.setSet))

theorem abortReceive {n v : Nat} (h : Keeps s₀ s) : Keeps s₀ (abortReceive s n v) := by
  unfold Machine.abortReceive
  split
  · exact h
  · next e => exact h.takeKind e
  · next e =>
    have hk := h.takeKind e
    extract_lets
    split
    · exact hk
    · exact .ite hk (.ite hk.countStale hk.sendAbort.decideAbort)

theorem nackTaken {k : Nat} {c : SetCfg} {m : SetMsg} (h : Keeps s₀ s) : Keeps s₀ (nackTaken s k c m) := by
  unfold Machine.nackTaken
  extract_lets
  split
  · exact h
  · exact .ite h.originateAbort (.sendOn (h.core rfl))

theorem keptNacks {fuel k : Nat} {c : SetCfg} (h : Keeps s₀ s) : Keeps s₀ (keptNacks fuel s k c) := by
  induction fuel generalizing s k c with
  | zero => exact h
  | succ fuel ih =>
    rw [Machine.keptNacks]
    split
    · exact h
    · exact ih (.nackTaken (h.core rfl))

theorem nackReceive {n v : Nat} (h : Keeps s₀ s) : Keeps s₀ (nackReceive s n v) := by
  unfold Machine.nackReceive
  split
  · exact h
  · next e => exact h.takeKind e
  · next e =>
    have hk := h.takeKind e
    extract_lets
    split
    · exact hk
    · exact .ite hk.transit (.ite hk.countStale (.ite hk.setSet hk.nackTaken))

theorem hopTimeout {k : Nat} (h : Keeps s₀ s) : Keeps s₀ (hopTimeout s k) := by
  unfold Machine.hopTimeout
  extract_lets
  split
  · exact h
  · refine .ite h ?_
    split
    · exact .ite h h.originateAbort
    · exact .raiseVector (h.core rfl)
    · exact h

theorem freezeBoundary {k : Nat} (h : Keeps s₀ s) : Keeps s₀ (freezeBoundary s k) := by
  unfold Machine.freezeBoundary
  extract_lets
  exact .ite (h.core rfl) h

/-! ### The operations of `Machine/SetStart` -/

theorem setEnqueue {c : Nat} (h : Keeps s₀ s) : Keeps s₀ (setEnqueue s c) := by
  unfold Machine.setEnqueue
  split
  · exact h
  · split
    · extract_lets
      refine .ite h ?_
      split
      · exact .ite h.busTake.setErrBit.faultAtIssue h.busTake.setSet
      · exact h.busTake.setSet
    · exact h

theorem deliveryEntries {c : SetCfg} {aux : Nat} {is : List Nat} {es : List (Nat × Nat × Nat)} (h : Keeps s₀ s) :
    KeepsOk s₀ Prod.fst (deliveryEntries c aux is s es) := by
  induction is generalizing c aux s es with
  | nil => exact .ok h
  | cons x l ih =>
    unfold Machine.deliveryEntries
    exact .bind h.deliveryEntry (fun _ h => ih h)

theorem readTables {c : SetCfg} {b : SetBody} (h : Keeps s₀ s) : KeepsOk s₀ Prod.fst (readTables s c b) :=
  .ite (.bind h.setRead (fun _ h => .ok h)) (.ite (.bind h.setRead (fun _ h => .ok h))
    (.ite (.bind h.deliveryEntries (fun _ h => .ok h)) (.ok h)))

theorem startBit {k : Nat} {c : SetCfg} {b : SetBody} (h : Keeps s₀ s) : KeepsOk s₀ Prod.fst (startBit s k c b) :=
  .ite (.ok h) (.ite (.ok h) (.bind h.readTables (fun _ h => .ite (.ok h) (.ite (.ok h) (.ok h)))))

theorem storeOwn {k : Nat} {c : SetCfg} {b : SetBody} {is : List Nat} {r : SetRun} (h : Keeps s₀ s) :
    KeepsOk s₀ Prod.fst (storeOwn k c b is s r) := by
  induction is generalizing k c b s r with
  | nil => exact .ok h
  | cons x l ih =>
    unfold Machine.storeOwn
    exact .ite (.bind h.workingChunk (fun _ h => .bind h.runWrite (fun _ h2 => ih h2)))
      (.bind h.setRead (fun _ h => .bind h.runWrite (fun _ h2 => ih h2)))

theorem permStart {c : SetCfg} {b : SetBody} {is : List Nat} {r : SetRun} (h : Keeps s₀ s) :
    KeepsOk s₀ Prod.fst (permStart c b is s r) := by
  induction is generalizing s r with
  | nil => exact .ok h
  | cons i rest ih =>
    unfold Machine.permStart
    exact .ite .error (.bind h.setRead fun _ h => .ite (.ite (.ok h) (.bind (Keeps.runWrite h) fun _ h => ih h))
      (ih h))

theorem rowsStart {c : SetCfg} {b : SetBody} {ds : List Nat} {r : SetRun} (h : Keeps s₀ s) :
    KeepsOk s₀ Prod.fst (rowsStart c b ds s r) := by
  induction ds generalizing s r with
  | nil => exact .ok h
  | cons d rest ih =>
    unfold Machine.rowsStart
    refine .bind h.setRead fun _ h => .bind (Keeps.setWrite h) fun _ h => .ite
      (.ite (.bind (p := Prod.fst) (.ok h) ?_)
      (.bind (Keeps.runWrite h) ?_)) (ih h)
    all_goals exact fun _ h => .bind (Keeps.closeShare h) fun _ h => ih h

theorem firstEffects {k : Nat} {c : SetCfg} {b : SetBody} (h : Keeps s₀ s) :
    KeepsOk s₀ Prod.fst (firstEffects s k c b) := by
  unfold Machine.firstEffects
  extract_lets
  split
  · exact .ok h
  · exact .ok h
  · exact h.permStart
  · exact .bind h.rowsStart (fun _ h => .ok h)
  · exact .ite (.ok h) (.ite (.ok h) (.ok h))
  · exact .bind h.storeOwn (fun _ h => .ite (.ok h) (.ok h))
  · exact .bind h.storeOwn (fun _ h => .ite (.ok h) (.ok h))
  · exact .ite (.ok h) (.ok h)

theorem roundNext {k : Nat} (h : Keeps s₀ s) : Keeps s₀ (roundNext s k) := by
  unfold Machine.roundNext
  extract_lets
  split
  · exact .ite (h.core rfl) h
  · exact h

theorem redoStarted {k : Nat} (h : Keeps s₀ s) : Keeps s₀ (redoStarted s k) :=
  h.finishPend

theorem takeUp {k : Nat} {b : SetBody} {rest : List SetBody} (h : Keeps s₀ s) : Keeps s₀ (takeUp s k b rest) :=
  .redoStarted (h.core rfl)

theorem descriptorStart {k : Nat} (h : Keeps s₀ s) : Keeps s₀ (descriptorStart s k) := by
  unfold Machine.descriptorStart
  extract_lets s1
  have h1 : Keeps s₀ s1 := h.roundNext
  refine .ite h1 ?_
  split
  · exact h1
  · exact h1.setErrBit.setSet.raiseVector.redoStarted
  · split
    · exact h1.sendSnoops
    · exact h1.takeUp.handleTrouble
    · next e =>
      have h2 : Keeps s₀ _ := h1.startBit e
      exact .ite h2.takeUp.setErrBit.failWork.fillStop h2.takeUp.setErrBit.failWork
    · next e =>
      have h2 : Keeps s₀ _ := h1.startBit e
      split
      · exact h2.sendSnoops
      · exact h2.takeUp.handleTrouble
      · next e' =>
        have h3 : Keeps s₀ _ := h2.firstEffects e'
        exact .ite h3.takeUp.setErrBit.failWork (.pumpSet (.earlyChunks h3.takeUp.setRun))

theorem fenceSets {p : Nat} (h : Keeps s₀ s) : Keeps s₀ (fenceSets s p) := by
  unfold Machine.fenceSets
  refine h.foldl (fun _ _ h => ?_)
  extract_lets
  split
  · exact .ite h.originateAbort h
  · exact h

/-! ### The operations of `Machine/Update` -/

theorem updWrite {a : Nat} {bs : List Byte} (h : Keeps s₀ s) : Keeps s₀ (updWrite s a bs) :=
  h.devWrite.sealWhole

theorem meterGets {gs : List UpdGet} (h : Keeps s₀ s) : Keeps s₀ (meterGets s gs) := by
  induction gs generalizing s with
  | nil => exact h
  | cons x l ih =>
    unfold Machine.meterGets
    exact .ite (.ite h.meterVerify h.meterRead) (ih (.ite h.meterVerify h.meterRead))

theorem asmEvict {p : Nat} (h : Keeps s₀ s) : Keeps s₀ (asmEvict s p) := by
  unfold Machine.asmEvict
  extract_lets
  split
  · exact .ite (.updWrite (h.core rfl)) h
  · exact h

theorem asmTile {p gi : Nat} {g : UGroup} {tag c : Nat} {t : TilePiece} {bs : List Byte} (h : Keeps s₀ s) :
    Keeps s₀ (asmTile s p gi g tag c t bs) := by
  unfold Machine.asmTile
  extract_lets _ _ _ _ s1
  have h1 : Keeps s₀ s1 := h.meterGets.setUpd
  exact .ite h1.updWrite h1.asmEvict.setUpd

theorem asmPut {p gi : Nat} {g : UGroup} {tag c : Nat} {ts : List TilePiece} {bs : List Byte} (h : Keeps s₀ s) :
    Keeps s₀ (asmPut p gi g tag c ts bs s) := by
  induction ts generalizing p gi g tag c bs s with
  | nil => exact h
  | cons x l ih =>
    unfold Machine.asmPut
    exact ih h.asmTile

theorem setUpdErr {p b : Nat} (h : Keeps s₀ s) : Keeps s₀ (setUpdErr s p b) := by
  unfold Machine.setUpdErr
  extract_lets
  exact h.core rfl

theorem updSlowFail {p addr : Nat} (h : Keeps s₀ s) : Keeps s₀ (updSlowFail s p addr) :=
  h.setUpdErr.memError

theorem chunkFails {p : Nat} {f : UFail} (h : Keeps s₀ s) : Keeps s₀ (chunkFails s p f) := by
  unfold Machine.chunkFails
  extract_lets
  split
  · exact h.core rfl
  · exact .memError (h.core rfl)

theorem updPark {p slot : Nat} {f : Park → Park} (h : Keeps s₀ s) : Keeps s₀ (updPark s p slot f) := by
  unfold Machine.updPark
  extract_lets
  exact h.core rfl

theorem freePark {p slot : Nat} (h : Keeps s₀ s) : Keeps s₀ (freePark s p slot) := by
  unfold Machine.freePark
  extract_lets
  exact h.core rfl

theorem clearMap {p : Nat} {g : UGroup} (h : Keeps s₀ s) : Keeps s₀ (clearMap s p g) :=
  .ite h.hbmWrite h

theorem clearMaps {p k : Nat} (h : Keeps s₀ s) : Keeps s₀ (clearMaps s p k) :=
  h.foldl (fun _ _ h => h.clearMap)

theorem openRound {p : Nat} {d : Deliv} (h : Keeps s₀ s) : Keeps s₀ (openRound s p d) := by
  unfold Machine.openRound
  extract_lets
  exact .ite h (.setUpd (.ite h.clearMaps h))

theorem chunkTaken {d : Deliv} (h : Keeps s₀ s) : Keeps s₀ (chunkTaken s d) := by
  unfold Machine.chunkTaken
  split
  · extract_lets
    exact .ite h (.returnWindow (h.core rfl))
  · exact h

theorem reportBad {d : Deliv} (h : Keeps s₀ s) : Keeps s₀ (reportBad s d) := by
  unfold Machine.reportBad
  extract_lets
  split
  · extract_lets
    exact .chunkBad (h.core rfl)
  · exact h

theorem pumpPark {fuel p slot : Nat} (h : Keeps s₀ s) : Keeps s₀ (pumpPark fuel s p slot) := by
  induction fuel generalizing s p slot with
  | zero => exact h
  | succ fuel ih =>
    rw [Machine.pumpPark]
    split
    · exact h
    · split
      · exact h
      · extract_lets
        exact .ite h (.ite h.updPark.updSlowFail (ih h.sendD2h.updPark))

theorem parkChunk {p slot : Nat} {d : Deliv} {g : UGroup} (h : Keeps s₀ s) : Keeps s₀ (parkChunk s p slot d g) := by
  unfold Machine.parkChunk
  extract_lets
  exact h.updWrite.setUpd.pumpPark

theorem chunkGood {p : Nat} {d : Deliv} {g : UGroup} (h : Keeps s₀ s) : Keeps s₀ (chunkGood s p d g) := by
  unfold Machine.chunkGood
  extract_lets _ f s1
  have h1 : Keeps s₀ s1 := h.openRound.meterGets
  cases f with
  | some f => exact h1.chunkFails
  | none =>
    refine .ite (h1.core rfl) (.ite ?_ (h1.core rfl))
    split
    · exact h1.parkChunk
    · exact h1

theorem chunkArrive {p : Nat} (h : Keeps s₀ s) : Keeps s₀ (chunkArrive s p) := by
  unfold Machine.chunkArrive
  extract_lets
  refine .ite h ?_
  split
  · exact h
  · split
    · next e => exact h.hostHolds e
    · refine .ite (h.core rfl) (.ite (.reportBad (.setUpdErr (h.core rfl))) ?_)
      split
      · exact .chunkTaken (.setUpdErr (h.core rfl))
      · exact .ite (.chunkTaken (.setUpdErr (h.core rfl)))
          (.chunkTaken (.apart (h.core rfl) (fun _ h => h.chunkGood)))

theorem pushAll {p : Nat} {rs : List CRec} (h : Keeps s₀ s) : Keeps s₀ (pushAll s p rs) :=
  h.foldl (fun _ _ h => h.pushCensus)

theorem closeGroup {p gi : Nat} {g : UGroup} {step : W32} (h : Keeps s₀ s) : Keeps s₀ (closeGroup s p gi g step) := by
  unfold Machine.closeGroup
  extract_lets
  exact .ite h.hbmWrite.setUpd.pushAll h

theorem writeFast {p gi : Nat} {g : UGroup} {d : Deliv} {o : ChunkOut} (h : Keeps s₀ s) :
    Keeps s₀ (writeFast s p gi g d o) := by
  unfold Machine.writeFast
  extract_lets _ _ _ _ s1
  have h1 : Keeps s₀ s1 := .ite h.updWrite.updWrite h.updWrite
  exact .asmPut (.ite h1.updWrite h1)

theorem sealStage {p gi : Nat} {g : UGroup} {d : Deliv} (h : Keeps s₀ s) : Keeps s₀ (sealStage s p gi g d) := by
  unfold Machine.sealStage
  extract_lets
  exact h.foldl (fun _ _ h => h.sealWhole)

theorem writeSlow {p slot : Nat} {g : UGroup} {d : Deliv} {o : ChunkOut} (h : Keeps s₀ s) :
    Keeps s₀ (writeSlow s p slot g d o) := by
  unfold Machine.writeSlow
  extract_lets
  exact h.devWrite.sealStage.updPark.pumpPark

theorem countChunk {p gi : Nat} {g : UGroup} {d : Deliv} {o : ChunkOut} (h : Keeps s₀ s) :
    Keeps s₀ (countChunk s p gi g d o) := by
  unfold Machine.countChunk
  extract_lets
  exact h.hbmWrite.setUpd.closeGroup

theorem chunkDup {p : Nat} (h : Keeps s₀ s) : Keeps s₀ (chunkDup s p) := by
  unfold Machine.chunkDup
  extract_lets
  exact h.core rfl

theorem chunkRun {p : Nat} {g : UGroup} {d : Deliv} {slot : Option Nat} (h : Keeps s₀ s) :
    Keeps s₀ (chunkRun s p g d slot) := by
  unfold Machine.chunkRun
  extract_lets _ _ _ _ _ _ _ s1
  have h1 : Keeps s₀ s1 := h.meterGets.setUpd
  split
  · exact h1.writeFast.countChunk
  · exact h1.writeSlow

theorem chunkNext {p : Nat} {g : UGroup} {d : Deliv} {slot : Option Nat} (h : Keeps s₀ s) :
    Keeps s₀ (chunkNext s p g d slot) := by
  unfold Machine.chunkNext
  split
  · exact h.meterGets.chunkFails
  · extract_lets s1
    have h1 : Keeps s₀ s1 := h.meterGets.chunkDup
    refine .ite ?_ ?_
    · split
      · exact h1.freePark
      · exact h1
    · split
      · exact h.meterGets.chunkFails
      · exact h.meterGets.chunkRun

theorem chunkApplied {p : Nat} (h : Keeps s₀ s) : Keeps s₀ (chunkApplied s p) := by
  unfold Machine.chunkApplied
  extract_lets
  refine .ite h ?_
  split
  · exact h
  · extract_lets drop
    have hd : Keeps s₀ (drop s) := h.core rfl
    split
    · exact hd
    · split
      · next e => exact h.hostHolds e
      · exact hd.apart fun _ h => h.chunkNext

theorem parkArrive {p slot : Nat} (h : Keeps s₀ s) : Keeps s₀ (parkArrive s p slot) := by
  unfold Machine.parkArrive
  extract_lets
  split
  · exact h
  · refine .ite h ?_
    split
    · extract_lets _ _ s1
      have h1 : Keeps s₀ s1 := h.apart (fun _ h => h.devWrite.sealAll)
      split
      · next e => exact h.hostHolds e
      · exact .ite h1.updPark.setUpd h1.updPark
    · exact h

theorem parkCount {p slot : Nat} {d : Deliv} {g : UGroup} {o : ChunkOut} (h : Keeps s₀ s) :
    Keeps s₀ (parkCount s p slot d g o) := by
  unfold Machine.parkCount
  extract_lets f s1
  have h1 : Keeps s₀ s1 := h.freePark.meterGets
  cases f with
  | some f => exact h1.chunkFails
  | none => exact .ite h1.chunkDup h1.countChunk

theorem parkDone {p slot : Nat} (h : Keeps s₀ s) : Keeps s₀ (parkDone s p slot) := by
  unfold Machine.parkDone
  split
  · exact h
  · split
    · split
      · next e => exact h.hostHolds e
      · exact h.apart (fun _ h => h.parkCount)
    · exact h

theorem parkSlowDone {p slot : Nat} {r : D2h} {ok : Bool} {data : List Byte} (h : Keeps s₀ s) :
    Keeps s₀ (parkSlowDone s p slot r ok data) := by
  unfold Machine.parkSlowDone
  split
  · exact h
  · extract_lets
    exact .ite (.ite h.freePark h.updPark) (.ite h.updPark.updSlowFail h.updPark.pumpPark)

theorem roundApplied {p k : Nat} (h : Keeps s₀ s) : Keeps s₀ (roundApplied s p k) := by
  unfold Machine.roundApplied
  extract_lets
  exact .ite (.foldl (h.core rfl) (fun _ _ h => .ite (h.core rfl) h)) h

theorem roundCommit {p k : Nat} (h : Keeps s₀ s) : Keeps s₀ (roundCommit s p k) := by
  unfold Machine.roundCommit
  extract_lets
  refine .ite h (.ite (.ite h ?_) (.setUpdErr (h.core rfl)))
  split
  · next e => exact h.hostHolds e
  · exact .setUpd (h.apart (fun _ h => h.hbmWrite))

theorem advanceTag {p k : Nat} (h : Keeps s₀ s) : Keeps s₀ (advanceTag s p k) := by
  unfold Machine.advanceTag
  extract_lets
  exact .setUpd (.ite h.clearMaps h)

theorem commitVisible {p k : Nat} (h : Keeps s₀ s) : Keeps s₀ (commitVisible s p k) := by
  unfold Machine.commitVisible
  extract_lets
  refine .ite h ?_
  split
  · next e => exact h.hostHolds e
  · exact .commitSeen (.advanceTag (.setUpd (h.apart (fun _ h => h.hbmWrite))))

theorem abortParks {p k : Nat} (h : Keeps s₀ s) : Keeps s₀ (abortParks s p k) :=
  h.foldl (fun _ _ h => .ite h.freePark h.updPark)

theorem roundAbort {p k : Nat} (h : Keeps s₀ s) : Keeps s₀ (roundAbort s p k) := by
  unfold Machine.roundAbort
  extract_lets
  refine .ite h (.ite ?_ (.setUpdErr (h.core rfl)))
  split
  · next e => exact h.hostHolds e
  · exact .advanceTag (.abortParks (h.core rfl))

theorem meterRecord {crec : W32} (h : Keeps s₀ s) : Keeps s₀ (meterRecord s crec) :=
  h.meterHbm.meterHbm

theorem updRestore {p : Nat} (h : Keeps s₀ s) : Keeps s₀ (updRestore s p) := by
  unfold Machine.updRestore
  extract_lets
  exact .foldl (.setUpd (.meterRecord (.ite h.meterHbm h))) (fun _ _ h => h.clearMap)

/-! ### The operations of `Machine/Records` -/

theorem setCensus {p : Nat} {x : Census} (h : Keeps s₀ s) : Keeps s₀ (setCensus s p x) :=
  h.core rfl

theorem putRecord {p cls : Nat} {bs : List Byte} (h : Keeps s₀ s) : Keeps s₀ (putRecord s p cls bs) := by
  unfold Machine.putRecord
  extract_lets _ _ s1
  have h1 : Keeps s₀ s1 := h.apart (fun _ h => h.hbmWrite)
  exact .setCensus (.ite h1.tileSeal h1)

theorem crossing {p : Nat} {r : CRec} {veto : List Nat} (h : Keeps s₀ s) : Keeps s₀ (crossing s p r veto) := by
  unfold Machine.crossing
  extract_lets _ _ _ _ s1
  have h1 : Keeps s₀ s1 := .ite (.raiseVector (h.core rfl)) (h.core rfl)
  exact .foldl (.ite h1 (h1.core rfl)) (fun _ _ h => h.core rfl)

theorem ringHolds {p : Nat} (h : Keeps s₀ s) (e : ringHolds s p = some t) : Keeps s₀ t := by
  simp only [Machine.ringHolds, Option.ite_none_left_eq_some] at e
  exact h.hostHolds e.2

theorem recordWrite {p : Nat} (h : Keeps s₀ s) : Keeps s₀ (recordWrite s p) := by
  unfold Machine.recordWrite
  extract_lets
  refine .ite h ?_
  split
  · exact h
  · next e => exact h.ringHolds e
  · extract_lets _ _ _ s1 s2
    have h1 : Keeps s₀ s1 := h.core rfl
    have h2 : Keeps s₀ s2 := .ite h1.crossing h1
    exact .ite h2 (.ite h2.setCensus h2.putRecord)

theorem mergeWrite {p : Nat} (h : Keeps s₀ s) : Keeps s₀ (mergeWrite s p) := by
  unfold Machine.mergeWrite
  extract_lets
  refine .ite h ?_
  split
  · exact h
  · next e => exact h.ringHolds e
  · exact .putRecord h.setCensus

theorem cfgErr {p : Nat} (h : Keeps s₀ s) : Keeps s₀ (cfgErr s p) := by
  unfold Machine.cfgErr
  extract_lets
  exact h.core rfl

theorem cringCfg {p : Nat} {v : W32} (h : Keeps s₀ s) : Keeps s₀ (cringCfg s p v) := by
  unfold Machine.cringCfg
  extract_lets
  exact .ite (.ite (.ite (h.core rfl) h.cfgErr) (.ite h h.cfgErr)) (h.core rfl)

theorem cringBase {p : Nat} {v : W32} (h : Keeps s₀ s) : Keeps s₀ (cringBase s p v) := by
  unfold Machine.cringBase
  extract_lets
  exact .ite h.cfgErr (h.core rfl)

theorem cringTail {p : Nat} {v : W32} (h : Keeps s₀ s) : Keeps s₀ (cringTail s p v) := by
  unfold Machine.cringTail
  extract_lets
  exact .ite h.cfgErr (h.core rfl)

/-! ### The operations of `Machine/Expanders` -/

theorem setCmpErr {p b : Nat} (h : Keeps s₀ s) : Keeps s₀ (setCmpErr s p b) :=
  h.core rfl

theorem setExpQueue {p k : Nat} {q : List ExpAct} (h : Keeps s₀ s) : Keeps s₀ (setExpQueue s p k q) := by
  unfold Machine.setExpQueue
  extract_lets
  exact h.core rfl

theorem expandIssue {c : Nat} (h : Keeps s₀ s) : Keeps s₀ (expandIssue s c) := by
  unfold Machine.expandIssue
  split
  · exact h
  · split
    · extract_lets
      exact .ite h (.ite h.busTake.setExpQueue h.busTake.setCmpErr.faultAtIssue)
    · exact h

theorem expTraffic {p k : Nat} {a : ExpAct} (h : Keeps s₀ s) : Keeps s₀ (expTraffic s p k a) := by
  unfold Machine.expTraffic
  extract_lets
  refine h.meterVerify.foldl (fun _ _ h => ?_)
  extract_lets
  exact h.meterRead

theorem expanderStart {p k : Nat} (h : Keeps s₀ s) : Keeps s₀ (expanderStart s p k) := by
  unfold Machine.expanderStart
  split
  · exact h
  · extract_lets
    exact .ite h (.ite h.sendSnoops h.expTraffic.setExpQueue)

theorem pumpExpander {fuel p k : Nat} (h : Keeps s₀ s) : Keeps s₀ (pumpExpander fuel s p k) := by
  induction fuel generalizing s p k with
  | zero => exact h
  | succ fuel ih =>
    unfold Machine.pumpExpander
    split
    · exact h
    · split
      · exact h
      · extract_lets
        exact .ite h (.ite h.setExpQueue (ih h.sendD2h.setExpQueue))

theorem writeBlocks {sram : Bool} {bs : List (Nat × List Byte)} (h : Keeps s₀ s) :
    Keeps s₀ (writeBlocks s sram bs).1 := by
  induction bs generalizing s sram with
  | nil => exact h
  | cons x l ih =>
    unfold Machine.writeBlocks
    refine .iteProj (p := Prod.fst) (ih h.sramWrite) (.iteProj (p := Prod.fst) (ih h) ?_)
    split
    · exact h.devWrite
    · exact ih h.devWrite

theorem expanderFinish {p k : Nat} {a : ExpAct} (h : Keeps s₀ s) : Keeps s₀ (expanderFinish s p k a) := by
  unfold Machine.expanderFinish
  extract_lets _ s1 flt _ s2 _ s3 s4 s5
  have h1 : Keeps s₀ s1 := h.writeBlocks
  have h2 : Keeps s₀ s2 := .ite h1.sealAll h1
  have h3 : Keeps s₀ s3 := .setExpQueue (h2.core rfl)
  have h4 : Keeps s₀ s4 := by
    unfold s4
    split
    · exact h3.memError
    · exact h3
  have h5 : Keeps s₀ s5 := by
    unfold s5
    cases flt with
    | some f => exact h4.memError
    | none => exact h4
  exact .ite h5.faultInRun (.ite (h5.core rfl) h5)

theorem expanderEnd {p k : Nat} {a : ExpAct} {rest : List ExpAct} (h : Keeps s₀ s) :
    Keeps s₀ (expanderEnd s p k a rest) := by
  unfold Machine.expanderEnd
  extract_lets
  exact .ite (.ite h.expanderFinish h.setExpQueue.pumpExpander)
    (.ite h.sendSnoops (h.apart (fun _ h => h.expanderFinish)))

theorem expanderComplete {p k : Nat} (h : Keeps s₀ s) : Keeps s₀ (expanderComplete s p k) := by
  unfold Machine.expanderComplete
  split
  · exact h
  · exact .ite h (h.loosely (fun _ h => h.expanderEnd))

theorem expanderSlowDone {p k : Nat} {r : D2h} {ok : Bool} (h : Keeps s₀ s) :
    Keeps s₀ (expanderSlowDone s p k r ok) := by
  unfold Machine.expanderSlowDone
  split
  · exact h
  · extract_lets
    exact h.setExpQueue.pumpExpander

/-! ### The operations of `Machine/Cxl` -/

theorem setHerr {b : Nat} (h : Keeps s₀ s) : Keeps s₀ (setHerr s b) :=
  .raiseVector (h.core rfl)

theorem answer {o : Out} (h : Keeps s₀ s) : Keeps s₀ (answer s o) :=
  h.core rfl

theorem hostRefused {h : HostAcc} {b : Nat} (hs : Keeps s₀ s) : Keeps s₀ (hostRefused s h b) := by
  unfold Machine.hostRefused
  split
  · exact hs.setHerr
  · extract_lets
    exact .ite hs.setHerr.setHerr.answer hs.setHerr.answer

theorem hostServe {h : HostAcc} (hs : Keeps s₀ s) : Keeps s₀ (hostServe s h) := by
  unfold Machine.hostServe
  split
  · exact hs.devWrite
  · extract_lets
    exact .ite hs.meterRead.setHerr.answer hs.meterRead.answer

theorem hostAccess {h : HostAcc} (hs : Keeps s₀ s) : Keeps s₀ (hostAccess s h) := by
  unfold Machine.hostAccess
  split
  · exact hs.hostRefused
  · extract_lets
    exact .ite (hs.core rfl) (.ite (.sendSnoops (hs.core rfl)) hs.hostServe)

theorem hostRetry (h : Keeps s₀ s) : Keeps s₀ (hostRetry s) :=
  .foldl (h.core rfl) (fun _ _ h => h.hostAccess)

theorem hostRead {mem : Bool} {a n : Nat} (h : Keeps s₀ s) : Keeps s₀ (hostRead s mem a n) :=
  h.hostAccess

theorem hostWrite {mem : Bool} {a : Nat} {bs : List Byte} (h : Keeps s₀ s) : Keeps s₀ (hostWrite s mem a bs) :=
  h.hostAccess

theorem bar2Read {a n : Nat} (h : Keeps s₀ s) : Keeps s₀ (bar2Read s a n) :=
  .ite h.hostRead h

theorem bar2Write {a : Nat} {bs : List Byte} (h : Keeps s₀ s) : Keeps s₀ (bar2Write s a bs) :=
  .ite h.hostWrite h

theorem cxlMemRead {a : Nat} (h : Keeps s₀ s) : Keeps s₀ (cxlMemRead s a) :=
  .ite h.hostRead h

theorem cxlMemWrite {a : Nat} {bs : List Byte} (h : Keeps s₀ s) : Keeps s₀ (cxlMemWrite s a bs) :=
  .ite h.hostWrite h

theorem giveUpLines (h : Keeps s₀ s) : Keeps s₀ (giveUpLines s) := by
  unfold Machine.giveUpLines
  extract_lets
  exact h.sendSnoops

theorem retrack {ls : List TrackLine} (h : Keeps s₀ s) : Keeps s₀ (retrack s ls) :=
  .giveUpLines (h.core rfl)

theorem lineTake {line : Nat} {excl : Bool} (h : Keeps s₀ s) : Keeps s₀ (lineTake s line excl) := by
  unfold Machine.lineTake
  refine .ite h ?_
  split
  · exact h.setHerr.setHerr.answer
  · exact .ite (h.core rfl) (.giveUpLines (h.core rfl))

theorem wakeSets (h : Keeps s₀ s) : Keeps s₀ (wakeSets s) :=
  h.hostRetry.foldl (fun _ _ h => .ite h.earlyChunks.pumpSet h)

theorem lineData {line : Nat} {data : List Byte} (h : Keeps s₀ s) : Keeps s₀ (lineData s line data) := by
  unfold Machine.lineData
  extract_lets
  exact .ite h.memError h.hbmWrite

theorem lateWriteback {line : Nat} (h : Keeps s₀ s) : Keeps s₀ (lateWriteback s line) :=
  .setHerr (h.core rfl)

theorem birsp {line : Nat} {data : Option (List Byte)} (h : Keeps s₀ s) : Keeps s₀ (birsp s line data) := by
  unfold Machine.birsp
  split
  · exact .ite h.lateWriteback h
  · extract_lets s1
    have h1 : Keeps s₀ s1 := by
      unfold s1
      split
      · exact h.lineData
      · exact h
    exact h1.retrack.wakeSets

theorem writeback {line : Nat} {data : List Byte} (h : Keeps s₀ s) : Keeps s₀ (writeback s line data) := by
  unfold Machine.writeback
  extract_lets
  exact .ite h.lineData.retrack.wakeSets (.ite h.lateWriteback h)

theorem d2hDone {r : D2h} {ok : Bool} {data : List Byte} (h : Keeps s₀ s) : Keeps s₀ (d2hDone s r ok data) := by
  unfold Machine.d2hDone
  refine .ite (h.core rfl) ?_
  split
  · exact h.moverSlowDone
  · exact h.parkSlowDone
  · exact h.expanderSlowDone
  · exact h.cipSlowDone

theorem pumpSlow (h : Keeps s₀ s) : Keeps s₀ (pumpSlow s) := by
  unfold Machine.pumpSlow
  extract_lets _ _ s1
  have h1 : Keeps s₀ s1 := by
    unfold s1
    refine .foldl (h.cipPump.foldl (fun _ _ h => h.foldl (fun _ _ h2 => .ite h2 h2.pumpMover))) (fun _ _ h => ?_)
    refine h.foldl (fun _ _ h2 => ?_)
    split
    · exact .ite h2 h2.pumpExpander
    · exact h2
  exact h1.foldl (fun _ _ h => h.foldl (fun _ _ h2 => .ite h2 h2.pumpPark))

theorem slowCompletion {id : Nat} {ok : Bool} {data : List Byte} (h : Keeps s₀ s) :
    Keeps s₀ (slowCompletion s id ok data) := by
  unfold Machine.slowCompletion
  split
  · exact h
  · extract_lets
    exact .pumpSlow (.d2hDone (h.core rfl))

theorem cxlDown (h : Keeps s₀ s) : Keeps s₀ (cxlDown s) := by
  unfold Machine.cxlDown
  extract_lets
  exact .ite (.wakeSets (.pumpSlow (.foldl (h.core rfl) (fun _ _ h => h.d2hDone)))) (h.core rfl)

theorem loadLost {p : Pend} (h : Keeps s₀ s) : Keeps s₀ (loadLost s p) := by
  unfold Machine.loadLost
  split
  · exact h.core rfl
  · exact h.core rfl
  · exact h

theorem mailboxesReset (h : Keeps s₀ s) : Keeps s₀ (mailboxesReset s) := by
  unfold Machine.mailboxesReset
  extract_lets
  exact .update (h.foldl (fun _ _ h => h.loadLost)) rfl

theorem perst (h : Keeps s₀ s) : Keeps s₀ (perst s) := by
  unfold Machine.perst
  extract_lets
  exact .mailboxesReset (.update (.updSec (.spdmReset (.ite h.cxlDown h))) rfl)

theorem perstRelease {width rate : Nat} (h : Keeps s₀ s) : Keeps s₀ (perstRelease s width rate) :=
  .ite (h.core rfl) (h.core rfl)

/-! ### The operations of `Machine/Chotin` -/

theorem updFar {f : Far → Far} (h : Keeps s₀ s) : Keeps s₀ (updFar s f) :=
  h.core rfl

theorem setPartner {e : Nat} {p : Partner} (h : Keeps s₀ s) : Keeps s₀ (setPartner s e p) :=
  h.core rfl

theorem updPartner {e : Nat} {f : Partner → Partner} (h : Keeps s₀ s) : Keeps s₀ (updPartner s e f) :=
  h.core rfl

theorem setFarErr {b : Nat} (h : Keeps s₀ s) : Keeps s₀ (setFarErr s b) :=
  h.core rfl

theorem sendFrame {e : Nat} {b : FrameBody} (h : Keeps s₀ s) : Keeps s₀ (sendFrame s e b) := by
  unfold Machine.sendFrame
  extract_lets
  split
  · extract_lets
    exact .ite h.setCipErr (h.core rfl)
  · exact h

theorem sendSeg {e : Nat} {x : SendSel} {k : Nat} (h : Keeps s₀ s) : Keeps s₀ (sendSeg s e x k) := by
  unfold Machine.sendSeg
  extract_lets s1
  have h1 : Keeps s₀ s1 := by
    unfold s1
    refine .ite h ?_
    split
    · exact h.meterRead
    · exact h
  exact h1.sendFrame.updPartner

theorem pacedNext {e n : Nat} {p : Partner} {go : State → State} (hp : pacedNext s e p = some (n, go)) (h : Keeps s₀ t) :
    Keeps s₀ (go t) := by
  unfold Machine.pacedNext at hp
  split at hp
  · exact (Prod.mk.inj (Option.some.inj hp)).2 ▸ h.sendSeg
  · simp only [Option.ite_none_right_eq_some, Option.some.injEq, Prod.mk.injEq] at hp
    exact hp.2.2 ▸ h.sendFrame

theorem setTurn {port e : Nat} (h : Keeps s₀ s) : Keeps s₀ (setTurn s port e) :=
  h.core rfl

theorem sendNext {port : Nat} {l : List (Nat × Partner)} (h : Keeps s₀ s) (e : sendNext s port l = some t) :
    Keeps s₀ t := by
  induction l with
  | nil => exact nomatch e
  | cons x l ih =>
    simp only [Machine.sendNext] at e
    split at e
    · exact ih e
    · next hp =>
      split at e
      · exact ih e
      · exact Option.some.inj e ▸ .setTurn (pacedNext hp h.setPartner)

theorem portPump {port fuel : Nat} (h : Keeps s₀ s) : Keeps s₀ (portPump port fuel s) := by
  induction fuel generalizing port s with
  | zero => exact h
  | succ fuel ih =>
    unfold Machine.portPump
    split
    · next e => exact ih (h.sendNext e)
    · exact h

theorem farPump (h : Keeps s₀ s) : Keeps s₀ (farPump s) := by
  unfold Machine.farPump
  extract_lets s1
  have h1 : Keeps s₀ s1 := h.portPump.portPump
  exact .ite h1.setCipErr h1

theorem sendSel {e : Nat} {bulk : Bool} {round : Nat} {data : List Byte} (h : Keeps s₀ s) :
    Keeps s₀ (sendSel s e bulk round data) := by
  unfold Machine.sendSel
  extract_lets
  exact h.core rfl

theorem sendSack {e : Nat} {r : RecvSel} (h : Keeps s₀ s) : Keeps s₀ (sendSack s e r) := by
  unfold Machine.sendSack
  extract_lets
  exact h.sendFrame.updPartner

theorem takeSack {e : Nat} {body : List Byte} (h : Keeps s₀ s) : Keeps s₀ (takeSack s e body) := by
  unfold Machine.takeSack
  extract_lets
  split
  · exact h
  · extract_lets _ _ _ _ _ _ _ s1
    have h1 : Keeps s₀ s1 := .sendFrame (h.core rfl)
    exact .ite (.ite (.ite h1 (h1.core rfl)) (h.core rfl)) (.farPump (h.core rfl))

theorem openFrame {f : Frame} (h : Keeps s₀ s) : Keeps s₀ (openFrame s f).1 := by
  unfold Machine.openFrame
  split
  · exact h.core rfl
  · extract_lets
    split
    · exact h.core rfl
    · split
      · exact h.core rfl
      · extract_lets
        exact .iteProj (p := Prod.fst) (h.core rfl) (h.core rfl)

theorem overlapEnd {e : Nat} (h : Keeps s₀ s) : Keeps s₀ (overlapEnd s e) := by
  unfold Machine.overlapEnd
  extract_lets
  split
  · exact .ite (h.core rfl) h
  · exact h

theorem keysErase (h : Keeps s₀ s) : Keeps s₀ (keysErase s) :=
  h.core rfl

theorem sackTimer {e : Nat} (h : Keeps s₀ s) : Keeps s₀ (sackTimer s e) :=
  h.foldl (fun _ _ h => h.sendSack)

theorem rtoExpiry {e k : Nat} (h : Keeps s₀ s) : Keeps s₀ (rtoExpiry s e k) := by
  unfold Machine.rtoExpiry
  extract_lets
  split
  · exact h
  · exact .farPump (h.core rfl)

theorem probeTimer (h : Keeps s₀ s) : Keeps s₀ (probeTimer s) :=
  h.foldl (fun _ _ h => h.sendFrame)

theorem helloTimer {e : Nat} (h : Keeps s₀ s) : Keeps s₀ (helloTimer s e) := by
  unfold Machine.helloTimer
  extract_lets
  exact .ite h (.farPump (h.core rfl))

theorem portTested {n code : Nat} (h : Keeps s₀ s) : Keeps s₀ (portTested s n code) :=
  .ite (h.core rfl) h

theorem dropFrame {n : Nat} (h : Keeps s₀ s) : Keeps s₀ (dropFrame s n) :=
  .ite (h.core rfl) h

theorem ndAnswer {n : Nat} {target : BitVec 128} (h : Keeps s₀ s) : Keeps s₀ (ndAnswer s n target) := by
  unfold Machine.ndAnswer
  extract_lets
  exact .ite h (h.core rfl)

theorem echo {n : Nat} {dst : BitVec 128} {data : List Byte} (h : Keeps s₀ s) : Keeps s₀ (echo s n dst data) :=
  .ite h (h.core rfl)

theorem ppsEdge {sub : Nat} (h : Keeps s₀ s) : Keeps s₀ (ppsEdge s sub) := by
  unfold Machine.ppsEdge
  extract_lets
  exact h.core rfl

/-! ### The operations of `Machine/FarRound` -/

theorem farWrite {a : Nat} {bs : List Byte} (h : Keeps s₀ s) : Keeps s₀ (farWrite s a bs) :=
  h.devWrite.sealAll

theorem farPut {a : Nat} {bs : List Byte} (h : Keeps s₀ s) : Keeps s₀ (farPut s a bs) :=
  h.devWrite.sealWhole

theorem meterFar {cls : Nat} {rs : List (Nat × Nat)} (h : Keeps s₀ s) : Keeps s₀ (meterFar s cls rs) :=
  h.foldl (fun _ _ h => h.meterVerify)

theorem farFails {p : Nat} {f : UFail} (h : Keeps s₀ s) : Keeps s₀ (farFails s p f) := by
  unfold Machine.farFails
  split
  · exact h.core rfl
  · exact h.memError.setFarErr

theorem selPass {budget es : Nat} {cs : List SelChunk} {w : SelWalk} {bs : List Byte} {n : Nat} (h : Keeps s₀ s) :
    Keeps s₀ (selPass budget es cs w s bs n).1 := by
  induction cs generalizing budget es w s bs n with
  | nil => exact h
  | cons x l ih =>
    unfold Machine.selPass
    exact .iteProj (p := Prod.fst) (ih h.farWrite.farWrite.farWrite) (ih h.farWrite.farWrite.farWrite)

theorem farVoid {b : Nat} (h : Keeps s₀ s) : Keeps s₀ (farVoid s b) :=
  .raiseVector (h.core rfl)

theorem farSelect (h : Keeps s₀ s) : Keeps s₀ (farSelect s) := by
  unfold Machine.farSelect
  split
  · exact h
  · extract_lets
    exact .ite h (h.core rfl)

theorem setRecv {e : Nat} {r : RecvSel} (h : Keeps s₀ s) : Keeps s₀ (setRecv s e r) :=
  h.core rfl

theorem refuseStale {e : Nat} {r : RecvSel} (h : Keeps s₀ s) : Keeps s₀ (refuseStale s e r) :=
  h.core rfl

theorem refuseSel {e : Nat} {r : RecvSel} (h : Keeps s₀ s) : Keeps s₀ (refuseSel s e r) :=
  h.core rfl

theorem ageOut {c : FarCfg} (h : Keeps s₀ s) : Keeps s₀ (ageOut s c) :=
  h.foldl (fun _ _ h => h.refuseStale)

theorem sumPlanes {again : Bool} {ts : List FarTerm} {xs : List (FarG × Nat)} (h : Keeps s₀ s) :
    KeepsOk s₀ id (sumPlanes again ts xs s) := by
  induction xs generalizing again ts s with
  | nil => exact .ok h
  | cons x l ih =>
    unfold Machine.sumPlanes
    split
    · exact .error
    · exact ih h.farWrite

theorem farStop (h : Keeps s₀ s) : Keeps s₀ (farStop s) :=
  h.core rfl

theorem closeSum {again : Bool} (h : Keeps s₀ s) : Keeps s₀ (closeSum s again) := by
  unfold Machine.closeSum
  extract_lets
  refine .ite (h.core rfl) ?_
  split
  · exact h.farFails.farStop
  · next e =>
    refine .sumPlanes ?_ e
    exact .ite h h.meterFar

theorem closeTake {c : FarCfg} {again : Bool} (h : Keeps s₀ s) : Keeps s₀ (closeTake s c again) := by
  unfold Machine.closeTake
  refine .ite (h.core rfl) (.closeSum (.foldl (.foldl (.updFar (.foldlProj (p := Prod.fst) h (fun _ _ h => ?_)))
    (fun _ _ h => ?_)) (fun _ _ h => ?_)))
  · extract_lets
    split
    · exact h.meterRead
    · exact h.meterRead.refuseSel
  · split
    · exact h.core rfl
    · exact h
  · split
    · split
      · exact h.sendSack
      · exact h
    · exact h

theorem farClose {c : FarCfg} {forced : Bool} (h : Keeps s₀ s) : Keeps s₀ (farClose s c forced) := by
  unfold Machine.farClose
  extract_lets
  exact .apart (.ite (.raiseVector (h.core rfl)) (h.core rfl)) (fun _ h => h.closeTake)

theorem tryClose (h : Keeps s₀ s) : Keeps s₀ (tryClose s) := by
  unfold Machine.tryClose
  split
  · exact h
  · refine .ite h ?_
    split
    · next e => exact h.hostHolds e
    · exact h.farClose

theorem giveSelection {e : Nat} (h : Keeps s₀ s) : Keeps s₀ (giveSelection s e) :=
  .ite h.sendSel h

theorem farOpen {c : FarCfg} (h : Keeps s₀ s) : Keeps s₀ (farOpen s c) := by
  unfold Machine.farOpen
  extract_lets
  exact .tryClose (.farPump (.foldl (.ageOut (h.core rfl)) (fun _ _ h => h.giveSelection)))

theorem selectComplete (h : Keeps s₀ s) : Keeps s₀ (selectComplete s) := by
  unfold Machine.selectComplete
  split
  · exact h
  · refine .ite h (.ite h.farVoid ?_)
    split
    split
    · next e => exact h.hostHolds e
    · extract_lets s1
      have h1 : Keeps s₀ s1 := h.meterFar.meterFar
      split
      · exact h1.farFails.farVoid
      · extract_lets
        refine .ite h1.farVoid ?_
        split
        rename_i s2 _ _ e
        have h2 : Keeps s₀ s2 := h1.selPass.ofPair e
        exact .farOpen (.updFar h2.farPut)

theorem farApplyChunk {c : FarCfg} {x : FarG} {n : Nat} {step : W32} (h : Keeps s₀ s) :
    KeepsOk s₀ id (farApplyChunk s c x n step) := by
  have hr : ∀ {a n}, KeepsOk s₀ (fun _ => s) (updRead s a n) := fun _ => h
  exact .bind hr fun _ _ => .bind hr fun _ _ => .bind hr fun _ _ => .bind hr fun _ _ =>
    .ok (.farWrite (.devWrite h.updWrite))

theorem applyGroup {c : FarCfg} {x : FarG} {step : W32} (h : Keeps s₀ s) : KeepsOk s₀ id (applyGroup s c x step) := by
  have hr : ∀ {a n}, KeepsOk s₀ (fun _ => s) (updRead s a n) := fun _ => h
  exact .bind hr fun _ _ => .bind (.foldlM h.updWrite fun _ _ h => h.farApplyChunk) fun _ h => .ok (Keeps.sealAll h)

theorem flipParity {p k : Nat} (h : Keeps s₀ s) : Keeps s₀ (flipParity s p k) := by
  unfold Machine.flipParity
  extract_lets
  exact h.hbmWrite.setUpd

theorem meterApply {c : FarCfg} {xs : List FarG} (h : Keeps s₀ s) : Keeps s₀ (meterApply s c xs) := by
  unfold Machine.meterApply
  extract_lets
  exact h.meterFar.meterFar

theorem applyPart {c : FarCfg} {p : Nat} {step : W32} (h : Keeps s₀ s) : KeepsOk s₀ id (applyPart s c p step) :=
  .bind (.foldlM h.meterApply fun _ _ h => h.applyGroup) fun _ h => .ok (.updFar (.flipParity (Keeps.hbmWrite h)))

theorem applyDone {c : FarCfg} (h : Keeps s₀ s) : Keeps s₀ (applyDone s c) :=
  .ite (.raiseVector (h.core rfl)) h

theorem applyAll {c : FarCfg} {step : W32} {ps : List Nat} (h : Keeps s₀ s) : Keeps s₀ (applyAll c step ps s) := by
  induction ps generalizing c step s with
  | nil => exact h.applyDone
  | cons x l ih =>
    unfold Machine.applyAll
    refine .ite (h.core rfl) ?_
    split
    · next e => exact ih (h.applyPart e)
    · exact h.farFails.farStop

theorem staleJoins (h : Keeps s₀ s) : Keeps s₀ (staleJoins s) := by
  unfold Machine.staleJoins
  extract_lets _ s1
  have h1 : Keeps s₀ s1 := by
    unfold s1
    refine h.foldl (fun _ _ h => ?_)
    extract_lets
    exact h.sendFrame.updPartner
  exact h1.core rfl

theorem farApply (h : Keeps s₀ s) : Keeps s₀ (farApply s) := by
  unfold Machine.farApply
  split
  · exact h
  · extract_lets _ s1 s2
    have h1 : Keeps s₀ s1 := .ite h.farClose h
    have h2 : Keeps s₀ s2 := h1.core rfl
    refine .ite h ?_
    split
    · next e => exact h.hostHolds (Option.ite_none_right_eq_some.1 e).2
    · refine .ite h1 ?_
      split
      split
      · next e => exact h2.hostHolds e
      · exact .applyAll (.ite h2.staleJoins h2)

theorem farRepeat (h : Keeps s₀ s) : Keeps s₀ (farRepeat s) := by
  unfold Machine.farRepeat
  extract_lets
  refine .farApply ?_
  split
  · exact .ite (.closeTake (h.core rfl)) (.closeSum (h.core rfl))
  · exact h.core rfl

theorem joinReq {e : Nat} (h : Keeps s₀ s) : Keeps s₀ (joinReq s e) := by
  unfold Machine.joinReq
  split
  · exact h
  · refine .ite h ?_
    split
    · next e => exact h.hostHolds e
    · split
      · exact h.farFails
      · extract_lets
        exact .ite h.sendFrame h.meterFar.updFar.sendSel.farPump

theorem noteSeg {e : Nat} {r : RecvSel} {seg : Nat} (h : Keeps s₀ s) : Keeps s₀ (noteSeg s e r seg) := by
  unfold Machine.noteSeg
  extract_lets
  exact .ite (.sendSack (h.core rfl)) (h.core rfl)

theorem bulkSeg {e : Nat} {b : FrameBody} (h : Keeps s₀ s) : Keeps s₀ (bulkSeg s e b) := by
  unfold Machine.bulkSeg
  split
  · exact h
  · extract_lets s1
    have h1 : Keeps s₀ s1 := .ite h (h.core rfl)
    refine .ite h (.ite (h.core rfl) ?_)
    split
    · refine .ite (.noteSeg (h1.core rfl)) ?_
      split
      · next e =>
        refine .hostHolds ?_ e
        exact h1.core rfl
      · exact .ite (h1.core rfl) (.noteSeg (.farPut (h1.core rfl)))
    · exact h1.core rfl

theorem bulkEnd {e : Nat} {stale : Bool} (h : Keeps s₀ s) : Keeps s₀ (bulkEnd s e stale) := by
  unfold Machine.bulkEnd
  split
  · exact h
  · extract_lets
    exact .ite h (.ite (h.core rfl) (.sendFrame (h.core rfl)))

theorem joinComplete (h : Keeps s₀ s) : Keeps s₀ (joinComplete s) := by
  unfold Machine.joinComplete
  split
  · refine .ite h (.ite (.finishPend (h.core rfl)) ?_)
    split
    · exact h
    · refine .ite h ?_
      split
      · next e => exact h.hostHolds e
      · extract_lets
        exact .finishPend (.sendPost (.updPartner (.updFar (h.foldl (fun _ _ h => h.farWrite.farWrite)))))
  · exact h

theorem recvWhole {c : FarCfg} {e : Nat} {r : RecvSel} (h : Keeps s₀ s) : Keeps s₀ (recvWhole s c e r) :=
  .ite h (.ite h.refuseStale (.setRecv (h.foldl (fun _ _ h => h.farPut))))

theorem takeSeg {c : FarCfg} {e : Nat} {r : RecvSel} {seg : Nat} (h : Keeps s₀ s) :
    Keeps s₀ (takeSeg s c e r seg) := by
  unfold Machine.takeSeg
  extract_lets
  split
  · exact h.noteSeg.recvWhole
  · exact h.noteSeg

theorem storeSeg {c : FarCfg} {e : Nat} {r : RecvSel} {b : FrameBody} (h : Keeps s₀ s) :
    Keeps s₀ (storeSeg s c e r b) := by
  unfold Machine.storeSeg
  extract_lets
  refine .ite h.takeSeg (.ite h.takeSeg ?_)
  split
  · next e => exact h.hostHolds e
  · exact .ite h h.farPut.takeSeg

theorem dataSeg {e : Nat} {b : FrameBody} (h : Keeps s₀ s) : Keeps s₀ (dataSeg s e b) := by
  unfold Machine.dataSeg
  split
  · exact h
  · extract_lets s1
    have h1 : Keeps s₀ s1 := .ite h (h.core rfl)
    split
    · exact h1
    · exact .ite h1.noteSeg (.ite h1.refuseSel.noteSeg h1.storeSeg.tryClose)

theorem wakePartner {e : Nat} (h : Keeps s₀ s) : Keeps s₀ (wakePartner s e) := by
  unfold Machine.wakePartner
  extract_lets
  exact .ite (.farPump (.giveSelection (h.core rfl))) h

theorem unpin (h : Keeps s₀ s) : Keeps s₀ (unpin s) :=
  .ite h (h.core rfl)

theorem partnerLeft {e : Nat} (h : Keeps s₀ s) : Keeps s₀ (partnerLeft s e) :=
  .tryClose (.unpin (h.core rfl))

theorem probeReply {e tx : Nat} (h : Keeps s₀ s) : Keeps s₀ (probeReply s e tx) := by
  unfold Machine.probeReply
  extract_lets
  exact h.sendFrame

theorem takeReply {e : Nat} {body : List Byte} (h : Keeps s₀ s) : Keeps s₀ (takeReply s e body) := by
  unfold Machine.takeReply
  extract_lets
  exact .ite (h.core rfl) (h.core rfl)

theorem frameTake {e tx : Nat} {b : FrameBody} (h : Keeps s₀ s) : Keeps s₀ (frameTake s e tx b) := by
  unfold Machine.frameTake
  split
  · exact h.dataSeg
  · exact h.takeSack
  · exact h.probeReply
  · exact h.takeReply
  · exact h.joinReq
  · exact h.bulkSeg
  · exact h.bulkEnd
  · exact h.partnerLeft
  · exact h

theorem frameIn {t port : Nat} {f : Frame} (h : Keeps s₀ s) : Keeps s₀ (frameIn t port f s) := by
  unfold Machine.frameIn
  extract_lets
  refine .ite h ?_
  split
  · exact h.openFrame
  · exact h.openFrame.wakePartner.frameTake

theorem reservedFrame {port : Nat} {f : Frame} (h : Keeps s₀ s) : Keeps s₀ (reservedFrame port f s) :=
  .ite (h.core rfl) h

theorem silence {e : Nat} (h : Keeps s₀ s) : Keeps s₀ (silence s e) := by
  unfold Machine.silence
  extract_lets
  exact .ite (.tryClose (h.core rfl)) h

theorem idlePeriod (h : Keeps s₀ s) : Keeps s₀ (idlePeriod s) := by
  unfold Machine.idlePeriod
  extract_lets s1
  have h1 : Keeps s₀ s1 := h.spanPeriod.clockPeriod
  exact .ite h1.farPump h1

theorem fenceFar (h : Keeps s₀ s) : Keeps s₀ (fenceFar s) :=
  .ite h.farVoid h

theorem meterFarRecord {a : Nat} (h : Keeps s₀ s) : Keeps s₀ (meterFarRecord s a) :=
  h.meterHbm.meterHbm

theorem farRestore {p : Nat} (h : Keeps s₀ s) : Keeps s₀ (farRestore s p) := by
  unfold Machine.farRestore
  split
  · exact h
  · extract_lets s1
    have h1 : Keeps s₀ s1 := h.meterFarRecord
    split
    · exact h1
    · extract_lets
      exact .updFar (.ite h1.flipParity h1)

theorem frecRestore {p : Nat} (h : Keeps s₀ s) : Keeps s₀ (frecRestore s p) := by
  unfold Machine.frecRestore
  split
  · exact h
  · exact h.core rfl

/-! ### The operations of `Machine/Bindery` -/

theorem updBnd {f : Bnd → Bnd} (h : Keeps s₀ s) : Keeps s₀ (updBnd s f) :=
  h.core rfl

theorem setBndRun {r : BndRun} (h : Keeps s₀ s) : Keeps s₀ (setBndRun s r) :=
  h.core rfl

theorem startJobs {fuel : Nat} (h : Keeps s₀ s) : Keeps s₀ (startJobs fuel s) := by
  induction fuel generalizing s with
  | zero => exact h
  | succ fuel ih =>
    unfold Machine.startJobs
    split
    · extract_lets
      exact .ite (h.core rfl) (ih (.raiseVector (h.core rfl)))
    · exact h

theorem endJob (h : Keeps s₀ s) : Keeps s₀ (endJob s) := by
  unfold Machine.endJob
  extract_lets
  exact .startJobs (.raiseVector (h.core rfl))

theorem stopJob {b : Nat} (h : Keeps s₀ s) : Keeps s₀ (stopJob s b) :=
  .endJob (h.core rfl)

theorem jobStopped (h : Keeps s₀ s) : Keeps s₀ (jobStopped s) := by
  unfold Machine.jobStopped
  split
  · exact .ite h.endJob.finishPend h
  · exact h

theorem jobRecord {p : Nat} {r : CRec} (h : Keeps s₀ s) : Keeps s₀ (jobRecord s p r) := by
  unfold Machine.jobRecord
  extract_lets
  exact .ite h.pushCensus (.ite h.crossing h)

theorem jobComplete (h : Keeps s₀ s) : Keeps s₀ (jobComplete s) := by
  unfold Machine.jobComplete
  split
  · exact h
  · extract_lets s1 s2
    have h1 : Keeps s₀ s1 := by
      unfold s1
      split
      · exact h.jobRecord
      · exact h
    have h2 : Keeps s₀ s2 := by
      unfold s2
      split
      · exact h1.jobRecord
      · exact h1
    exact .ite h h2.endJob

theorem readEntries {r : BndRun} (h : Keeps s₀ s) : Keeps s₀ (readEntries s r) := by
  unfold Machine.readEntries
  dsimp only
  refine .ite h ?_
  split
  · next e => exact h.hostHolds e
  · refine .updBnd (.setBndRun (.foldlProj (p := Prod.fst) (h.foldl (fun _ _ h => h.meterRead)) (fun _ _ h => ?_)))
    split
    · exact h.memError
    · exact h

theorem claimNext {j : Nat} (h : Keeps s₀ s) : Keeps s₀ (claimNext s j) := by
  unfold Machine.claimNext
  split
  · exact h
  · exact .ite (h.core rfl) h

theorem headerPoll {j : Nat} (h : Keeps s₀ s) : Keeps s₀ (headerPoll s j) := by
  unfold Machine.headerPoll
  split
  · exact h
  · extract_lets _ s1 _ s2 s3
    have h1 : Keeps s₀ s1 := h.meterVerify
    have h2 : Keeps s₀ s2 := h1.setBndRun
    have h3 : Keeps s₀ s3 := .ite h2.readEntries h2
    clear_value s3 s2 s1
    refine .ite h ?_
    split
    · next e => exact h.hostHolds e
    · split
      · exact h.stopJob
      · exact h.memError.stopJob
      · exact .ite h1 h3.claimNext

theorem clipStart {d : Nat} (h : Keeps s₀ s) : Keeps s₀ (clipStart s d) := by
  unfold Machine.clipStart
  split
  · exact h
  · refine .ite h ?_
    split
    · exact h
    · extract_lets
      refine .ite ?_ h
      split
      · next e => exact h.hostHolds e
      · exact h.devWrite.sealWhole.updBnd

theorem sealRows {r : BndRun} {places : List (Nat × Nat)} (h : Keeps s₀ s) : Keeps s₀ (sealRows s r places) := by
  unfold Machine.sealRows
  refine h.foldl (fun _ _ h => ?_)
  split
  · exact h
  · extract_lets
    exact h.foldl (fun _ _ h2 => .ite h2.sealAll h2)

theorem emitRows {r : BndRun} {die : Nat} {good : Bool} {c : Clip} {es : List Byte} {places : List (Nat × Nat)}
    (h : Keeps s₀ s) :
    Keeps s₀ (emitRows s r die good c es places).1 := by
  unfold Machine.emitRows
  refine .foldlProj (p := Prod.fst) h (fun _ _ h => ?_)
  extract_lets
  exact .iteProj (p := Prod.fst) h.devWrite h.devWrite

theorem clipDone {d : Nat} (h : Keeps s₀ s) : Keeps s₀ (clipDone s d) := by
  unfold Machine.clipDone
  split
  · extract_lets _ _ _ _ _ _ s1
    have h1 : Keeps s₀ s1 := h.meterRead.meterVerify
    refine .ite h.stopJob.finishPend (.ite h ?_)
    split
    · next e => exact h.hostHolds e
    · refine .sealRows (.updBnd (.setBndRun (.emitRows ?_)))
      split
      · exact h1.memError
      · split
        · exact h1.memError
        · exact h1
        · exact h1
  · exact h

theorem headerWrite {g : Nat} (h : Keeps s₀ s) : Keeps s₀ (headerWrite s g) := by
  unfold Machine.headerWrite
  split
  · exact h
  · split
    · exact h
    · extract_lets
      refine .ite h ?_
      split
      · next e => exact h.hostHolds e
      · exact .setBndRun (.sealWhole (.devWrite (.ite h.devWrite.sealWhole h)))

theorem pieceHandoff (h : Keeps s₀ s) : Keeps s₀ (pieceHandoff s) := by
  unfold Machine.pieceHandoff
  split
  · exact h
  · split
    · exact h
    · extract_lets
      exact .ite h (.updBnd (.setBndRun (.sendPost (.ite (.setLoopReg (h.core rfl)) (h.core rfl)))))

theorem fenceBindery {p : Nat} (h : Keeps s₀ s) : Keeps s₀ (fenceBindery s p) := by
  unfold Machine.fenceBindery
  split
  · exact h
  · extract_lets
    exact .ite h.stopJob.finishPend (h.core rfl)

/-! ### The operations of `Machine/Fill` -/

theorem fillStopErr {b : Nat} (h : Keeps s₀ s) : Keeps s₀ (fillStopErr s b) :=
  .raiseVector (h.core rfl)

theorem fillFlow {k : Nat} (h : Keeps s₀ s) : Keeps s₀ (fillFlow s k) :=
  h.core rfl

theorem fillControl {m : Meas} (h : Keeps s₀ s) : Keeps s₀ (fillControl s m) := by
  unfold Machine.fillControl
  split
  · exact h.core rfl
  · exact h.core rfl
  · extract_lets
    exact .ite h h.setLoopReg.fillFlow
  · exact h.setLoopReg
  · exact h

theorem fillFetch (h : Keeps s₀ s) : Keeps s₀ (fillFetch s) := by
  unfold Machine.fillFetch
  split
  · exact h
  · exact .apart (h.core rfl) (fun _ h => h.meterVerify)

theorem fillIssue {m : Meas} (h : Keeps s₀ s) : Keeps s₀ (fillIssue s m) := by
  unfold Machine.fillIssue
  extract_lets _ _ s1
  have h1 : Keeps s₀ s1 := h.consumeWaits.entriesCorrected
  exact .poisonedActs (.update (.ite (.fillControl (h1.core rfl)) (h1.core rfl)) rfl)

theorem fillDue {m : Meas} (h : Keeps s₀ s) : Keeps s₀ (fillDue s m) := by
  unfold Machine.fillDue
  split
  · exact .fillStop (h.core rfl)
  · exact .fillStop (.memError (h.core rfl))
  · exact .fillStop (h.core rfl)
  · exact .ite h.fillStop (.ite h.fillStopErr (.ite h.fillStopErr (.ite h (.ite h.fillStopErr h.fillIssue))))

theorem fillTest (h : Keeps s₀ s) : Keeps s₀ (fillTest s) := by
  unfold Machine.fillTest
  extract_lets
  exact .ite h.fillStopErr (.ite h (.ite h.sendSnoops h.fillFetch.fillDue))

theorem fillSpanEnd (h : Keeps s₀ s) : Keeps s₀ (fillSpanEnd s) := by
  unfold Machine.fillSpanEnd
  extract_lets _ _ _ s1
  have h1 : Keeps s₀ s1 := by
    unfold s1
    split
    · exact .ownPost (h.core rfl)
    · exact h.core rfl
  exact .ite (.raiseVector (h1.core rfl)) h1

theorem fillMeasureIssue (h : Keeps s₀ s) : Keeps s₀ (fillMeasureIssue s) := by
  unfold Machine.fillMeasureIssue
  extract_lets s1
  have h1 : Keeps s₀ s1 := h.fillSpanEnd
  exact .ite h (.ite h.fillStop (.ite h (.ite h1.fillTest h1)))

theorem fillBite (h : Keeps s₀ s) : Keeps s₀ (fillBite s) := by
  unfold Machine.fillBite
  extract_lets
  exact .ite (.fillStop (.recordBite (h.core rfl))) h

theorem reclaimStart {c : Nat} (h : Keeps s₀ s) : Keeps s₀ (reclaimStart s c) :=
  .ite (.suspendCore (h.core rfl)) h

theorem fillLoadsEnd {e : Nat} (h : Keeps s₀ s) : Keeps s₀ (fillLoadsEnd s e) :=
  h.foldl (fun _ _ h => h.weightLoaded)

theorem reclaimComplete {c : Nat} (h : Keeps s₀ s) : Keeps s₀ (reclaimComplete s c) := by
  unfold Machine.reclaimComplete
  extract_lets
  exact .ite (.update (h.foldl (fun _ _ h => h.fillLoadsEnd)) rfl) h

/-! ### The operations of `Machine/Power` -/

theorem updPwr {f : Pwr → Pwr} (h : Keeps s₀ s) : Keeps s₀ (updPwr s f) :=
  h.core rfl

theorem sendVid {code : Nat} (h : Keeps s₀ s) : Keeps s₀ (sendVid s code) := by
  unfold Machine.sendVid
  extract_lets
  exact .ite (h.core rfl) h

theorem markHalf {half : Bool} (h : Keeps s₀ s) : Keeps s₀ (markHalf s half) :=
  .ite h (h.core rfl)

theorem setPwrCfg {c : PwrConfig} (h : Keeps s₀ s) : Keeps s₀ (setPwrCfg s c) := by
  unfold Machine.setPwrCfg
  extract_lets _ _ s1 s2
  have h1 : Keeps s₀ s1 := h.markHalf.updPwr
  have h2 : Keeps s₀ s2 := .ite h1.sendVid h1
  exact .ite (h2.foldl (fun _ _ h => h.pump)) h2

theorem pointDone (h : Keeps s₀ s) : Keeps s₀ (pointDone s) := by
  unfold Machine.pointDone
  extract_lets
  exact .sendVid (h.core rfl)

theorem pointOne (h : Keeps s₀ s) : Keeps s₀ (pointOne s) := by
  unfold Machine.pointOne
  extract_lets
  exact h.pointDone.updPwr.sendVid.updPwr

theorem powerSample {r : Reading} (h : Keeps s₀ s) : Keeps s₀ (powerSample s r) := by
  unfold Machine.powerSample
  extract_lets
  exact .ite h (h.core rfl)

theorem setTrims {x : PwrConfig × List Nat} (h : Keeps s₀ s) : Keeps s₀ (setTrims s x) :=
  h.setPwrCfg.updPwr

theorem controlStep (h : Keeps s₀ s) : Keeps s₀ (controlStep s) := by
  unfold Machine.controlStep
  extract_lets
  refine .ite h (.ite (h.core rfl) (.ite (.ite (.setPwrCfg (h.core rfl)) (.setTrims (h.core rfl)))
    (.ite ?_ (h.core rfl))))
  split
  · exact .setTrims (h.core rfl)
  · exact .ite (.setPwrCfg (h.core rfl)) (h.core rfl)

theorem dutyGateEnd {cycles : Nat} (h : Keeps s₀ s) : Keeps s₀ (dutyGateEnd s cycles) := by
  unfold Machine.dutyGateEnd
  extract_lets
  exact .ite h (h.core rfl)

theorem floorTest (h : Keeps s₀ s) : Keeps s₀ (floorTest s) := by
  unfold Machine.floorTest
  extract_lets
  exact .ite (.raiseVector (.updPwr (.ite h h.setTrims))) (h.core rfl)

theorem setCap {cap : Nat} (h : Keeps s₀ s) : Keeps s₀ (setCap s cap) := by
  unfold Machine.setCap
  extract_lets _ _ s1
  have h1 : Keeps s₀ s1 := .floorTest (h.core rfl)
  exact .ite (h1.core rfl) h1

theorem setPavane {on : Bool} (h : Keeps s₀ s) : Keeps s₀ (setPavane s on) := by
  unfold Machine.setPavane
  extract_lets _ _ s1
  have h1 : Keeps s₀ s1 := .ite (.setTrims (h.core rfl)) (h.core rfl)
  exact .ite h1.floorTest h1

theorem brakeOn (h : Keeps s₀ s) : Keeps s₀ (brakeOn s) := by
  unfold Machine.brakeOn
  extract_lets
  exact .raiseVector (.setTrims (h.core rfl))

theorem brakeAssert (h : Keeps s₀ s) : Keeps s₀ (brakeAssert s) := by
  unfold Machine.brakeAssert
  extract_lets
  exact .ite h (.ite (.brakeOn (h.core rfl)) (h.core rfl))

theorem brakeRelease (h : Keeps s₀ s) : Keeps s₀ (brakeRelease s) := by
  unfold Machine.brakeRelease
  extract_lets
  refine .ite h ?_
  split
  · exact .ite (.setTrims (h.core rfl)) (.setTrims (h.core rfl))
  · exact h.core rfl

theorem tipFlushAll {p : Nat} (h : Keeps s₀ s) : Keeps s₀ (tipFlushAll s p) := by
  unfold Machine.tipFlushAll
  extract_lets
  exact .updTip (h.foldl (fun _ _ h => h.tipFlush))

theorem haltDevice {cause : Nat} (h : Keeps s₀ s) : Keeps s₀ (haltDevice s cause) := by
  unfold Machine.haltDevice
  extract_lets
  exact .update (h.foldl (fun _ _ h => h.tipFlushAll)) rfl

theorem hotMarks (h : Keeps s₀ s) : Keeps s₀ (hotMarks s) :=
  .ite (.raiseVector (h.core rfl)) h

theorem setLevels {lv : Levels} (h : Keeps s₀ s) : Keeps s₀ (setLevels s lv) :=
  .hotMarks (h.core rfl)

theorem thermalThreshold {temp sensor : Nat} (h : Keeps s₀ s) : Keeps s₀ (thermalThreshold s temp sensor) :=
  .ite h (.hotMarks (h.core rfl))

theorem thermalTrip {temp sensor : Nat} (h : Keeps s₀ s) : Keeps s₀ (thermalTrip s temp sensor) := by
  unfold Machine.thermalTrip
  extract_lets
  exact .ite h h.thermalThreshold.updPwr.haltDevice

theorem coolantLoss (h : Keeps s₀ s) : Keeps s₀ (coolantLoss s) := by
  unfold Machine.coolantLoss
  extract_lets
  exact .ite h (.ite (.haltDevice (h.core rfl)) (h.core rfl))

theorem refclkStop (h : Keeps s₀ s) : Keeps s₀ (refclkStop s) := by
  unfold Machine.refclkStop
  extract_lets
  exact .ite (.haltDevice (h.core rfl)) (h.core rfl)

theorem refclkReturn (h : Keeps s₀ s) : Keeps s₀ (refclkReturn s) :=
  h.core rfl

/-! ### The operations of `Machine/Memory` -/

theorem tipWait {p : Nat} {w : TipWait} (h : Keeps s₀ s) : Keeps s₀ (tipWait s p w) :=
  h.updTip

theorem takeWait {p : Nat} {fresh : Bool} {w : TipWait} (h : Keeps s₀ s) : Keeps s₀ (takeWait s p fresh w) := by
  unfold Machine.takeWait
  extract_lets
  exact .ite h.tipWait (.ite (.ite h.tipWait h.writeNow) (.ite h.updTip h.updTip.tipWait))

theorem tipRetry {p : Nat} (h : Keeps s₀ s) : Keeps s₀ (tipRetry s p) :=
  h.updTip.foldl (fun _ _ h => h.takeWait)

theorem windowWrite {p off : Nat} {data : List Byte} {cls : Nat} (h : Keeps s₀ s) :
    Keeps s₀ (windowWrite s p off data cls) := by
  unfold Machine.windowWrite
  extract_lets
  exact .ite (.ite h.memError h) (.ite h.takeWait.tipRetry h.takeWait)

theorem wholeLine {p line : Nat} {data : List Byte} {cls : Nat} (h : Keeps s₀ s) :
    Keeps s₀ (wholeLine s p line data cls) :=
  h.windowWrite

theorem partialWrite {p off : Nat} {data : List Byte} {cls : Nat} (h : Keeps s₀ s) :
    Keeps s₀ (partialWrite s p off data cls) :=
  h.windowWrite

theorem idleFlush {p line : Nat} (h : Keeps s₀ s) : Keeps s₀ (idleFlush s p line) :=
  h.updTip

theorem lineFreed {p line : Nat} (h : Keeps s₀ s) : Keeps s₀ (lineFreed s p line) := by
  unfold Machine.lineFreed
  split
  · exact .ite h.tipFlush.tipRetry h
  · exact h

theorem tipFenceStart {p : Nat} (h : Keeps s₀ s) : Keeps s₀ (tipFenceStart s p) :=
  h.updTip

theorem tipFenceDone {p : Nat} (h : Keeps s₀ s) : Keeps s₀ (tipFenceDone s p) :=
  h.updTip

theorem updRegs {p : Nat} {f : Regs → Regs} (h : Keeps s₀ s) : Keeps s₀ (updRegs s p f) := by
  unfold Machine.updRegs
  extract_lets
  exact h.core rfl

theorem classWrite {p c : Nat} {v : W32} (h : Keeps s₀ s) : Keeps s₀ (classWrite s p c v) :=
  h.updRegs

theorem loosenGil (h : Keeps s₀ s) : Keeps s₀ (loosenGil s) := by
  unfold Machine.loosenGil
  extract_lets
  exact h.core rfl

theorem gilWrite {v : W32} (h : Keeps s₀ s) : Keeps s₀ (gilWrite s v) := by
  unfold Machine.gilWrite
  extract_lets
  exact .update (.ite h.loosenGil h) rfl

/-! ### The operations of `Machine/Start` -/

theorem chipReset {keepHbm : Bool} (h : Keeps s₀ s) : Keeps s₀ (chipReset s keepHbm) := by
  refine h.trans ⟨rfl, rfl, fun hi => ⟨?_, rfl, rfl, rfl⟩⟩
  cases keepHbm
  · rfl
  · exact hi.hbm

theorem startInputs (h : Keeps s₀ s) : Keeps s₀ (startInputs s) := by
  unfold Machine.startInputs
  extract_lets s1
  have h1 : Keeps s₀ s1 := .hotMarks (.ite h.brakeOn h)
  exact .ite (.haltDevice (h1.core rfl)) (.ite h1.haltDevice h1)

theorem startDevice {warm : Bool} (h : Keeps s₀ s) : Keeps s₀ (startDevice s warm) := by
  unfold Machine.startDevice
  extract_lets
  exact .startInputs (.floorTest (.update h.chipReset rfl))

theorem wake (h : Keeps s₀ s) : Keeps s₀ (wake s) :=
  .ite h (.ite h.startDevice (h.core rfl))

theorem recordLoad (h : Keeps s₀ s) : Keeps s₀ (recordLoad s) := by
  unfold Machine.recordLoad
  extract_lets
  exact h.core rfl

theorem setSlotState {slot : Bool} {v : SlotSt} (h : Keeps s₀ s) : Keeps s₀ (setSlotState s slot v) :=
  h.core rfl

theorem bootKeys {pufOk : Bool} (h : Keeps s₀ s) : Keeps s₀ (bootKeys s pufOk) :=
  .ite h (.ite h.haltDevice (h.core rfl))

theorem runImage {slot fallback : Bool} (h : Keeps s₀ s) : Keeps s₀ (runImage s slot fallback) := by
  unfold Machine.runImage
  extract_lets
  exact .answerHeld (h.core rfl)

theorem imageSelect {survives : Bool} (h : Keeps s₀ s) : Keeps s₀ (imageSelect s survives) := by
  unfold Machine.imageSelect
  extract_lets
  exact .ite h (.ite h.haltDevice (.ite h.recordLoad.runImage (.ite h.recordLoad.runImage h.recordLoad.haltDevice)))

theorem folioCheck (h : Keeps s₀ s) : Keeps s₀ (folioCheck s) := by
  unfold Machine.folioCheck
  extract_lets
  exact .ite h (.ite (.haltDevice (h.core rfl)) (.ite (.haltDevice (h.core rfl)) (h.core rfl)))

theorem loseStacks {bad : List Nat} {code : Nat} (h : Keeps s₀ s) : Keeps s₀ (loseStacks s bad code) := by
  unfold Machine.loseStacks
  refine h.foldl (fun _ _ h => ?_)
  extract_lets
  exact h.core rfl

theorem trainLinks (h : Keeps s₀ s) : Keeps s₀ (trainLinks s) :=
  h.foldl (fun _ _ h => h.startTraining)

theorem loseRails (h : Keeps s₀ s) : Keeps s₀ (loseRails s) :=
  h.foldl (fun _ _ h => h.core rfl)

theorem hbmTrained {bad : List (Fin 16)} (h : Keeps s₀ s) : Keeps s₀ (hbmTrained s bad) := by
  unfold Machine.hbmTrained
  extract_lets s1
  have h1 : Keeps s₀ s1 := h.loseStacks.loseRails.updSec
  exact .ite h (.ite h1.trainLinks h1)

theorem memoryTested {bad : List (Fin 16)} (h : Keeps s₀ s) : Keeps s₀ (memoryTested s bad) := by
  unfold Machine.memoryTested
  extract_lets s1
  have h1 : Keeps s₀ s1 := h.trans ⟨rfl, rfl, fun hi => ⟨rfl, hi.sram, hi.counts, hi.fcounts⟩⟩
  exact .ite h (.trainLinks (.updSec h1.loseStacks.loseRails))

theorem linksTrained (h : Keeps s₀ s) : Keeps s₀ (linksTrained s) := by
  unfold Machine.linksTrained
  extract_lets
  exact .ite h h.loseRails.updSec

theorem dynamicSigned (h : Keeps s₀ s) : Keeps s₀ (dynamicSigned s) := by
  unfold Machine.dynamicSigned
  extract_lets
  exact .ite h (.update (.ite (h.core rfl) (h.core rfl)) rfl)

theorem standby (h : Keeps s₀ s) : Keeps s₀ (standby s) := by
  unfold Machine.standby
  extract_lets
  exact .update (.keysErase (.ite h.cxlDown h)) rfl

theorem tickWake {lv : Levels} (h : Keeps s₀ s) : Keeps s₀ (tickWake s lv) := by
  unfold Machine.tickWake
  extract_lets
  exact .ite h h.setLevels.updPwr.wake

theorem coldState (h : Keeps s₀ s) : Keeps s₀ (coldState s) := by
  unfold Machine.coldState
  extract_lets
  exact .update h.chipReset rfl

theorem aonGood {lv : Levels} (h : Keeps s₀ s) : Keeps s₀ (aonGood s lv) := by
  unfold Machine.aonGood
  extract_lets
  exact .ite h (.update h.coldState.setLevels.updPwr rfl)

theorem aonLost (h : Keeps s₀ s) : Keeps s₀ (aonLost s) :=
  .ite h h.coldState

/-! ### The operations of `Machine/Resets` -/

theorem updRst {f : Rst → Rst} (h : Keeps s₀ s) : Keeps s₀ (updRst s f) :=
  h.core rfl

theorem coreAbandon {p : Nat} (h : Keeps s₀ s) : Keeps s₀ (coreAbandon s p) := by
  unfold Machine.coreAbandon
  extract_lets
  exact .update (.setUpd (.setCmp (.foldl (.foldl (h.foldl (fun _ _ h => h.core rfl)) (fun _ _ h => h.core rfl))
    (fun _ _ h => h.core rfl)))) rfl

theorem snoopPart {p : Nat} (h : Keeps s₀ s) : Keeps s₀ (snoopPart s p) := by
  unfold Machine.snoopPart
  extract_lets
  exact h.core rfl

theorem fenceNow {p cause : Nat} (h : Keeps s₀ s) : Keeps s₀ (fenceNow s p cause) := by
  unfold Machine.fenceNow
  extract_lets
  exact h.fenceSets.fenceFar.fenceCipher.setPstate.tipFenceStart.coreAbandon.snoopPart.fenceBindery.finishPend.updRst.raiseVector

theorem fenceStart {p : Nat} (h : Keeps s₀ s) : Keeps s₀ (fenceStart s p) := by
  unfold Machine.fenceStart
  split
  · exact h
  · exact .ite h (.ite h.fenceNow (h.core rfl))

theorem drainTip {p : Nat} (h : Keeps s₀ s) : Keeps s₀ (drainTip s p) := by
  unfold Machine.drainTip
  extract_lets
  exact .tipFlushAll (h.tipFlushAll.updTip.foldl (fun _ _ h => h.hbmWrite))

theorem dropLines {p : Nat} (h : Keeps s₀ s) : Keeps s₀ (dropLines s p) :=
  h.core rfl

theorem countFence {p errs replies : Nat} (h : Keeps s₀ s) : Keeps s₀ (countFence s p errs replies) :=
  h.core rfl

theorem unpark {p : Nat} (h : Keeps s₀ s) : Keeps s₀ (unpark s p) := by
  unfold Machine.unpark
  extract_lets
  exact h.core rfl

theorem drainEnd {p errs replies : Nat} (h : Keeps s₀ s) : Keeps s₀ (drainEnd s p errs replies) :=
  .ite h h.drainTip.dropLines.countFence.unpark.setPstate.wakeSets

theorem partReset {p : Nat} (h : Keeps s₀ s) : Keeps s₀ (partReset s p) := by
  unfold Machine.partReset
  extract_lets s1 s2 _ _ s3 s4 s5 s6
  have h1 : Keeps s₀ s1 := h.foldl fun _ _ h => h.setEngine
  have h2 : Keeps s₀ s2 := h1.foldl fun _ _ h => h.setMover
  have h4 : Keeps s₀ s4 := h2.setMem.setCmp
  clear_value s4
  have h5 : Keeps s₀ s5 := .setUpd (h4.core rfl)
  have h6 : Keeps s₀ s6 := h5.updFar
  clear_value s6
  exact h6.trans ⟨rfl, rfl, fun hi => ⟨hi.hbm, filter_wf _ hi.sram, hi.counts, hi.fcounts⟩⟩

theorem partIdle {p : Nat} (h : Keeps s₀ s) : Keeps s₀ (partIdle s p) :=
  .raiseVector (.finishPend (h.core rfl))

theorem partitionResetDone {p : Nat} (h : Keeps s₀ s) : Keeps s₀ (partitionResetDone s p) :=
  .ite h h.partReset.partIdle

theorem reloadSlots {p : Nat} (h : Keeps s₀ s) : Keeps s₀ (reloadSlots s p) := by
  unfold Machine.reloadSlots
  split
  · exact h.core rfl
  · exact h

theorem activateDone {p : Nat} (h : Keeps s₀ s) : Keeps s₀ (activateDone s p) := by
  unfold Machine.activateDone
  extract_lets
  refine .ite h ?_
  split
  · exact h.finishPend
  · exact .finishPend (.setPstate (.update h.updRestore.reloadSlots.farRestore.frecRestore rfl))

theorem loseTip {p : Nat} (h : Keeps s₀ s) : Keeps s₀ (loseTip s p) := by
  unfold Machine.loseTip
  extract_lets
  exact h.updTip.countFence

theorem railFence {p : Nat} (h : Keeps s₀ s) : Keeps s₀ (railFence s p) := by
  unfold Machine.railFence
  extract_lets
  split
  · exact h.fenceNow.updRst.loseTip.dropLines.partReset.partIdle.wakeSets
  · exact .wakeSets (.partIdle (.partReset (.dropLines (.loseTip (h.core rfl)))))
  · exact .partIdle (.partReset (h.core rfl))
  · exact h

theorem powerGoodFall {rail : Nat} (h : Keeps s₀ s) : Keeps s₀ (powerGoodFall s rail) := by
  unfold Machine.powerGoodFall
  extract_lets _ _ s1
  have h1 : Keeps s₀ s1 := .ite (.keysErase (h.core rfl)) (h.core rfl)
  exact .ite h (.ite h.aonLost (.ite h1 (.ite h1.railFence h1.haltDevice)))

theorem warmBegin (h : Keeps s₀ s) : Keeps s₀ (warmBegin s) := by
  unfold Machine.warmBegin
  extract_lets
  exact .updFar (.foldl (.foldl (h.core rfl) (fun _ _ h => .ite h.fenceNow h)) (fun _ _ h => .ite h h.linkDown))

theorem restart (h : Keeps s₀ s) : Keeps s₀ (restart s) := by
  unfold Machine.restart
  extract_lets s1
  have h1 : Keeps s₀ s1 := h.foldl (fun _ _ h => h.drainEnd)
  exact .ite h1.pointOne.startDevice h1.haltDevice.updRst.updSec

theorem devResetAssert (h : Keeps s₀ s) : Keeps s₀ (devResetAssert s) := by
  unfold Machine.devResetAssert
  extract_lets s1 _ s2
  have h1 : Keeps s₀ s1 := .ite h.pointOne h
  have h2 : Keeps s₀ s2 := .ite (h1.core rfl) (h1.core rfl)
  exact .ite h (.ite h2 (.ite (.warmBegin (h2.core rfl)) (h2.core rfl)))

theorem devResetRelease {lv : Levels} (h : Keeps s₀ s) : Keeps s₀ (devResetRelease s lv) := by
  unfold Machine.devResetRelease
  extract_lets s1 s2
  have h1 : Keeps s₀ s1 := .setLevels (h.core rfl)
  have h2 : Keeps s₀ s2 := .ite (h1.core rfl) h1
  refine .ite h ?_
  split
  · exact h2
  · exact h2.wake
  · exact h2.restart

theorem deviceWarmReset (h : Keeps s₀ s) : Keeps s₀ (deviceWarmReset s) := by
  unfold Machine.deviceWarmReset
  extract_lets
  exact .ite h (.ite h.restart (.ite h.warmBegin.restart h.warmBegin))

theorem windowEnd {p errs replies : Nat} (h : Keeps s₀ s) : Keeps s₀ (windowEnd s p errs replies) := by
  unfold Machine.windowEnd
  extract_lets
  exact .ite h.drainEnd.restart h.drainEnd

theorem loadsLost (h : Keeps s₀ s) : Keeps s₀ (loadsLost s) :=
  h.core rfl

theorem commandsLost (h : Keeps s₀ s) : Keeps s₀ (commandsLost s) := by
  unfold Machine.commandsLost
  extract_lets
  exact .foldl (h.core rfl) (fun _ _ h => h.completeReq)

theorem mpReset (h : Keeps s₀ s) : Keeps s₀ (mpReset s) := by
  unfold Machine.mpReset
  extract_lets
  exact h.commandsLost.loadsLost.updRst.revokeOwner.spdmReset

theorem mpBite (h : Keeps s₀ s) : Keeps s₀ (mpBite s) :=
  .ite h (.mpReset (.recordBite (h.core rfl)))

theorem janteRestart (h : Keeps s₀ s) : Keeps s₀ (janteRestart s) :=
  .ite h (.ite (.answerHeld (h.core rfl)) h.haltDevice.updSec)

theorem cipherBitten (h : Keeps s₀ s) : Keeps s₀ (cipherBitten s) := by
  unfold Machine.cipherBitten
  extract_lets
  exact .updCip (h.foldl (fun _ _ h => h.revokeOwner))

theorem abortCommand {mine : Req → Bool} (h : Keeps s₀ s) : Keeps s₀ (abortCommand s mine) := by
  unfold Machine.abortCommand
  split
  · exact .completeReq (h.core rfl)
  · exact h.finishPend

theorem busBitten {who : Nat} (h : Keeps s₀ s) : Keeps s₀ (busBitten s who) := by
  unfold Machine.busBitten
  split
  · exact .ite h.mpReset h
  · exact h.cipherBitten
  · exact .ite h.endJob.finishPend h
  · exact h.core rfl
  · exact h.abortCommand
  · exact h.abortCommand
  · exact h

theorem sbBite {who : Nat} (h : Keeps s₀ s) : Keeps s₀ (sbBite s who) := by
  unfold Machine.sbBite
  extract_lets
  exact .ite h (.busBitten (.recordBite (h.core rfl)))

theorem examined (h : Keeps s₀ s) : Keeps s₀ (examined s) := h.core rfl

/-! ### The operations of `Machine/Command` -/

theorem runCmd {op : Nat} {check : State → Req → Option Reply} {eff : State → Req → State} (h : Keeps s₀ s)
    (hf : ∀ t, Keeps s₀ t → ∀ r, Keeps s₀ (eff t r)) : Keeps s₀ (runCmd s op check eff) := by
  unfold Machine.runCmd
  split
  · exact h
  · extract_lets
    split
    · exact h.examined.completeReq
    · exact hf _ h.examined _

theorem runCmdMem {op : Nat} {check : State → Req → Option Reply}
    {rw : State → Req → List (Nat × Nat) × List (Nat × Nat)} {eff : State → Req → State} (h : Keeps s₀ s)
    (hf : ∀ t, Keeps s₀ t → ∀ r, Keeps s₀ (eff t r)) : Keeps s₀ (runCmdMem s op check rw eff) := by
  unfold Machine.runCmdMem
  split
  · exact h
  · split
    · next e => exact h.hostHolds e
    · exact h.runCmd hf

theorem doneOk {r : Req} {bs : List Byte} (h : Keeps s₀ s) : Keeps s₀ (doneOk s r bs) :=
  h.completeReq

theorem stayPend {r : Req} {obj : Obj} {note : Nat} (h : Keeps s₀ s) : Keeps s₀ (stayPend s r obj note) :=
  h.core rfl

/-! ### The operations of `Machine/JanteSets` -/

theorem setConfigDo {r : Req} (h : Keeps s₀ s) : Keeps s₀ (setConfigDo s r) :=
  .doneOk (h.core rfl)

theorem setReleaseDo {r : Req} (h : Keeps s₀ s) : Keeps s₀ (setReleaseDo s r) :=
  .doneOk (h.core rfl)

theorem setFreezeDo {r : Req} (h : Keeps s₀ s) : Keeps s₀ (setFreezeDo s r) :=
  .doneOk (h.core rfl)

theorem setThawDo {r : Req} (h : Keeps s₀ s) : Keeps s₀ (setThawDo s r) := by
  unfold Machine.setThawDo
  extract_lets _ s1
  have h1 : Keeps s₀ s1 := .pumpSet (h.core rfl)
  refine .doneOk ?_
  split
  · exact h1.keptNacks.earlyVotes
  · exact h1

theorem setResolveDo {r : Req} (h : Keeps s₀ s) : Keeps s₀ (setResolveDo s r) := by
  unfold Machine.setResolveDo
  extract_lets _ s1
  have h1 : Keeps s₀ s1 := by
    unfold s1
    split
    · exact .ite h.decideCommit h.sendAbort.decideAbort
    · exact h
  exact h1.doneOk

theorem setRedoDo {r : Req} (h : Keeps s₀ s) : Keeps s₀ (setRedoDo s r) := by
  unfold Machine.setRedoDo
  extract_lets
  exact .ite (.doneOk (h.core rfl)) (h.core rfl)

theorem setDiscardDo {r : Req} (h : Keeps s₀ s) : Keeps s₀ (setDiscardDo s r) :=
  .doneOk (h.core rfl)

theorem setQueryDo {r : Req} (h : Keeps s₀ s) : Keeps s₀ (setQueryDo s r) := by
  unfold Machine.setQueryDo
  extract_lets
  exact h.doneOk

theorem lnkConfigDo {r : Req} (h : Keeps s₀ s) : Keeps s₀ (lnkConfigDo s r) := by
  unfold Machine.lnkConfigDo
  extract_lets
  exact .doneOk (h.foldl (fun _ _ h => h.core rfl))

theorem lnkRetrainDo {r : Req} (h : Keeps s₀ s) : Keeps s₀ (lnkRetrainDo s r) := by
  unfold Machine.lnkRetrainDo
  extract_lets
  exact .ite h.startTraining.stayPend h.doneOk

theorem tableLoadDo {r : Req} (h : Keeps s₀ s) : Keeps s₀ (tableLoadDo s r) := by
  unfold Machine.tableLoadDo
  extract_lets
  exact h.core rfl

theorem tableLoaded {k : Nat} (h : Keeps s₀ s) : Keeps s₀ (tableLoaded s k) := by
  unfold Machine.tableLoaded
  extract_lets
  split
  · exact h
  · extract_lets
    exact .finishPend (.update (h.foldl (fun _ _ h => h.core rfl)) rfl)

theorem zeroArea {a : ResArea} (h : Keeps s₀ s) : Keeps s₀ (zeroArea s a) := by
  unfold Machine.zeroArea
  extract_lets
  exact h.devWrite.sealAll

theorem resCfgDo {r : Req} (h : Keeps s₀ s) : Keeps s₀ (resCfgDo s r) :=
  h.zeroArea.updSet.doneOk

theorem resClearDo {r : Req} (h : Keeps s₀ s) : Keeps s₀ (resClearDo s r) := by
  unfold Machine.resClearDo
  refine .doneOk ?_
  split
  · exact h.zeroArea
  · exact h

theorem encodeDo {r : Req} (h : Keeps s₀ s) : Keeps s₀ (encodeDo s r) := by
  unfold Machine.encodeDo
  extract_lets
  exact .stayPend (h.apart (fun _ h => h.meterVerify))

theorem encodeDone (h : Keeps s₀ s) : Keeps s₀ (encodeDone s) := by
  unfold Machine.encodeDone
  split
  · exact h
  · extract_lets
    refine .ite h.finishPend ?_
    split
    · next e => exact h.hostHolds e
    · exact .finishPend (h.apart (fun _ h => h.devWrite.sealWhole))

/-! ### The operations of `Machine/JanteUpdate` -/

theorem tableWrite {p a : Nat} {bs : List Byte} (h : Keeps s₀ s) : Keeps s₀ (tableWrite s p a bs) :=
  .ite h.updWrite h

theorem groupLoadDo {r : Req} (h : Keeps s₀ s) : Keeps s₀ (groupLoadDo s r) := by
  unfold Machine.groupLoadDo
  extract_lets
  exact h.tableWrite.setUpd.stayPend

theorem groupsLoaded {p : Nat} (h : Keeps s₀ s) : Keeps s₀ (groupsLoaded s p) := by
  unfold Machine.groupsLoaded
  extract_lets
  split
  · exact h
  · extract_lets
    split
    · next e => exact h.hostHolds e
    · exact .finishPend (h.foldl (fun _ _ h => h.clearMap))

theorem ruleLoadDo {r : Req} (h : Keeps s₀ s) : Keeps s₀ (ruleLoadDo s r) := by
  unfold Machine.ruleLoadDo
  extract_lets
  refine .doneOk (h.foldl (fun _ _ h => ?_))
  extract_lets
  exact h.tableWrite.setUpd

theorem parkCfgDo {r : Req} (h : Keeps s₀ s) : Keeps s₀ (parkCfgDo s r) := by
  unfold Machine.parkCfgDo
  extract_lets
  exact .doneOk (h.core rfl)

theorem baseCfgDo {r : Req} (h : Keeps s₀ s) : Keeps s₀ (baseCfgDo s r) := by
  unfold Machine.baseCfgDo
  extract_lets
  exact h.meterRecord.setUpd.doneOk

theorem updQueryDo {r : Req} (h : Keeps s₀ s) : Keeps s₀ (updQueryDo s r) := by
  unfold Machine.updQueryDo
  extract_lets
  exact h.doneOk

theorem rollDo {r : Req} (h : Keeps s₀ s) : Keeps s₀ (rollDo s r) := by
  unfold Machine.rollDo
  extract_lets
  exact h.updWrite.setUpd.commitSeen.doneOk

/-! ### The operations of `Machine/JanteFar` -/

theorem farConfigDo {r : Req} (h : Keeps s₀ s) : Keeps s₀ (farConfigDo s r) := by
  unfold Machine.farConfigDo
  extract_lets
  exact .doneOk (.updFar (h.foldl (fun _ _ h => h.meterFarRecord)))

theorem farLoadDo {r : Req} (h : Keeps s₀ s) : Keeps s₀ (farLoadDo s r) := by
  unfold Machine.farLoadDo
  extract_lets
  exact .doneOk (.foldl (h.core rfl) (fun _ _ h => h.farWrite))

theorem partnerSetDo {r : Req} (h : Keeps s₀ s) : Keeps s₀ (partnerSetDo s r) :=
  .doneOk (h.core rfl)

theorem partnerDelDo {r : Req} (h : Keeps s₀ s) : Keeps s₀ (partnerDelDo s r) := by
  unfold Machine.partnerDelDo
  extract_lets
  exact .doneOk (.ite h h.sendFrame.partnerLeft)

theorem farJoinDo {r : Req} (h : Keeps s₀ s) : Keeps s₀ (farJoinDo s r) := by
  unfold Machine.farJoinDo
  extract_lets
  exact .stayPend (.sendFrame (h.core rfl))

theorem farEnableDo {r : Req} (h : Keeps s₀ s) : Keeps s₀ (farEnableDo s r) := by
  unfold Machine.farEnableDo
  extract_lets
  exact .doneOk (.ite (.farRepeat (h.core rfl)) (h.core rfl))

theorem voidOpen (h : Keeps s₀ s) : Keeps s₀ (voidOpen s) :=
  .ite (.raiseVector (h.core rfl)) h

theorem farDisableDo {r : Req} (h : Keeps s₀ s) : Keeps s₀ (farDisableDo s r) := by
  unfold Machine.farDisableDo
  extract_lets
  exact .doneOk (.foldl (.voidOpen (h.core rfl)) (fun _ _ h => h.sendFrame))

theorem roundQueryDo {r : Req} (h : Keeps s₀ s) : Keeps s₀ (roundQueryDo s r) := by
  unfold Machine.roundQueryDo
  extract_lets
  exact h.doneOk

theorem timeQueryDo {r : Req} (h : Keeps s₀ s) : Keeps s₀ (timeQueryDo s r) := by
  unfold Machine.timeQueryDo
  extract_lets
  exact h.doneOk

/-! ### The operations of `Machine/JanteCipher` -/

theorem cipBindDo {r : Req} (h : Keeps s₀ s) : Keeps s₀ (cipBindDo s r) := by
  unfold Machine.cipBindDo
  extract_lets
  exact .doneOk (h.core rfl)

theorem cipUnbindDo {r : Req} (h : Keeps s₀ s) : Keeps s₀ (cipUnbindDo s r) :=
  .doneOk (h.core rfl)

theorem unwrapNow {r : Req} (h : Keeps s₀ s) : Keeps s₀ (unwrapNow s r).1 := by
  unfold Machine.unwrapNow
  split
  · exact h
  · split
    · exact h
    · exact h.core rfl

theorem installNow {r : Req} (h : Keeps s₀ s) : Keeps s₀ (installNow s r).1 := by
  unfold Machine.installNow
  split
  · exact h
  · extract_lets
    exact h.core rfl

theorem serveOne {op : Nat} {act : State → Req → State × Reply} (h : Keeps s₀ s)
    (hf : ∀ t, Keeps s₀ t → ∀ r, Keeps s₀ (act t r).1) : Keeps s₀ (serveOne s op act) := by
  unfold Machine.serveOne
  split
  · exact h
  · exact (hf _ h _).finishPend

theorem serveAll {op n : Nat} {act : State → Req → State × Reply} (hf : ∀ t, Keeps s₀ t → ∀ r, Keeps s₀ (act t r).1)
    (h : Keeps s₀ s) : Keeps s₀ (serveAll op act n s) := by
  induction n generalizing s with
  | zero => exact h
  | succ n ih => exact ih (h.serveOne hf)

theorem moverBank {bs : List Byte} (h : Keeps s₀ s) : Keeps s₀ (moverBank s bs) :=
  h.foldl (fun _ _ h => h.core rfl)

theorem serveMove (h : Keeps s₀ s) : Keeps s₀ (serveMove s) := by
  unfold Machine.serveMove
  split
  · exact h.lockRelease
  · extract_lets
    exact .ite h.moverBank.msgStart h.moverBank.msgEnd

theorem serveOwner (h : Keeps s₀ s) : Keeps s₀ (serveOwner s) := by
  unfold Machine.serveOwner
  refine .ite h ?_
  split
  · exact .lockRelease (.serveAll (fun _ h _ => h.unwrapNow) h)
  · exact .lockRelease (.serveAll (fun _ h _ => h.installNow) h)
  · exact h.serveMove
  · exact h

theorem grantServe (h : Keeps s₀ s) : Keeps s₀ (grantServe s) :=
  h.lockGrant.serveOwner

theorem askLock {r : Req} {o : Owner} {obj : Obj} {note : Nat} (h : Keeps s₀ s) : Keeps s₀ (askLock s r o obj note) :=
  .grantServe (.lockRequest (h.core rfl))

theorem lockTimeout (h : Keeps s₀ s) : Keeps s₀ (lockTimeout s) := by
  unfold Machine.lockTimeout
  split
  · exact h
  · extract_lets
    exact .ite h.finishPend h.finishPend.updCip

theorem slotClearDo {r : Req} (h : Keeps s₀ s) : Keeps s₀ (slotClearDo s r) :=
  .doneOk (h.core rfl)

theorem farSwitchDo {r : Req} (h : Keeps s₀ s) : Keeps s₀ (farSwitchDo s r) := by
  unfold Machine.farSwitchDo
  extract_lets
  exact .doneOk (h.core rfl)

theorem cipQueryDo {r : Req} (h : Keeps s₀ s) : Keeps s₀ (cipQueryDo s r) :=
  h.doneOk

theorem fsCfgDo {r : Req} (h : Keeps s₀ s) : Keeps s₀ (fsCfgDo s r) :=
  .doneOk (h.core rfl)

theorem filterDo {r : Req} (h : Keeps s₀ s) : Keeps s₀ (filterDo s r) :=
  .doneOk (h.core rfl)

theorem colourDo {r : Req} (h : Keeps s₀ s) : Keeps s₀ (colourDo s r) := by
  unfold Machine.colourDo
  extract_lets
  exact .doneOk (h.core rfl)

theorem jobSubmitDo {r : Req} (h : Keeps s₀ s) : Keeps s₀ (jobSubmitDo s r) := by
  unfold Machine.jobSubmitDo
  extract_lets
  exact .doneOk (.startJobs (h.core rfl))

theorem jobStopDo {r : Req} (h : Keeps s₀ s) : Keeps s₀ (jobStopDo s r) :=
  h.core rfl

theorem bndQueryDo {r : Req} (h : Keeps s₀ s) : Keeps s₀ (bndQueryDo s r) := by
  unfold Machine.bndQueryDo
  extract_lets
  exact h.doneOk

/-! ### The operations of `Machine/JanteDevice` -/

theorem devQueryDo {r : Req} (h : Keeps s₀ s) : Keeps s₀ (devQueryDo s r) :=
  h.doneOk

theorem boardWritten (h : Keeps s₀ s) : Keeps s₀ (boardWritten s) := by
  unfold Machine.boardWritten
  split
  · exact h
  · extract_lets
    exact .finishPend (h.core rfl)

theorem folReadDo {r : Req} (h : Keeps s₀ s) : Keeps s₀ (folReadDo s r) :=
  h.doneOk

theorem slowMapDo {r : Req} (h : Keeps s₀ s) : Keeps s₀ (slowMapDo s r) :=
  .doneOk (h.core rfl)

theorem capDo {r : Req} (h : Keeps s₀ s) : Keeps s₀ (capDo s r) := by
  unfold Machine.capDo
  extract_lets
  exact .ite (.doneOk (h.core rfl)) (.ite h.setCap.completeReq h.setCap.doneOk)

theorem priorityDo {r : Req} (h : Keeps s₀ s) : Keeps s₀ (priorityDo s r) :=
  .doneOk (h.core rfl)

theorem pavaneDo {r : Req} (h : Keeps s₀ s) : Keeps s₀ (pavaneDo s r) :=
  h.setPavane.doneOk

theorem pwrQueryDo {r : Req} (h : Keeps s₀ s) : Keeps s₀ (pwrQueryDo s r) :=
  h.doneOk

theorem standbyDo {r : Req} (h : Keeps s₀ s) : Keeps s₀ (standbyDo s r) := by
  unfold Machine.standbyDo
  extract_lets
  exact .update h.doneOk.standby rfl

theorem wakeDo {lv : Levels} {r : Req} (h : Keeps s₀ s) : Keeps s₀ (wakeDo lv s r) := by
  unfold Machine.wakeDo
  extract_lets
  exact .ite h.setLevels.doneOk.wake h.setLevels.completeConflict.wake

theorem rstPartDo {r : Req} (h : Keeps s₀ s) : Keeps s₀ (rstPartDo s r) :=
  h.requestFence.stayPend

theorem activateDo {r : Req} (h : Keeps s₀ s) : Keeps s₀ (activateDo s r) :=
  h.core rfl

theorem rstDeviceDo {lv : Levels} {r : Req} (h : Keeps s₀ s) : Keeps s₀ (rstDeviceDo lv s r) :=
  h.doneOk.setLevels.updRst

theorem rstQueryDo {r : Req} (h : Keeps s₀ s) : Keeps s₀ (rstQueryDo s r) := by
  unfold Machine.rstQueryDo
  extract_lets
  exact h.doneOk

theorem fwStageDo {r : Req} (h : Keeps s₀ s) : Keeps s₀ (fwStageDo s r) := by
  unfold Machine.fwStageDo
  extract_lets _ s1
  have h1 : Keeps s₀ s1 := h.meterVerify
  split
  · exact h1.setSlotState.stayPend
  · exact h1.setSlotState.completeReq

theorem fwStaged (h : Keeps s₀ s) : Keeps s₀ (fwStaged s) := by
  unfold Machine.fwStaged
  split
  · exact h
  · extract_lets
    split <;> exact .finishPend (.setSlotState (h.core rfl))

theorem fwActivateDo {r : Req} (h : Keeps s₀ s) : Keeps s₀ (fwActivateDo s r) :=
  .doneOk (h.core rfl)

/-! ### The operations of `Machine/JanteStream` -/

theorem loadBankDo {r : Req} (h : Keeps s₀ s) : Keeps s₀ (loadBankDo s r) :=
  h.core rfl

theorem bankLoaded {b : Nat} (h : Keeps s₀ s) : Keeps s₀ (bankLoaded s b) := by
  unfold Machine.bankLoaded
  split
  · exact h
  · extract_lets
    exact .finishPend (.setLoading (.ite (h.core rfl) (h.core rfl)))

theorem discardCounts {n : Nat} (h : Keeps s₀ s) : Keeps s₀ (discardCounts s n) :=
  h.core rfl

theorem startDo {r : Req} (h : Keeps s₀ s) : Keeps s₀ (startDo s r) :=
  .doneOk (h.trans ⟨rfl, rfl, fun hi => ⟨hi.hbm, hi.sram, rfl, hi.fcounts⟩⟩)

theorem resumeDo {r : Req} (h : Keeps s₀ s) : Keeps s₀ (resumeDo s r) := by
  unfold Machine.resumeDo
  extract_lets
  exact .doneOk (.update (.ite (h.core rfl) h) rfl)

theorem streamEnded (h : Keeps s₀ s) : Keeps s₀ (streamEnded s) :=
  .ite h (.finishPend (h.core rfl))

theorem fillStartDo {r : Req} (h : Keeps s₀ s) : Keeps s₀ (fillStartDo s r) :=
  .doneOk (h.trans ⟨rfl, rfl, fun hi => ⟨hi.hbm, hi.sram, hi.counts, rfl⟩⟩)

theorem dropSuspended {c : Nat} (h : Keeps s₀ s) : Keeps s₀ (dropSuspended s c) := by
  unfold Machine.dropSuspended
  extract_lets
  exact .foldl (h.foldl (fun _ _ h => h.core rfl)) (fun _ _ h => h.core rfl)

theorem fillStopDo {r : Req} (h : Keeps s₀ s) : Keeps s₀ (fillStopDo s r) := by
  unfold Machine.fillStopDo
  extract_lets
  exact .stayPend (.update (h.foldl (fun _ _ h => h.dropSuspended)) rfl)

theorem fillStopped (h : Keeps s₀ s) : Keeps s₀ (fillStopped s) := by
  unfold Machine.fillStopped
  extract_lets s1 _ s2
  have h1 : Keeps s₀ s1 := h.foldl fun _ _ h => h.suspendCore.dropSuspended
  have h2 : Keeps s₀ s2 := h1.discardCounts
  clear_value s2
  exact .ite h <| .finishPend <| h2.trans ⟨rfl, rfl, fun hi => ⟨hi.hbm, hi.sram, hi.counts, rfl⟩⟩

/-! ### The operations of `Machine/Bar0` -/

theorem mbxField {i : Nat} {f : Mailbox → Mailbox} (h : Keeps s₀ s) : Keeps s₀ (mbxField s i f) := by
  unfold Machine.mbxField
  extract_lets
  exact .ite (h.core rfl) (h.core rfl)

theorem irqClear {v hw : W32} (h : Keeps s₀ s) : Keeps s₀ (irqClear s v hw) := by
  unfold Machine.irqClear
  extract_lets
  exact .foldl (h.core rfl) (fun _ _ h => h.raiseVector)

theorem writeSys {v hw : W32} {r : Reg} (h : Keeps s₀ s) : Keeps s₀ (writeSys s v hw r) := by
  unfold Machine.writeSys
  split
  · exact h.core rfl
  · exact h.core rfl
  · exact h.core rfl
  · exact h.core rfl
  · exact h.core rfl
  · exact h.core rfl
  · exact h.core rfl
  · exact h.core rfl
  · exact h.core rfl
  · exact h.irqClear
  · exact h.core rfl
  · exact h.mbxField
  · exact h.mbxField
  · exact h.mbxField
  · exact h.mbxField
  · extract_lets
    exact h.core rfl
  · exact h

theorem writeUnit {v hw : W32} {r : Reg} (h : Keeps s₀ s) : Keeps s₀ (writeUnit s v hw r) := by
  unfold Machine.writeUnit
  split
  · exact h.core rfl
  · exact h.core rfl
  · exact h.core rfl
  · exact h.setLoopReg
  · exact h.core rfl
  · exact h.core rfl
  · exact h.core rfl
  · exact h.core rfl
  · extract_lets
    exact h.core rfl
  · exact h.core rfl
  · exact h.core rfl
  · exact h.core rfl
  · exact h.core rfl
  · exact h.core rfl
  · exact h.writeSys

theorem writeReg {v hw : W32} {r : Reg} (h : Keeps s₀ s) : Keeps s₀ (writeReg s v hw r) := by
  unfold Machine.writeReg
  split
  · exact h.core rfl
  · exact h.core rfl
  · exact h.core rfl
  · exact h.core rfl
  · exact h.core rfl
  · exact h.core rfl
  · exact h.core rfl
  · exact h.core rfl
  · exact h.core rfl
  · exact h.core rfl
  · exact h.core rfl
  · exact h.updRegs
  · exact h.writeUnit

theorem mbxRing {i : Nat} {v : W32} (h : Keeps s₀ s) : Keeps s₀ (mbxRing s i v) := by
  unfold Machine.mbxRing
  extract_lets
  exact .ite h (.ite (h.core rfl) (h.core rfl))

theorem tokPost {v : W32} (h : Keeps s₀ s) : Keeps s₀ (tokPost s v) :=
  .ite h (h.core rfl)

theorem wdogSet {v : W32} (h : Keeps s₀ s) : Keeps s₀ (wdogSet s v) := by
  unfold Machine.wdogSet
  extract_lets
  exact .ite (h.core rfl) (h.core rfl)

theorem cipLockWrite {v : W32} (h : Keeps s₀ s) : Keeps s₀ (cipLockWrite s v) := by
  unfold Machine.cipLockWrite
  extract_lets s1
  have h1 : Keeps s₀ s1 := .ite h.lockRequest h
  exact .ite h1.lockRelease h1

theorem anyWrite {v hw : W32} {r : Reg} (h : Keeps s₀ s) : Keeps s₀ (anyWrite s v hw r) := by
  unfold Machine.anyWrite
  refine .ite h ?_
  split
  · exact h.tokPost
  · exact h.core rfl
  · exact h.wdogSet
  · exact h.core rfl
  · exact h.setLoopReg
  · exact h.cringCfg
  · exact h.cringBase
  · exact h.cringTail
  · extract_lets
    exact .ite (.update h.gilWrite rfl) h.gilWrite
  · exact h.classWrite
  · exact .ite h.tipFenceStart h
  · exact h.cipLockWrite
  · exact h.locktoWrite
  · exact h.mbxRing
  · exact h.writeReg

theorem msixWrite {dw : Nat} {v : W32} (h : Keeps s₀ s) : Keeps s₀ (msixWrite s dw v) := by
  unfold Machine.msixWrite
  extract_lets
  exact .ite h (.ite (h.core rfl) (h.core rfl))

theorem payloadWrite {i off : Nat} {v : W32} (h : Keeps s₀ s) : Keeps s₀ (payloadWrite s i off v) :=
  h.mbxField

theorem cipBankWrite {o : Owner} {off : Nat} {v : W32} (h : Keeps s₀ s) : Keeps s₀ (cipBankWrite s o off v) :=
  .ite h.cipGo (.ite (h.core rfl) h)

theorem bar0Put {t : Bar0Target} {hi : Bool} {v : W32} (h : Keeps s₀ s) : Keeps s₀ (bar0Put s t hi v) := by
  unfold Machine.bar0Put
  extract_lets
  split
  · exact .ite h.payloadWrite h
  · exact h.msixWrite
  · split
    · exact h.anyWrite
    · exact h
  · exact h.cipBankWrite
  · exact h
  · exact h
  · exact h
  · exact h

theorem bar0Write4 {t : Bar0Target} {hi : Bool} {v : W32} (h : Keeps s₀ s) : Keeps s₀ (bar0Write4 s t hi v) := by
  unfold Machine.bar0Write4
  split <;> exact h.bar0Put

theorem bar0Access {t : Bar0Target} {size : Nat} {write : Bool} {data : W64} (h : Keeps s₀ s) :
    Keeps s₀ (bar0Access s t size write data) := by
  unfold Machine.bar0Access
  extract_lets
  exact .ite (.ite (.ite h.bar0Write4.bar0Write4 h.bar0Write4) (h.core rfl)) (.ite h.setHerr h.setHerr.answer)

/-! ### The operations of `Machine/Jante` -/

theorem takeCommand (h : Keeps s₀ s) : Keeps s₀ (takeCommand s) := by
  unfold Machine.takeCommand
  refine .ite h ?_
  split
  · exact h
  · split
    · next e => exact h.hostHolds e
    · extract_lets
      split
      · exact .completeReq (h.core rfl)
      · exact h.core rfl

theorem giveUp {p : Pend} (h : Keeps s₀ s) : Keeps s₀ (giveUp s p) := by
  unfold Machine.giveUp
  split
  · exact h.core rfl
  · exact h.core rfl
  · exact h.core rfl
  · exact h.setSlotState
  · exact h

theorem commandTimeout {i : Nat} (h : Keeps s₀ s) : Keeps s₀ (commandTimeout s i) := by
  unfold Machine.commandTimeout
  extract_lets
  refine .ite h ?_
  split
  · exact h
  · exact h.giveUp.finishPend

theorem sidebandAnswer {opcode tag : Nat} {st : Status} {resp : List Byte} (h : Keeps s₀ s) :
    Keeps s₀ (sidebandAnswer s opcode tag st resp) := by
  unfold Machine.sidebandAnswer
  extract_lets
  exact h.core rfl

theorem sidebandIn {r : Req} (h : Keeps s₀ s) : Keeps s₀ (sidebandIn s r) := by
  unfold Machine.sidebandIn
  extract_lets
  refine .ite h (.ite h.sidebandAnswer (.ite (h.core rfl) (.ite h.sidebandAnswer (.ite h.sidebandAnswer ?_))))
  split
  · exact .completeReq (h.core rfl)
  · exact h.core rfl

theorem sidebandMessage {type vendor : Nat} {fields payload : List Byte} (h : Keeps s₀ s) :
    Keeps s₀ (sidebandMessage s type vendor fields payload) :=
  .ite h.sidebandIn h

/-! ### The commands -/

/-- Every command keeps. -/
theorem exec {c : Instr} (h : Keeps s₀ s) : KeepsNext s₀ (exec c s) := by
  cases c with
  | mbxDoorbellRing => exact .next (.ite h.mbxRing h)
  | commandTakeUp => exact .next h.takeCommand
  | commandTimeout => exact .next h.commandTimeout
  | sidebandRequest => exact .next h.sidebandMessage
  | devQuery => exact .next (h.runCmd (fun _ h _ => h.devQueryDo))
  | folBoardWrite => exact .next (h.runCmd (fun _ h _ => h.core rfl))
  | boardWriteComplete => exact .next (.ite h.boardWritten h)
  | folRead => exact .next (h.runCmd (fun _ h _ => h.folReadDo))
  | memSlowMap => exact .next (h.runCmd (fun _ h _ => h.slowMapDo))
  | streamLoadBank => exact .next (h.runCmdMem (fun _ h _ => h.loadBankDo))
  | bankLoadComplete => exact .next (.ite h.bankLoaded h)
  | streamStart => exact .next (h.runCmdMem (fun _ h _ => h.startDo))
  | streamResume => exact .next (h.runCmd (fun _ h _ => h.resumeDo))
  | streamEnd => exact .next (h.runCmd (fun _ h _ => h.core rfl))
  | streamEndComplete => exact .next (.ite h.streamEnded h)
  | streamFillStart => exact .next (h.runCmdMem (fun _ h _ => h.fillStartDo))
  | streamFillStop => exact .next (h.runCmd (fun _ h _ => h.fillStopDo))
  | fillStopComplete => exact .next (.ite h.fillStopped h)
  | setConfig => exact .next (h.runCmd (fun _ h _ => h.setConfigDo))
  | setRelease => exact .next (h.runCmd (fun _ h _ => h.setReleaseDo))
  | setFreeze => exact .next (h.runCmd (fun _ h _ => h.setFreezeDo))
  | setThaw => exact .next (h.runCmd (fun _ h _ => h.setThawDo))
  | setResolve => exact .next (h.runCmd (fun _ h _ => h.setResolveDo))
  | setRedo => exact .next (h.runCmd (fun _ h _ => h.setRedoDo))
  | setDiscard => exact .next (h.runCmd (fun _ h _ => h.setDiscardDo))
  | setQuery => exact .next (h.runCmd (fun _ h _ => h.setQueryDo))
  | lnkConfig => exact .next (h.runCmd (fun _ h _ => h.lnkConfigDo))
  | lnkRetrain => exact .next (h.runCmd (fun _ h _ => h.lnkRetrainDo))
  | cmpTableLoad => exact .next (h.runCmdMem (fun _ h _ => h.tableLoadDo))
  | cmpTableLoadComplete => exact .next (.ite h.tableLoaded h)
  | cmpResCfg => exact .next (h.runCmdMem (fun _ h _ => h.resCfgDo))
  | cmpResClear => exact .next (h.runCmdMem (fun _ h _ => h.resClearDo))
  | cmpEncode => exact .next (h.runCmdMem (fun _ h _ => h.encodeDo))
  | cmpEncodeComplete => exact .next (.ite h.encodeDone h)
  | updGroupLoad => exact .next (h.runCmdMem (fun _ h _ => h.groupLoadDo))
  | updGroupLoadComplete => exact .next (.ite h.groupsLoaded h)
  | updRuleLoad => exact .next (h.runCmdMem (fun _ h _ => h.ruleLoadDo))
  | updParkCfg => exact .next (h.runCmd (fun _ h _ => h.parkCfgDo))
  | updBaseCfg => exact .next (h.runCmdMem (fun _ h _ => h.baseCfgDo))
  | updSetQuery => exact .next (h.runCmd (fun _ h _ => h.updQueryDo))
  | updRollForward => exact .next (.ite h (h.runCmdMem (fun _ h _ => h.rollDo)))
  | farConfig => exact .next (h.runCmdMem (fun _ h _ => h.farConfigDo))
  | farGroupLoad => exact .next (h.runCmdMem (fun _ h _ => h.farLoadDo))
  | farPartnerSet => exact .next (h.runCmd (fun _ h _ => h.partnerSetDo))
  | farPartnerDel => exact .next (h.runCmd (fun _ h _ => h.partnerDelDo))
  | farJoin => exact .next (h.runCmd (fun _ h _ => h.farJoinDo))
  | farJoinComplete => exact .next (.ite h.joinComplete h)
  | farEnable => exact .next (h.runCmdMem (fun _ h _ => h.farEnableDo))
  | farDisable => exact .next (h.runCmd (fun _ h _ => h.farDisableDo))
  | farRoundQuery => exact .next (h.runCmd (fun _ h _ => h.roundQueryDo))
  | farTimeQuery => exact .next (h.runCmd (fun _ h _ => h.timeQueryDo))
  | cipBind => exact .next (h.runCmd (fun _ h _ => h.cipBindDo))
  | cipUnbind => exact .next (h.runCmd (fun _ h _ => h.cipUnbindDo))
  | cipUnwrap => exact .next (h.runCmd (fun _ h _ => h.askLock))
  | cipSlotClear => exact .next (h.runCmd (fun _ h _ => h.slotClearDo))
  | cipFarInstall => exact .next (h.runCmd (fun _ h _ => h.askLock))
  | cipFarSwitch => exact .next (h.runCmd (fun _ h _ => h.farSwitchDo))
  | cipQuery => exact .next (h.runCmd (fun _ h _ => h.cipQueryDo))
  | cipMove => exact .next (h.runCmd (fun _ h _ => h.askLock))
  | bndFsCfg => exact .next (h.runCmd (fun _ h _ => h.fsCfgDo))
  | bndFilterLoad => exact .next (h.runCmd (fun _ h _ => h.filterDo))
  | bndColourLoad => exact .next (h.runCmd (fun _ h _ => h.colourDo))
  | bndJobSubmit => exact .next (h.runCmd (fun _ h _ => h.jobSubmitDo))
  | bndJobStop => exact .next (h.runCmd (fun _ h _ => h.jobStopDo))
  | bndJobStopComplete => exact .next (.ite h.jobStopped h)
  | bndQuery => exact .next (h.runCmd (fun _ h _ => h.bndQueryDo))
  | pwrCapSet => exact .next (h.runCmd (fun _ h _ => h.capDo))
  | pwrPriority => exact .next (h.runCmd (fun _ h _ => h.priorityDo))
  | pwrPavane => exact .next (h.runCmd (fun _ h _ => h.pavaneDo))
  | pwrQuery => exact .next (h.runCmd (fun _ h _ => h.pwrQueryDo))
  | pwrStandby => exact .next (h.runCmd (fun _ h _ => h.standbyDo))
  | pwrWake => exact .next (h.runCmd (fun _ h _ => h.wakeDo))
  | rstPartition => exact .next (h.runCmd (fun _ h _ => h.rstPartDo))
  | rstPartActivate => exact .next (h.runCmd (fun _ h _ => h.activateDo))
  | partitionActivateComplete => exact .next (.ite h.activateDone h)
  | rstDevice => exact .next (h.runCmd (fun _ h _ => h.rstDeviceDo))
  | rstQuery => exact .next (h.runCmd (fun _ h _ => h.rstQueryDo))
  | secFwStage => exact .next (h.runCmdMem (fun _ h _ => h.fwStageDo))
  | secFwStageComplete => exact .next (.ite h.fwStaged h)
  | secFwActivate => exact .next (h.runCmd (fun _ h _ => h.fwActivateDo))
  | registerWrite => exact .next (.ite h.anyWrite h)
  | calTokpostWrite => exact .next (.ite h.tokPost h)
  | bankxorWrite => exact .next (.ite (h.core rfl) h)
  | calWdogWrite => exact .next (.ite h.wdogSet h)
  | calSpanWrite => exact .next (.ite (h.core rfl) h)
  | calLoopWrite => exact .next (.ite h.setLoopReg h)
  | memCringCfgWrite => exact .next (.ite h.cringCfg h)
  | memCringBaseWrite => exact .next (.ite h.cringBase h)
  | memCringTailWrite => exact .next (.ite h.cringTail h)
  | memGilCtlWrite => exact .next (.ite h.gilWrite h)
  | bwrClassWrite => exact .next (.ite h.classWrite h)
  | tipFenceGo => exact .next (.ite h.tipFenceStart h)
  | reqHost => exact .next (.ite h.lockRequest h)
  | relHost => exact .next (.ite h.lockRelease h)
  | cipGo => exact .next (.ite h.cipGo h)
  | cipLocktoWrite => exact .next (.ite h.locktoWrite h)
  | measureFetchRequest => exact .next (h.clocked (.ite (h.core rfl) h))
  | measureFetchArrive => exact .next (h.clocked h.fetchArrive)
  | measureIssue => exact .next (h.clocked h.gateTest.issueDue)
  | spanEnd => exact .next (h.clocked h.spanEnd)
  | controlNop => exact .next (h.clocked h.issueControl)
  | halt => exact .next (h.clocked h.issueControl)
  | streamHaltComplete => exact .next (h.clocked h.haltComplete)
  | jump => exact .next (h.clocked h.issueControl)
  | loop => exact .next (h.clocked h.issueControl)
  | setloop => exact .next (h.clocked h.issueControl)
  | rseg => exact .next (h.clocked h.issueControl)
  | replay => exact .next (h.clocked h.issueControl)
  | replayMeasureDeliver => exact .next (h.clocked h.replayDeliver)
  | verchk => exact .next (h.clocked h.issueControl)
  | step => exact .next (h.clocked h.issueControl)
  | repriseStart => exact .next (h.clocked h.issueMarked)
  | repriseEnd => exact .next (h.clocked h.issueMarked)
  | tokenPostArrive => exact .next (h.clocked h.postArrive)
  | heldPostCounted => exact .next (h.clocked h.heldCounted)
  | streamWatchdogBite => exact .next (h.clocked h.streamBite)
  | fillWatchdogBite => exact .next (h.clocked h.fillBite)
  | fillMeasureIssue => exact .next (h.clocked h.fillMeasureIssue)
  | reclaimStart => exact .next (h.running h.reclaimStart)
  | reclaimComplete => exact .next (h.running h.reclaimComplete)
  | arrayPass => exact .next (h.running h.arrayIssue)
  | arrayLoad => exact .next (h.running h.arrayIssue)
  | arrayPassLoad => exact .next (h.running h.arrayIssue)
  | arrayElem => exact .next (h.running h.arrayIssue)
  | weightLoadComplete => exact .next (h.running h.weightLoaded)
  | rowStep => exact .next (h.running h.rowStep)
  | bankWrite => exact .next (h.running h.bankWrite)
  | elementRun => exact .next (h.running h.elementIssue)
  | elementDrain => exact .next (h.running h.elementIssue)
  | elementSync => exact .next (h.running h.elementIssue)
  | drainDescriptorsTaken => exact .next (h.running h.takeDescriptors)
  | elementRowRead => exact .next (h.running h.eleRowRead)
  | elementOutputWrite => exact .next (h.running h.eleOutputWrite)
  | elementActionComplete => exact .next (h.running h.eleComplete)
  | copy => exact .next (h.running h.moverIssue)
  | zero => exact .next (h.running h.moverIssue)
  | moverActionStart => exact .next (h.clocked h.moverStart)
  | moverActionComplete => exact .next (h.clocked h.moverComplete)
  | setEnqueue => exact .next (h.running h.setEnqueue)
  | expandEnqueue => exact .next (h.running h.expandIssue)
  | spanld => exact .next (h.running h.spanldIssue)
  | spanldWrite => exact .next (h.clocked h.spanldWrite)
  | expanderStart => exact .next (h.clocked h.expanderStart)
  | expanderComplete => exact .next (h.clocked h.expanderComplete)
  | wholeLineWrite => exact .next (.ite h.wholeLine h)
  | partialWrite => exact .next (.ite h.partialWrite h)
  | tipinIdleFlush => exact .next (.ite h.idleFlush h)
  | tipinLineFreed => exact .next (.ite h.lineFreed h)
  | tipinFenceComplete => exact .next (.ite h.tipFenceDone h)
  | hbmRequestGrant => exact .next (.ite h.updRegs h)
  | censusRecordWrite => exact .next (h.clocked h.recordWrite)
  | censusMergeWrite => exact .next (h.clocked h.mergeWrite)
  | updateChunkArrive => exact .next (h.clocked h.chunkArrive)
  | updateChunkApplied => exact .next (h.clocked h.chunkApplied)
  | parkStateArrive => exact .next (h.clocked h.parkArrive)
  | parkWritesComplete => exact .next (h.clocked h.parkDone)
  | roundApplied => exact .next (h.clocked h.roundApplied)
  | roundCommit => exact .next (h.clocked h.roundCommit)
  | commitRecordVisible => exact .next (h.clocked h.commitVisible)
  | roundAbort => exact .next (h.clocked h.roundAbort)
  | linkTraining => exact .next (h.clocked (.ite h.linkTrained.retrainDone h))
  | dataFlitReceive => exact .next (h.clocked h.dataFlit)
  | idleFlitReceive => exact .next (h.clocked h.idleFlit)
  | nakReceive => exact .next (h.clocked h.nakFlit)
  | retrainTimeout => exact .next (h.clocked (.ite h.linkDown.retrainDone h))
  | laneHalveMarker => exact .next (h.clocked (.ite (h.core rfl) h))
  | setDescriptorStart => exact .next (h.clocked h.descriptorStart)
  | chunkReceive => exact .next (h.clocked h.chunkReceive)
  | wcredReceive => exact .next (h.clocked h.wcredReceive)
  | voteEnter => exact .next (h.clocked h.voteEnter)
  | voteReceive => exact .next (h.clocked h.voteReceive)
  | abortReceive => exact .next (h.clocked h.abortReceive)
  | nackReceive => exact .next (h.clocked h.nackReceive)
  | hopTimeout => exact .next (h.clocked h.hopTimeout)
  | freezeBoundary => exact .next (h.clocked h.freezeBoundary)
  | farSelect => exact .next (.ite h.farSelect h)
  | farSelectComplete => exact .next (.ite h.selectComplete h)
  | farDeadline => exact .next (.ite h.tryClose h)
  | farApply => exact .next (.ite h.farApply h)
  | chotinData => exact .next (h.clocked h.frameIn)
  | chotinSack => exact .next (h.clocked h.frameIn)
  | chotinProbe => exact .next (h.clocked h.frameIn)
  | chotinProbeReply => exact .next (h.clocked h.frameIn)
  | chotinJoinReq => exact .next (h.clocked h.frameIn)
  | chotinBulk => exact .next (h.clocked h.frameIn)
  | chotinBulkEnd => exact .next (h.clocked h.frameIn)
  | chotinHello => exact .next (h.clocked h.frameIn)
  | chotinLeave => exact .next (h.clocked h.frameIn)
  | sackTimer => exact .next (.ite h.sackTimer h)
  | rtoExpiry => exact .next (.ite h.rtoExpiry h)
  | probeTimer => exact .next (.ite h.probeTimer h)
  | helloTimer => exact .next (.ite h.helloTimer h)
  | silenceTimeout => exact .next (.ite h.silence h)
  | epochOverlapEnd => exact .next (.ite h.overlapEnd h)
  | ppsEdge => exact .next (.ite h.ppsEdge h)
  | farPortDown => exact .next (.portTested (h.core rfl))
  | neighborSolicitation => exact .next (.ite h.ndAnswer h)
  | echoRequest => exact .next (.ite h.echo h)
  | pauseFrame => exact .next (.ite h.dropFrame h)
  | cipLockGrant => exact .next (.ite h.grantServe h)
  | cipLockWaitTimeout => exact .next (.ite h.lockTimeout h)
  | cipLockIdleRevoke => exact .next (.ite h.idleRevoke h)
  | cipMessageDone => exact .next (.ite (h.loosely (fun _ h => h.messageDone)) h)
  | clipStart => exact .next (.ite h.clipStart h)
  | clipDecodeDone => exact .next (.ite h.clipDone h)
  | bufferHeaderPoll => exact .next (.ite h.headerPoll h)
  | pieceHeaderWrite => exact .next (.ite h.headerWrite h)
  | pieceHandoff => exact .next (.ite h.pieceHandoff h)
  | jobComplete => exact .next (.ite h.jobComplete h)
  | powerSample => exact .next h.powerSample
  | controlStep => exact .next h.controlStep
  | operatingPointChangeDone => exact .next (h.clocked h.pointDone)
  | dutyGateEnd => exact .next (h.clocked h.dutyGateEnd)
  | pwrBrakeAssert => exact .next h.brakeAssert
  | pwrBrakeRelease => exact .next h.brakeRelease
  | thermalThreshold => exact .next h.thermalThreshold
  | thermalTrip => exact .next h.thermalTrip
  | coolantLoss => exact .next h.coolantLoss
  | powerGoodFall => exact .next h.powerGoodFall
  | aonPowerGood => exact .next h.aonGood
  | aonPowerLost => exact .next h.aonLost
  | refclkInterrupt => exact .next h.refclkStop
  | tickCompareWake => exact .next h.tickWake
  | devResetAssert => exact .next h.devResetAssert
  | devResetRelease => exact .next h.devResetRelease
  | perstAssert => exact .next (.update h.perst rfl)
  | perstRelease => exact .next h.perstRelease
  | fenceStart => exact .next h.fenceStart
  | drainWindowEnd => exact .next (.ite h.windowEnd h)
  | partitionResetDone => exact .next (.ite h.partitionResetDone h)
  | deviceWarmReset => exact .next h.deviceWarmReset
  | serviceBusWatchdogBite => exact .next h.sbBite
  | mpWatchdogBite => exact .next h.mpBite
  | janteRestartDone => exact .next h.janteRestart
  | bootKeysDerived => exact .next h.bootKeys
  | imageSelect => exact .next h.imageSelect
  | folioCheck => exact .next h.folioCheck
  | hbmTrained => exact .next h.hbmTrained
  | memoryTestDone => exact .next h.memoryTested
  | linksTrained => exact .next h.linksTrained
  | dynamicPartSigned => exact .next h.dynamicSigned
  | bar0Access => exact .next (.ite h.bar0Access h)
  | bar2Read => exact .next h.bar2Read
  | bar2Write => exact .next h.bar2Write
  | cxlMemRead => exact .next h.cxlMemRead
  | cxlMemWrite => exact .next h.cxlMemWrite
  | hostLineTake => exact .next h.lineTake
  | birspReceive => exact .next (.ite h.birsp h)
  | hostWriteback => exact .next (.ite h.writeback h)
  | slowTierCompletion => exact .next (.ite h.slowCompletion h)
  | doeRequest => exact .next h.doeRequest
  | doeAbort => exact .next h.doeAbort
  | getVersion => exact .next h.getVersion
  | getCapabilities => exact .next h.getCapabilities
  | negotiateAlgorithms => exact .next h.negotiateAlgorithms
  | getDigests => exact .next h.getDigests
  | getCertificate => exact .next h.getCertificate
  | challenge => exact .next h.challenge
  | getMeasurements => exact .next h.getMeasurements
  | tapInstruction => exact .next h.tapInstruction
  | h2dSnoop => exact .next (.ite (h.core rfl) h)
  | cxlLinkDown => exact .next (.ite h.cxlDown h)
  | farPortUp => exact .next (.ite (.farPump (.portTested (h.core rfl))) h)
  | refclkReturn => exact .next (h.core rfl)
  | farPortDiscard => exact .next (.ite h.dropFrame h)
  | chotinReservedFrame => exact .next (h.clocked h.reservedFrame)
  -- `Instr.seal`, whose last name is a keyword here
  | _ => exact .next (h.running h.moverIssue)
end
end Keeps

/-- A step keeps the invariant: on an empty queue it is a period of the reference clock, and else a command run on the
rest of the queue. -/
theorem step_inv {s t : State} (hi : Inv s) (e : step s = .next t) : Inv t := by
  unfold step at e
  split at e
  · exact Host.Outcome.next.inj e ▸ (Keeps.refl s).idlePeriod.inv hi
  · next rest _ =>
    have k : Keeps { s with pending := rest } t := (Keeps.refl _).exec e
    exact k.inv ⟨hi.hbm, hi.sram, hi.counts, hi.fcounts⟩

/-- Settles O3: every operation of a step keeps the invariant (`Keeps`). -/
theorem stepKeepsInvariant : Obligations.StepKeepsInvariant :=
  fun _ _ => step_inv

/-- Settles O5: no operation a command runs writes the queue or the set of absent engines (`Keeps`). -/
theorem commandsLeaveQueueAlone : Obligations.CommandsLeaveQueueAlone := by
  intro c s t e
  have k : Keeps s t := (Keeps.refl s).exec e
  exact ⟨k.pending, k.absent⟩

end Sys2Proof.Machine
end

section
namespace Sys2Proof.Machine

/-!
PROOFS. Writes of registers by access type. A word is read bit by bit (`bitAt_fieldsWord`), each write-one-to-clear bit goes
through `bitAt_clearOnes`, and a write changes the presence of no block (`regThere_writeReg`).
-/

/-! ### Bits of words -/

theorem bitAt_and {n : Nat} (a b : BitVec n) (i : Nat) : bitAt (a &&& b) i = (bitAt a i && bitAt b i) :=
  BitVec.getLsbD_and

theorem bitAt_or {n : Nat} (a b : BitVec n) (i : Nat) : bitAt (a ||| b) i = (bitAt a i || bitAt b i) :=
  BitVec.getLsbD_or

theorem bitAt_not {n : Nat} (a : BitVec n) {i : Nat} (h : i < n) : bitAt (~~~a) i = !bitAt a i := by
  simp [bitAt, h]

theorem bitAt_lt {n : Nat} {a : BitVec n} {i : Nat} (h : bitAt a i = true) : i < n :=
  BitVec.lt_of_getLsbD h

theorem bitAt_setBit {n : Nat} (a : BitVec n) (k : Nat) {i : Nat} (h : i < n) :
    bitAt (setBit a k) i = (bitAt a i || decide (i = k)) := by
  have hk : (1#n <<< k).getLsbD i = decide (i = k) := by
    rw [BitVec.getLsbD_shiftLeft, BitVec.getLsbD_one, Bool.eq_iff_iff]
    simp only [Bool.and_eq_true, Bool.not_eq_true', decide_eq_true_eq, decide_eq_false_iff_not]
    omega
  rw [setBit, bitAt_or, ← hk]
  rfl

/-- Under the mask, a write of 1 leaves what hardware sets in the same cycle, and a write of 0 leaves the bit (R9, R10). -/
theorem bitAt_clearOnes {old mask v hw : W32} {i : Nat} (h : bitAt mask i = true) :
    bitAt (clearOnes old mask v hw) i = if bitAt v i then bitAt hw i else bitAt old i := by
  have hi : i < 32 := bitAt_lt h
  simp only [clearOnes, bitAt_or, bitAt_and, bitAt_not _ hi, h]
  cases bitAt v i <;> simp

theorem bitAt_setFields_ne {old mask v : W32} {i : Nat} (hi : i < 32) (h : bitAt mask i = false) :
    bitAt (setFields old mask v) i = bitAt old i := by
  simp [setFields, bitAt_or, bitAt_and, bitAt_not _ hi, h]

/-! ### Words of fields -/

/-- The fields lie one below another, the first under bit `n`. -/
def fieldsBelow : Nat → List (Nat × Nat × Nat) → Bool
  | _, [] => true
  | n, f :: fs => decide (f.1 + f.2.1 ≤ n) && fieldsBelow f.1 fs

/-- Bit `i` of a word of such fields. -/
def fieldBit : List (Nat × Nat × Nat) → Nat → Bool
  | [], _ => false
  | f :: fs, i => if f.1 ≤ i then decide (i < f.1 + f.2.1) && f.2.2.testBit (i - f.1) else fieldBit fs i

/-- The number a list of fields spells. -/
def fieldsSum (fs : List (Nat × Nat × Nat)) : Nat := (fs.map (fun f => f.2.2 % 2 ^ f.2.1 * 2 ^ f.1)).sum

theorem fieldsSum_lt {n : Nat} {fs : List (Nat × Nat × Nat)} (h : fieldsBelow n fs = true) : fieldsSum fs < 2 ^ n := by
  induction fs generalizing n with
  | nil => exact Nat.two_pow_pos n
  | cons f fs ih =>
    simp only [fieldsBelow, Bool.and_eq_true, decide_eq_true_eq] at h
    have hv : f.2.2 % 2 ^ f.2.1 + 1 ≤ 2 ^ f.2.1 := Nat.mod_lt _ (Nat.two_pow_pos _)
    calc fieldsSum (f :: fs) = f.2.2 % 2 ^ f.2.1 * 2 ^ f.1 + fieldsSum fs := by simp [fieldsSum]
      _ < f.2.2 % 2 ^ f.2.1 * 2 ^ f.1 + 2 ^ f.1 := Nat.add_lt_add_left (ih h.2) _
      _ = (f.2.2 % 2 ^ f.2.1 + 1) * 2 ^ f.1 := (Nat.succ_mul _ _).symm
      _ ≤ 2 ^ f.2.1 * 2 ^ f.1 := Nat.mul_le_mul_right _ hv
      _ = 2 ^ (f.1 + f.2.1) := by rw [Nat.add_comm, Nat.pow_add]
      _ ≤ 2 ^ n := Nat.pow_le_pow_right (by decide) h.1

theorem testBit_fieldsSum {n : Nat} {fs : List (Nat × Nat × Nat)} (h : fieldsBelow n fs = true) (i : Nat) :
    (fieldsSum fs).testBit i = fieldBit fs i := by
  induction fs generalizing n with
  | nil => simp [fieldsSum, fieldBit]
  | cons f fs ih =>
    simp only [fieldsBelow, Bool.and_eq_true, decide_eq_true_eq] at h
    have e : fieldsSum (f :: fs) = 2 ^ f.1 * (f.2.2 % 2 ^ f.2.1) + fieldsSum fs := by simp [fieldsSum, Nat.mul_comm]
    rw [e, Nat.testBit_two_pow_mul_add _ (fieldsSum_lt h.2), fieldBit]
    by_cases hi : f.1 ≤ i
    · rw [if_neg (by omega), if_pos hi, Nat.testBit_mod_two_pow]
      congr 1
      exact decide_eq_decide.2 (by omega)
    · rw [if_pos (by omega), if_neg hi, ih h.2]

theorem bitAt_fieldsWord {fs : List (Nat × Nat × Nat)} (h : fieldsBelow 32 fs = true) (i : Nat) :
    bitAt (fieldsWord fs) i = fieldBit fs i := by
  have e : (fieldsWord fs).toNat = fieldsSum fs := Nat.mod_eq_of_lt (fieldsSum_lt h)
  rw [bitAt, ← BitVec.testBit_toNat, e, testBit_fieldsSum h]

theorem testBit_b2n_zero (b : Bool) : (b2n b).testBit 0 = b := by cases b <;> rfl

/-! ### What a write leaves of the units' presence -/

theorem regThere_congr {s t : State} (ha : t.absent = s.absent) (hp : t.pstates = s.pstates) (r : Reg) :
    regThere t r = regThere s r := by
  simp only [regThere, enginePresent, pstateOf, ha, hp]

theorem raiseVectors_pstates (l : List Nat) (s : State) : (l.foldl raiseVector s).pstates = s.pstates := by
  induction l generalizing s with
  | nil => rfl
  | cons k l ih => exact (ih (raiseVector s k)).trans (raiseVector_pstates s k)

theorem irqClear_pstates (s : State) (v hw : W32) : (irqClear s v hw).pstates = s.pstates :=
  raiseVectors_pstates _ _

theorem mbxField_pstates (s : State) (i : Nat) (f : Mailbox → Mailbox) : (mbxField s i f).pstates = s.pstates := by
  unfold mbxField
  extract_lets
  split <;> rfl

theorem writeSys_pstates (s : State) (v hw : W32) (r : Reg) : (writeSys s v hw r).pstates = s.pstates := by
  unfold writeSys
  split <;> simp [updPwr, setMailbox, irqClear_pstates, mbxField_pstates]

theorem writeUnit_pstates (s : State) (v hw : W32) (r : Reg) : (writeUnit s v hw r).pstates = s.pstates := by
  unfold writeUnit
  split <;> simp [setLoopReg, updUpd, setUpd, setCmp, updCip, updBnd, writeSys_pstates]

theorem writeReg_pstates (s : State) (v hw : W32) (r : Reg) : (writeReg s v hw r).pstates = s.pstates := by
  unfold writeReg
  split <;> simp [updEngine, setEngine, updCensus, updMem, updRegs, setMem, writeUnit_pstates]

theorem regThere_writeReg (s : State) (v hw : W32) (r q : Reg) : regThere (writeReg s v hw r) q = regThere s q :=
  regThere_congr (Keeps.refl s).writeReg.absent (writeReg_pstates s v hw r) q

/-! ### `REGISTER_WRITE` -/

theorem regRead_of_there {s : State} {r : Reg} (h : regThere s r = true) : regRead s r = readReg s r := if_pos h

theorem exec_registerWrite {s : State} (r : Reg) (v hw : W32) (h : softUp s = true) :
    exec (.registerWrite r v hw) s = .next (anyWrite s v hw r) :=
  congrArg Host.Outcome.next (if_pos h)

theorem anyWrite_of_absent {s : State} {r : Reg} (v hw : W32) (h : regThere s r = false) : anyWrite s v hw r = s := by
  simp [anyWrite, h]

theorem anyWrite_of_clearMask {s : State} {r : Reg} (v hw : W32) (ht : regThere s r = true) (hc : clearMask r ≠ 0#32) :
    anyWrite s v hw r = writeReg s v hw r := by
  simp only [anyWrite, ht, Bool.not_true, Bool.false_eq_true, if_false]
  split
  case h_15 => rfl
  all_goals exact absurd rfl hc

/-! ### `MBX_IRQ_STAT` -/

theorem bitAt_raiseVector (s : State) (k : Nat) {i : Nat} (hi : i < 32) :
    bitAt (raiseVector s k).cxl.irqStat i = (bitAt s.cxl.irqStat i || decide (i = k)) := by
  unfold raiseVector
  split
  · next h => by_cases e : i = k <;> simp_all
  · extract_lets
    split <;> exact bitAt_setBit _ k hi

theorem bitAt_raiseVectors (l : List Nat) (s : State) {i : Nat} (hi : i < 32) :
    bitAt (l.foldl raiseVector s).cxl.irqStat i = (bitAt s.cxl.irqStat i || decide (i ∈ l)) := by
  induction l generalizing s with
  | nil => simp
  | cons k l ih => simp [ih, bitAt_raiseVector s k hi, Bool.or_assoc]

theorem bitAt_irqClear (s : State) (v hw : W32) {i : Nat} (h : bitAt (0x1FFFFFF#32) i = true) :
    bitAt (irqClear s v hw).cxl.irqStat i = if bitAt v i then bitAt hw i else bitAt s.cxl.irqStat i := by
  have hi : i < 32 := bitAt_lt h
  have h25 : i < 25 := (by decide : ∀ i < 32, bitAt (0x1FFFFFF#32) i = true → i < 25) i hi h
  unfold irqClear
  extract_lets gone _ s1
  have hg : bitAt gone i = bitAt v i := by simp [gone, bitAt_and, h]
  have h1 : bitAt s1.cxl.irqStat i = (bitAt s.cxl.irqStat i && !bitAt v i) := by
    simp only [s1, bitAt_and, bitAt_not _ hi, hg]
  rw [bitAt_raiseVectors _ _ hi, h1]
  simp only [List.mem_filter, List.mem_range, h25, hg, true_and, Bool.decide_eq_true]
  cases bitAt v i <;> simp

/-! ### Units after a write of their own -/

theorem engineOf_updEngine (s : State) (e : Nat) (f : Engine → Engine) : engineOf (updEngine s e f) e = f (engineOf s e) :=
  Tbl.get_set_self _ _ _ _

theorem memOf_updMem (s : State) (p : Nat) (f : MemSide → MemSide) : memOf (updMem s p f) p = f (memOf s p) :=
  Tbl.get_set_self _ _ _ _

theorem memOf_updRegs (s : State) (p : Nat) (f : Regs → Regs) :
    memOf (updRegs s p f) p = { memOf s p with regs := f (memOf s p).regs } :=
  Tbl.get_set_self _ _ _ _

theorem updOf_updUpd (s : State) (p : Nat) (f : Upd → Upd) : updOf (updUpd s p f) p = f (updOf s p) :=
  Tbl.get_set_self _ _ _ _

theorem cmpOf_setCmp (s : State) (p : Nat) (x : Cmp) : cmpOf (setCmp s p x) p = x :=
  Tbl.get_set_self _ _ _ _

theorem mailboxOf_setMailbox (s : State) (i : Nat) (x : Mailbox) : mailboxOf (setMailbox s i x) i = x :=
  Tbl.get_set_self _ _ _ _

theorem loopOf_setLoopReg (s : State) (fill : Bool) (n : Nat) (v : W32) : loopOf (setLoopReg s fill n v) fill n = v := by
  cases fill <;> exact Tbl.get_set_self _ _ _ _

/-! ### Where a word shows its write-one-to-clear bits -/

theorem bitAt_cstatWord (x : Census) {i : Nat} (h : bitAt (0xD#32) i = true) : bitAt (cstatWord x) i = bitAt x.cstat i := by
  have h1 : i ≠ 1 := by rintro rfl; exact absurd h (by decide)
  rw [cstatWord, bitAt_or, bitAt_and, h, bitAt_fieldsWord rfl, fieldBit, fieldBit, Bool.and_true]
  split
  · simp [show ¬ i < 2 by omega]
  · simp

theorem bitAt_bwrStat (s : State) (p : Fin 8) : bitAt (readReg s (.bwrStat p)) 31 = (memOf s p).regs.cfgerr := by
  show bitAt (fieldsWord _) 31 = _
  rw [bitAt_fieldsWord rfl]
  exact testBit_b2n_zero _

theorem bitAt_secBoot (s : State) : bitAt (readReg s .secBoot) 22 = s.sec.fallback := by
  show bitAt (fieldsWord _) 22 = _
  rw [bitAt_fieldsWord rfl]
  exact testBit_b2n_zero _

theorem bitAt_pwrStat (s : State) {i : Nat} (h : bitAt (0xF00000#32) i = true) :
    bitAt (readReg s .pwrStat) i = bitAt s.pwr.sticky i := by
  obtain ⟨h20, h24⟩ := (by decide : ∀ i < 32, bitAt (0xF00000#32) i = true → 20 ≤ i ∧ i < 24) i (bitAt_lt h) h
  show bitAt (pwrStatWord s) i = _
  rw [pwrStatWord, bitAt_or, bitAt_and, h, bitAt_fieldsWord rfl]
  simp [fieldBit, show ¬ 31 ≤ i by omega, show ¬ 30 ≤ i by omega, show ¬ 29 ≤ i by omega, show ¬ 28 ≤ i by omega,
    show ¬ i < 12 by omega]

theorem bitAt_pwrAonStat (s : State) {i : Nat} (h : bitAt (7#32) i = true) :
    bitAt (readReg s .pwrAonStat) i = bitAt s.pwr.aonStat i := by
  have hm := (by decide : ∀ i < 32, bitAt (7#32) i = true → bitAt (0x80000007#32) i = true) i (bitAt_lt h) h
  exact (bitAt_and _ _ i).trans (by rw [hm, Bool.and_true])

theorem bitAt_rstFence (s : State) {i : Nat} (h : bitAt (0xFFFFFF00#32) i = true) :
    bitAt (readReg s .rstFence) i = bitAt s.rst.fence i := by
  have hm := (by decide : ∀ i < 32, bitAt (0xFFFFFF00#32) i = true → bitAt (0xFFFFFF07#32) i = true) i (bitAt_lt h) h
  exact (bitAt_and _ _ i).trans (by rw [hm, Bool.and_true])

/-- `PWR_RAIL` shows the latches of the 14 rails from bit 16 on. -/
theorem bitAt_pwrRail (s : State) {j : Nat} (h : j < 14) : bitAt (readReg s .pwrRail) (j + 16) = bitAt s.pwr.latch j := by
  show bitAt (fieldsWord _) (j + 16) = _
  rw [bitAt_fieldsWord rfl, fieldBit, if_pos (by omega), Nat.add_sub_cancel, BitVec.testBit_toNat]
  simp [bitAt, show j + 16 < 30 by omega]

theorem bitAt_railBits (w : W32) {j : Nat} (h : j < 14) : bitAt (BitVec.ofNat 14 (bits w 29 16)) j = bitAt w (j + 16) := by
  simp only [bitAt, bits, BitVec.getLsbD_ofNat, Nat.testBit_mod_two_pow, Nat.testBit_shiftRight, BitVec.testBit_toNat]
  simp [h, Nat.add_comm]

theorem bitAt_latch_cleared (old : BitVec 14) (v hw : W32) {j : Nat} (h : j < 14) :
    bitAt ((old &&& ~~~(BitVec.ofNat 14 (bits v 29 16))) ||| BitVec.ofNat 14 (bits (v &&& hw) 29 16)) j =
      if bitAt v (j + 16) then bitAt hw (j + 16) else bitAt old j := by
  rw [bitAt_or, bitAt_and, bitAt_not _ h, bitAt_railBits _ h, bitAt_railBits _ h, bitAt_and]
  cases bitAt v (j + 16) <;> simp

/-! ### Write-one-to-clear bits -/

theorem bitAt_flag_cleared (old : Bool) (v hw : W32) (i : Nat) :
    ((old && !bitAt v i) || (bitAt v i && bitAt hw i)) = if bitAt v i then bitAt hw i else old := by
  cases bitAt v i <;> simp

/-- A register whose word is one write-one-to-clear field. -/
theorem bitAt_of_clearOnes {s : State} {r : Reg} {v hw : W32} {i : Nat} (h : bitAt (clearMask r) i = true)
    (e : readReg (writeReg s v hw r) r = clearOnes (readReg s r) (clearMask r) v hw) :
    bitAt (readReg (writeReg s v hw r) r) i = if bitAt v i then bitAt hw i else bitAt (readReg s r) i := by
  rw [e]
  exact bitAt_clearOnes h

/-- The write leaves a bit where 0 is written and else what hardware sets in the same cycle. -/
theorem bitAt_readReg_writeReg (s : State) {r : Reg} {v hw : W32} {i : Nat} (h : bitAt (clearMask r) i = true) :
    bitAt (readReg (writeReg s v hw r) r) i = if bitAt v i then bitAt hw i else bitAt (readReg s r) i := by
  unfold clearMask at h
  split at h
  -- ARR_ERR, ELE_ERR, ARR_ACC_ERR, UPD_ERR, CMP_ERR, MEM_ERR, MBX_STATUS: the word is a field of the unit written
  case h_1 e => exact bitAt_of_clearOnes h (congrArg Engine.arrErr (engineOf_updEngine s e _))
  case h_2 e => exact bitAt_of_clearOnes h (congrArg Engine.eleErr (engineOf_updEngine s e _))
  case h_5 e => exact bitAt_of_clearOnes h (congrArg Engine.accErr (engineOf_updEngine s e _))
  case h_7 p => exact bitAt_of_clearOnes h (congrArg Upd.err (updOf_updUpd s p _))
  case h_8 p => exact bitAt_of_clearOnes h (congrArg Cmp.err (cmpOf_setCmp s p _))
  case h_11 p => exact bitAt_of_clearOnes h (congrArg MemSide.err (memOf_updMem s p _))
  case h_24 b => exact bitAt_of_clearOnes h (congrArg Mailbox.status (mailboxOf_setMailbox s b _))
  -- FAR_ERR, CIP_ERR, CAL_FERR, MBX_HERR, RST_SBWDOG, CAL_ERR, CAL_WDGSTAT, SET_ERR, BND_ERR: the word is a field of the state
  case h_3 | h_4 | h_6 | h_9 | h_13 | h_14 | h_15 | h_16 | h_17 => exact bitAt_of_clearOnes h rfl
  -- MEM_CSTAT
  case h_10 p =>
    have e : (memOf (writeReg s v hw (.memCstat p)) p).census.cstat = clearOnes (memOf s p).census.cstat 0xD#32 v hw :=
      congrArg (fun m => m.census.cstat) (memOf_updMem s p _)
    exact (bitAt_cstatWord _ h).trans (by rw [e, bitAt_clearOnes h, ← bitAt_cstatWord _ h]; rfl)
  -- BWR_STAT
  case h_12 p =>
    obtain rfl : i = 31 := (by decide : ∀ i < 32, bitAt (0x80000000#32) i = true → i = 31) i (bitAt_lt h) h
    have e := congrArg (fun m => m.regs.cfgerr) (memOf_updRegs s p
      (fun r => { r with cfgerr := (r.cfgerr && !bitAt v 31) || (bitAt v 31 && bitAt hw 31) }))
    rw [bitAt_bwrStat, bitAt_bwrStat]
    exact e.trans (bitAt_flag_cleared _ v hw 31)
  -- PWR_AON_STAT
  case h_18 =>
    have h31 := (by decide : ∀ i < 32, bitAt (7#32) i = true → bitAt (0x80000000#32) i = false) i (bitAt_lt h) h
    rw [bitAt_pwrAonStat _ h, bitAt_pwrAonStat _ h]
    exact (bitAt_setFields_ne (bitAt_lt h) h31).trans (bitAt_clearOnes h)
  -- PWR_STAT
  case h_19 =>
    rw [bitAt_pwrStat _ h, bitAt_pwrStat _ h]
    exact bitAt_clearOnes h
  -- PWR_RAIL
  case h_20 =>
    obtain ⟨j, hj, rfl⟩ : ∃ j, j < 14 ∧ i = j + 16 := by
      obtain ⟨h16, h30⟩ := (by decide : ∀ i < 32, bitAt (0x3FFF0000#32) i = true → 16 ≤ i ∧ i < 30) i (bitAt_lt h) h
      exact ⟨i - 16, by omega, by omega⟩
    rw [bitAt_pwrRail _ hj, bitAt_pwrRail _ hj]
    exact bitAt_latch_cleared _ v hw hj
  -- RST_FENCE
  case h_21 =>
    rw [bitAt_rstFence _ h, bitAt_rstFence _ h]
    exact bitAt_clearOnes h
  -- SEC_BOOT
  case h_22 =>
    obtain rfl : i = 22 := (by decide : ∀ i < 32, bitAt (0x400000#32) i = true → i = 22) i (bitAt_lt h) h
    rw [bitAt_secBoot, bitAt_secBoot]
    exact bitAt_flag_cleared _ v hw 22
  -- MBX_IRQ_STAT
  case h_23 => exact bitAt_irqClear s v hw h
  -- no such bit
  case h_25 => exact absurd h (by simp [bitAt])

/-- What hardware sets in `MEM_GIL_CTL` in the cycle of a write of 1 reads set afterwards (R10). -/
theorem bitAt_gil_cfgerr (s : State) {v hw : W32} (hv : bitAt v 29 = true) (hh : bitAt hw 29 = true) :
    bitAt (regRead (anyWrite s v hw .memGilCtl) .memGilCtl) 29 = true := by
  have hg : (anyWrite s v hw .memGilCtl).gil = setBit (gilWrite s v).gil 29 := by
    simp [anyWrite, regThere, regEngine, regPart, hv, hh]
  have h29 : bitAt (anyWrite s v hw .memGilCtl).gil 29 = true := by
    rw [hg, bitAt_setBit _ 29 (by decide)]
    simp
  show bitAt (_ &&& 0xA0007F7F#32 ||| _) 29 = true
  rw [bitAt_or, bitAt_and, h29]
  rfl

/-- Settles O22: under the mask a write clears as `clearOnes` says, in every word that shows the bits. -/
theorem writeOneToClear : Obligations.WriteOneToClear := by
  refine ⟨fun s r v hw i hup ht _ h => ?_,
    fun s v hw hup hv hh => ⟨_, exec_registerWrite _ v hw hup, bitAt_gil_cfgerr s hv hh⟩⟩
  have hc : clearMask r ≠ 0#32 := fun e => by simp [e, bitAt] at h
  refine ⟨_, exec_registerWrite r v hw hup, ?_⟩
  rw [anyWrite_of_clearMask v hw ht hc, regRead_of_there ht, regRead_of_there ((regThere_writeReg s v hw r r).trans ht),
    bitAt_readReg_writeReg s h]
  exact ⟨fun hv => by rw [hv]; rfl, fun hv => by rw [hv]; rfl⟩

/-! ### Plain registers -/

theorem anyWrite_calLoop (s : State) (n : Fin 4) (v hw : W32) : anyWrite s v hw (.calLoop n) = setLoopReg s false n v := rfl

theorem anyWrite_of_plain {s : State} {r : Reg} (v hw : W32) (ht : regThere s r = true) (hp : plainReg r = true)
    (hl : ∀ n, r ≠ .calLoop n) : anyWrite s v hw r = writeReg s v hw r := by
  simp only [anyWrite, ht, Bool.not_true, Bool.false_eq_true, if_false]
  split
  case h_5 n => exact absurd rfl (hl n)
  case h_15 => rfl
  all_goals exact absurd hp (by simp [plainReg])

theorem readReg_writeReg_of_plain (s : State) {r : Reg} (v hw : W32) (hp : plainReg r = true) (hl : ∀ n, r ≠ .calLoop n) :
    readReg (writeReg s v hw r) r = v := by
  unfold plainReg at hp
  split at hp
  -- ELE_SEED, ELE_STEP, MEM_CTHR0, UPD_SEED
  case h_1 e => exact congrArg Engine.seedLo (engineOf_updEngine s e _)
  case h_2 e => exact congrArg Engine.seedHi (engineOf_updEngine s e _)
  case h_3 e => exact congrArg Engine.step (engineOf_updEngine s e _)
  case h_4 p => exact congrArg (fun m => m.census.cthr0) (memOf_updMem s p _)
  case h_5 p => exact congrArg Upd.seedLo (updOf_updUpd s p _)
  case h_6 p => exact congrArg Upd.seedHi (updOf_updUpd s p _)
  -- CAL_LOOP is excluded; CAL_FLOOP
  case h_9 n => exact absurd rfl (hl n)
  case h_10 n => exact loopOf_setLoopReg s true n v
  -- BND_SEED, PWR_WAKE
  case h_7 | h_8 | h_11 | h_12 => rfl
  -- no other is plain
  case h_13 => exact absurd hp (by decide)

theorem regRead_anyWrite_of_plain {s : State} {r : Reg} (v hw : W32) (ht : regThere s r = true) (hp : plainReg r = true) :
    regRead (anyWrite s v hw r) r = v := by
  by_cases hl : ∃ n, r = .calLoop n
  · obtain ⟨n, rfl⟩ := hl
    rw [anyWrite_calLoop]
    exact loopOf_setLoopReg s false n v
  · have hl : ∀ n, r ≠ .calLoop n := fun n e => hl ⟨n, e⟩
    rw [anyWrite_of_plain v hw ht hp hl, regRead_of_there ((regThere_writeReg s v hw r r).trans ht)]
    exact readReg_writeReg_of_plain s v hw hp hl

/-! ### Registers that are not there -/

theorem regRead_of_absent {s : State} {r : Reg} (h : regThere s r = false) : regRead s r = 0#32 := if_neg (by simp [h])

theorem exec_registerWrite_of_absent {s : State} {r : Reg} (v hw : W32) (h : regThere s r = false) :
    exec (.registerWrite r v hw) s = .next s :=
  congrArg Host.Outcome.next (by rw [anyWrite_of_absent v hw h, ite_self])

/-- Settles O23: a plain register takes the value whole, and where the block is absent the access is dropped first. -/
theorem registerReadsAndWrites : Obligations.RegisterReadsAndWrites :=
  ⟨fun _ r v hw hup ht hp => ⟨_, exec_registerWrite r v hw hup, regRead_anyWrite_of_plain v hw ht hp⟩,
    fun _ _ v hw h => ⟨regRead_of_absent h, exec_registerWrite_of_absent v hw h⟩⟩

end Sys2Proof.Machine
end

section
namespace Sys2Proof.Machine

/-!
PROOFS. The actions of the arrays. What an engine does at a step is first said of the engine alone: arrays changed one by one
(`mapArrs`), a load begun (`beginLoad_arrs`), an action that advances (`advanceAct`), all of them (`advanceAll`). What else of
the state such an operation reaches is faults, counters and records (`ReportsOnly`). The statements are assembled from these.
-/

/-- A run over a list is followed from its start: what holds of the empty list, and of a list with one more member behind it
where it holds of the list, holds of every list. -/
theorem concatInduction {α : Type} {motive : List α → Prop} (nil : motive [])
    (append_singleton : ∀ l a, motive l → motive (l ++ [a])) (l : List α) : motive l := by
  have h : ∀ r : List α, motive r.reverse := fun r => by
    induction r with
    | nil => exact nil
    | cons a r ih =>
      rw [List.reverse_cons]
      exact append_singleton r.reverse a ih
  exact List.reverse_reverse l ▸ h l.reverse

/-! ### Arrays changed one by one -/

/-- Every array of a list changed by `f`, in the list's order. -/
def mapArrs (f : Nat → Arr → Arr) (x : Engine) (l : List Nat) : Engine := l.foldl (fun x a => setArr x a (f a (arrOf x a))) x

@[simp] theorem arrOf_setArr_self (x : Engine) (a : Nat) (r : Arr) : arrOf (setArr x a r) a = r := Tbl.get_set_self _ _ _ _

theorem arrOf_setArr_ne (x : Engine) {a k : Nat} (r : Arr) (h : k ≠ a) : arrOf (setArr x a r) k = arrOf x k :=
  Tbl.get_set_ne _ _ _ h

theorem mapArrs_concat (f : Nat → Arr → Arr) (x : Engine) (l : List Nat) (a : Nat) :
    mapArrs f x (l ++ [a]) = setArr (mapArrs f x l) a (f a (arrOf (mapArrs f x l) a)) := by
  simp [mapArrs]

theorem mapArrs_rest (f : Nat → Arr → Arr) (x : Engine) (l : List Nat) : mapArrs f x l = { x with arrs := (mapArrs f x l).arrs } := by
  induction l using concatInduction with
  | nil => rfl
  | append_singleton l a ih =>
    rw [mapArrs_concat, ih]
    rfl

theorem arrOf_mapArrs_of_not_mem (f : Nat → Arr → Arr) (x : Engine) {l : List Nat} {k : Nat} (h : k ∉ l) :
    arrOf (mapArrs f x l) k = arrOf x k := by
  induction l using concatInduction with
  | nil => rfl
  | append_singleton l a ih =>
    simp only [List.mem_append, List.mem_singleton, not_or] at h
    rw [mapArrs_concat, arrOf_setArr_ne _ _ h.2, ih h.1]

theorem arrOf_mapArrs_of_mem (f : Nat → Arr → Arr) (x : Engine) {l : List Nat} {k : Nat} (hl : l.Nodup) (h : k ∈ l) :
    arrOf (mapArrs f x l) k = f k (arrOf x k) := by
  induction l using concatInduction with
  | nil => exact absurd h (by simp)
  | append_singleton l a ih =>
    obtain ⟨hl, -, ha⟩ := List.nodup_append.1 hl
    rw [mapArrs_concat]
    by_cases e : k = a
    · subst e
      rw [arrOf_setArr_self, arrOf_mapArrs_of_not_mem f x (fun m => ha k m k (List.mem_singleton_self k) rfl)]
    · rw [arrOf_setArr_ne _ _ e, ih hl (by simpa [e] using h)]

/-- What `f` leaves of every array, the whole run of them leaves. -/
theorem arrOf_mapArrs_keeps {α : Type} (g : Arr → α) {f : Nat → Arr → Arr} (hf : ∀ a r, g (f a r) = g r) (x : Engine) (l : List Nat)
    (k : Nat) : g (arrOf (mapArrs f x l) k) = g (arrOf x k) := by
  induction l using concatInduction with
  | nil => rfl
  | append_singleton l a ih =>
    rw [mapArrs_concat]
    by_cases e : k = a
    · rw [e, arrOf_setArr_self, hf, ← e, ih]
    · rw [arrOf_setArr_ne _ _ e, ih]

/-! ### Masks of arrays -/

/-- The mask with the bits of a list set. -/
def maskOf (l : List Nat) : Nat := l.foldl (fun m a => m + 2 ^ a) 0

theorem maskBits_nodup (m : Nat) : (maskBits m).Nodup := List.nodup_range.filter _

theorem maskOf_concat (l : List Nat) (a : Nat) : maskOf (l ++ [a]) = maskOf l + 2 ^ a := by simp [maskOf]

theorem maskOf_ne_zero {l : List Nat} (h : l ≠ []) : maskOf l ≠ 0 := by
  obtain ⟨l, a, rfl⟩ := (List.eq_nil_or_concat l).resolve_left h
  rw [List.concat_eq_append, maskOf_concat]
  have := Nat.two_pow_pos a
  omega

/-- The mask of the numbers below `n` that meet `p` has bit `i` exactly where `i` is one of them. -/
theorem testBit_maskOf (p : Nat → Bool) (n : Nat) :
    maskOf ((List.range n).filter p) < 2 ^ n ∧ ∀ i, (maskOf ((List.range n).filter p)).testBit i = (decide (i < n) && p i) := by
  induction n with
  | zero => simp [maskOf]
  | succ n ih =>
    obtain ⟨hlt, hbit⟩ := ih
    have e : maskOf ((List.range (n + 1)).filter p) = 2 ^ n * b2n (p n) + maskOf ((List.range n).filter p) := by
      rw [List.range_succ, List.filter_append]
      cases h : p n
      · simp [h, b2n]
      · simp [h, b2n, maskOf_concat, Nat.add_comm]
    rw [e]
    refine ⟨?_, fun i => ?_⟩
    · have : 2 ^ n * b2n (p n) ≤ 2 ^ n * 1 := Nat.mul_le_mul_left _ (by cases p n <;> decide)
      omega
    · rw [Nat.testBit_two_pow_mul_add _ hlt, hbit]
      rcases Nat.lt_trichotomy i n with h | rfl | h
      · simp [h, Nat.lt_succ_of_lt h]
      · simp [b2n]
        cases p i <;> simp
      · have : (b2n (p n)).testBit (i - n) = false := by
          obtain ⟨j, hj⟩ : ∃ j, i - n = j + 1 := ⟨i - n - 1, by omega⟩
          rw [hj]
          cases p n <;> simp [b2n, Nat.testBit_succ]
        simp [show ¬ i < n by omega, show ¬ i < n + 1 by omega, this]

theorem maskBits_maskOf (p : Nat → Bool) : maskBits (maskOf ((List.range 8).filter p)) = (List.range 8).filter p :=
  List.filter_congr fun a ha => by simp [(testBit_maskOf p 8).2, List.mem_range.1 ha]

theorem maskBits_two_pow {a : Nat} (h : a < 8) : maskBits (2 ^ a) = [a] :=
  (by decide : ∀ a < 8, maskBits (2 ^ a) = [a]) a h

theorem backsReady_zero (x : Engine) : backsReady x 0 = 0 := rfl

/-- Where no back set of a mask is loading, a load of all its arrays may begin. -/
theorem backsReady_of_not_loading {x : Engine} {m : Nat} (h : backsLoading x m = false) : backsReady x m = maskOf (maskBits m) := by
  have : (maskBits m).filter (fun a => !(arrOf x a).back.loading) = maskBits m :=
    List.filter_eq_self.2 fun a ha => by simpa using List.any_eq_false.1 h a ha
  exact congrArg maskOf this

/-! ### What reaches no engine and no memory -/

/-- From `s` to `t` the engines, the measure bus and both memories stay: faults, counters and records alone may change. -/
structure ReportsOnly (s t : State) : Prop where
  engines : t.engines = s.engines
  bus : t.bus = s.bus
  sram : t.sram = s.sram
  poison : t.sramPoison = s.sramPoison
  hbm : t.hbm = s.hbm

namespace ReportsOnly
section
variable {s t u : State}

theorem refl (s : State) : ReportsOnly s s := ⟨rfl, rfl, rfl, rfl, rfl⟩

theorem trans (h : ReportsOnly s t) (k : ReportsOnly t u) : ReportsOnly s u :=
  ⟨k.engines.trans h.engines, k.bus.trans h.bus, k.sram.trans h.sram, k.poison.trans h.poison, k.hbm.trans h.hbm⟩

theorem core (h : ReportsOnly s t) (e : (u.engines, u.bus, u.sram, u.sramPoison, u.hbm) = (t.engines, t.bus, t.sram, t.sramPoison, t.hbm)) :
    ReportsOnly s u := by
  simp only [Prod.mk.injEq] at e
  obtain ⟨he, hb, hs, hp, hh⟩ := e
  exact h.trans ⟨he, hb, hs, hp, hh⟩

theorem foldl {α : Type} {f : State → α → State} (h : ReportsOnly s t) (hf : ∀ t a, ReportsOnly s t → ReportsOnly s (f t a))
    (l : List α) : ReportsOnly s (l.foldl f t) := by
  induction l generalizing t with
  | nil => exact h
  | cons a l ih => exact ih (hf t a h)

theorem raiseVector (h : ReportsOnly s t) (v : Nat) : ReportsOnly s (raiseVector t v) :=
  h.trans (by constructor <;> simp)

theorem memError (h : ReportsOnly s t) (p bit addr : Nat) (inSram : Bool) : ReportsOnly s (memError t p bit addr inSram) := by
  unfold Machine.memError requestFence
  extract_lets m m' t'
  have ht : ReportsOnly s t' := by
    refine raiseVector (h.core ?_) 24
    rfl
  split
  · split
    · exact ht.core rfl
    · exact ht
  · exact ht

theorem faultInRun (h : ReportsOnly s t) (fill : Bool) : ReportsOnly s (faultInRun t fill) := by
  cases fill
  · exact h.core rfl
  · refine raiseVector (h.core ?_) 16
    rfl

theorem sramCorrected (h : ReportsOnly s t) (a n : Nat) : ReportsOnly s (sramCorrected t a n) := by
  unfold Machine.sramCorrected
  split
  · exact h
  · exact h.core rfl

theorem consumedSram (h : ReportsOnly s t) (p addr : Nat) (fill : Bool) : ReportsOnly s (consumedSram t p addr fill) :=
  (h.memError p errUe addr true).faultInRun fill

theorem pushCensus (h : ReportsOnly s t) (p : Nat) (r : CRec) : ReportsOnly s (pushCensus t p r) := h.core rfl

theorem loadCorrected (h : ReportsOnly s t) (eng : Nat) (before after : ArrAct) :
    ReportsOnly s (loadCorrected t eng before after) :=
  h.foldl (fun _ _ h => h.sramCorrected _ _) _

end
end ReportsOnly

/-- From `s` to `t` engine `eng` becomes `x`, and the measure bus and both memories stay. -/
structure BecomesEngine (s t : State) (eng : Nat) (x : Engine) : Prop where
  engine : engineOf t eng = x
  bus : t.bus = s.bus
  sram : t.sram = s.sram
  poison : t.sramPoison = s.sramPoison
  hbm : t.hbm = s.hbm

@[simp] theorem engineOf_setEngine_self (s : State) (eng : Nat) (x : Engine) : engineOf (setEngine s eng x) eng = x :=
  Tbl.get_set_self _ _ _ _

namespace BecomesEngine
section
variable {s t u : State} {eng : Nat} {x y : Engine}

theorem refl (s : State) (eng : Nat) : BecomesEngine s s eng (engineOf s eng) := ⟨rfl, rfl, rfl, rfl, rfl⟩

theorem setEngine (s : State) (eng : Nat) (x : Engine) : BecomesEngine s (setEngine s eng x) eng x :=
  ⟨engineOf_setEngine_self s eng x, rfl, rfl, rfl, rfl⟩

theorem trans (h : BecomesEngine s t eng x) (k : BecomesEngine t u eng y) : BecomesEngine s u eng y :=
  ⟨k.engine, k.bus.trans h.bus, k.sram.trans h.sram, k.poison.trans h.poison, k.hbm.trans h.hbm⟩

theorem reportsOnly (h : BecomesEngine s t eng x) (k : ReportsOnly t u) : BecomesEngine s u eng x :=
  ⟨(congrArg (fun l => Tbl.get engineReset l eng) k.engines).trans h.engine, k.bus.trans h.bus, k.sram.trans h.sram,
    k.poison.trans h.poison, k.hbm.trans h.hbm⟩

end
end BecomesEngine

/-! ### Actions that advance -/

/-- What has happened to an action's pass stays: its arrays, stream, rows and rows issued. -/
structure SamePass (v w : ArrAct) : Prop where
  amask : w.ent.amask = v.ent.amask
  fill : w.fill = v.fill
  step : w.step = v.step
  rows : w.rows = v.rows
  done : w.done = v.done

namespace SamePass

theorem refl (v : ArrAct) : SamePass v v := ⟨rfl, rfl, rfl, rfl, rfl⟩

theorem trans {u v w : ArrAct} (h : SamePass u v) (k : SamePass v w) : SamePass u w :=
  ⟨k.amask.trans h.amask, k.fill.trans h.fill, k.step.trans h.step, k.rows.trans h.rows, k.done.trans h.done⟩

end SamePass

/-- From `x` to `y` the arrays alone change, and no array's `NEXT`. -/
structure ArrsOnly (x y : Engine) : Prop where
  rest : y = { x with arrs := y.arrs }
  next : ∀ k fill, nextBank (arrOf y k) fill = nextBank (arrOf x k) fill

namespace ArrsOnly

theorem refl (x : Engine) : ArrsOnly x x := ⟨rfl, fun _ _ => rfl⟩

theorem trans {x y z : Engine} (h : ArrsOnly x y) (k : ArrsOnly y z) : ArrsOnly x z :=
  ⟨by rw [k.rest, h.rest], fun i fill => (k.next i fill).trans (h.next i fill)⟩

theorem mapArrs {f : Nat → Arr → Arr} (hf : ∀ a r fill, nextBank (f a r) fill = nextBank r fill) (x : Engine) (l : List Nat) :
    ArrsOnly x (mapArrs f x l) :=
  ⟨mapArrs_rest f x l, fun k fill => arrOf_mapArrs_keeps (fun r => nextBank r fill) (fun a r => hf a r fill) x l k⟩

end ArrsOnly

/-- The array with another back set. -/
def withBack (r : Arr) (w : WSet) : Arr := { r with back := w }

/-- The array with its sets in each other's roles. -/
def exchanged (r : Arr) : Arr := { r with front := r.back, back := r.front }

/-- The back set array `a` has once an action's load of it has begun: its image, or none where that holds a poisoned word. -/
def backLoading (s : State) (eng : Nat) (act : ArrAct) (a : Nat) : WSet :=
  let at_ := scratchBase eng + act.wbase + a * arrImageBytes act.ent
  if (sramPoisoned s at_ (arrImageBytes act.ent)).isSome then wsetEmpty
  else wsetOf act.ent (sramRead s at_ (arrImageBytes act.ent))

/-- A load that begins on every array of a mask. -/
def loadBacks (s : State) (eng : Nat) (x : Engine) (act : ArrAct) (mask : Nat) : Engine :=
  mapArrs (fun a r => withBack r (backLoading s eng act a)) x (maskBits mask)

/-- The images of every array of a mask hold no poisoned word. -/
def ImagesClean (s : State) (eng : Nat) (act : ArrAct) (mask : Nat) : Prop :=
  ∀ a ∈ maskBits mask, sramPoisoned s (scratchBase eng + act.wbase + a * arrImageBytes act.ent) (arrImageBytes act.ent) = none

theorem beginLoad_arrs (s : State) (eng : Nat) (x : Engine) (act : ArrAct) (mask : Nat) :
    (beginLoad s eng x act mask).1 = loadBacks s eng x act mask := by
  unfold beginLoad loadBacks
  induction maskBits mask using concatInduction with
  | nil => rfl
  | append_singleton l a ih =>
    rw [mapArrs_concat, List.foldl_append, ← ih]
    simp only [List.foldl_cons, List.foldl_nil]
    split
    · next hp => simp [setWset, backLoading, withBack, hp]
    · next hp => simp [setWset, backLoading, withBack, hp]

theorem beginLoad_mask {s : State} {eng : Nat} (x : Engine) {act : ArrAct} {mask : Nat} (h : ImagesClean s eng act mask) :
    (beginLoad s eng x act mask).2.1 = maskOf (maskBits mask) := by
  unfold ImagesClean at h
  unfold beginLoad
  generalize maskBits mask = l at h ⊢
  induction l using concatInduction with
  | nil => rfl
  | append_singleton l a ih =>
    have ha := h a (by simp)
    rw [List.foldl_append, maskOf_concat, ← ih (fun k hk => h k (by simp [hk]))]
    simp only [List.foldl_cons, List.foldl_nil, ha]

theorem arrOf_swapSets {x : Engine} {mask a : Nat} (h : a ∈ maskBits mask) : arrOf (swapSets x mask) a = exchanged (arrOf x a) :=
  arrOf_mapArrs_of_mem (fun _ => exchanged) x (maskBits_nodup mask) h

theorem swapSets_arrsOnly (x : Engine) (mask : Nat) : ArrsOnly x (swapSets x mask) :=
  .mapArrs (f := fun _ => exchanged) (fun _ _ _ => rfl) x _

theorem arrOf_loadBacks (s : State) (eng : Nat) (x : Engine) (act : ArrAct) {mask a : Nat} (h : a ∈ maskBits mask) :
    arrOf (loadBacks s eng x act mask) a = withBack (arrOf x a) (backLoading s eng act a) :=
  arrOf_mapArrs_of_mem _ x (maskBits_nodup mask) h

theorem loadBacks_arrsOnly (s : State) (eng : Nat) (x : Engine) (act : ArrAct) (mask : Nat) :
    ArrsOnly x (loadBacks s eng x act mask) :=
  .mapArrs (f := fun a r => withBack r (backLoading s eng act a)) (fun _ _ _ => rfl) x _

section
variable {s : State} {eng : Nat} {x : Engine} {act : ArrAct}

/-- The sets exchange once every back set is valid, and the action goes on as one without a swap. -/
theorem advanceAct_of_swap (h : act.swap = true) (hv : backsValid x act.ent.amask = true) :
    advanceAct s eng x act = advanceAct s eng (swapSets x act.ent.amask) { act with swap := false } := by
  simp [advanceAct, h, hv]

theorem advanceAct_of_invalid (h : act.swap = true) (hv : backsValid x act.ent.amask = false) :
    advanceAct s eng x act = (x, act, none) := by
  simp [advanceAct, h, hv]

theorem advanceAct_of_none_ready (h : act.swap = false) (h0 : backsReady x act.loadDue = 0) :
    advanceAct s eng x act = (x, act, none) := by
  simp [advanceAct, h, h0]

/-- The engine after the load of every array that is ready has begun. -/
theorem advanceAct_of_ready (h : act.swap = false) (h0 : backsReady x act.loadDue ≠ 0) :
    (advanceAct s eng x act).1 = loadBacks s eng x act (backsReady x act.loadDue) ∧
      SamePass act (advanceAct s eng x act).2.1 ∧
      (advanceAct s eng x act).2.1.loads = act.loads + (beginLoad s eng x act (backsReady x act.loadDue)).2.1 := by
  rw [← beginLoad_arrs]
  simp only [advanceAct, h, h0, Bool.false_and, Bool.false_eq_true, if_false]
  refine ⟨trivial, ⟨?_, rfl, rfl, rfl, rfl⟩, trivial⟩
  dsimp only
  split <;> rfl

theorem advanceAct_of_idle (h : act.swap = false) (hd : act.loadDue = 0) : advanceAct s eng x act = (x, act, none) :=
  advanceAct_of_none_ready h (by rw [hd, backsReady_zero])

/-- Where no swap is asked for, an action that advances changes no pass, and of the engine the arrays alone. -/
theorem advanceAct_keeps_of_no_swap (h : act.swap = false) :
    ArrsOnly x (advanceAct s eng x act).1 ∧ SamePass act (advanceAct s eng x act).2.1 := by
  by_cases h0 : backsReady x act.loadDue = 0
  · rw [advanceAct_of_none_ready h h0]
    exact ⟨.refl x, .refl act⟩
  · obtain ⟨hx, hp, -⟩ := advanceAct_of_ready (s := s) (eng := eng) h h0
    rw [hx]
    exact ⟨loadBacks_arrsOnly .., hp⟩

/-- An action that advances changes no pass, and of the engine the arrays alone. -/
theorem advanceAct_keeps (s : State) (eng : Nat) (x : Engine) (act : ArrAct) :
    ArrsOnly x (advanceAct s eng x act).1 ∧ SamePass act (advanceAct s eng x act).2.1 := by
  cases hs : act.swap
  · exact advanceAct_keeps_of_no_swap hs
  · cases hv : backsValid x act.ent.amask
    · rw [advanceAct_of_invalid hs hv]
      exact ⟨.refl x, .refl act⟩
    · rw [advanceAct_of_swap hs hv]
      obtain ⟨hw, hp⟩ := advanceAct_keeps_of_no_swap (s := s) (eng := eng) (x := swapSets x act.ent.amask)
        (act := { act with swap := false }) rfl
      exact ⟨(swapSets_arrsOnly ..).trans hw, hp.amask, hp.fill, hp.step, hp.rows, hp.done⟩

/-- A load due on the arrays of a mask none of whose back sets is loading begins on all of them. -/
theorem advanceAct_loads_of_no_swap {m : Nat} (h : act.swap = false) (hd : act.loadDue = m) (hm : maskBits m ≠ [])
    (hl : backsLoading x m = false) (hc : ImagesClean s eng act m) :
    (advanceAct s eng x act).2.1.loads ≠ 0 ∧ ∀ a ∈ maskBits m, (arrOf (advanceAct s eng x act).1 a).back =
      wsetOf act.ent (sramRead s (scratchBase eng + act.wbase + a * arrImageBytes act.ent) (arrImageBytes act.ent)) := by
  subst hd
  have hr := backsReady_of_not_loading hl
  have hb : maskBits (backsReady x act.loadDue) = maskBits act.loadDue := hr ▸ maskBits_maskOf _
  obtain ⟨hx, -, hn⟩ := advanceAct_of_ready (s := s) (eng := eng) h (hr ▸ maskOf_ne_zero hm)
  have hc' : ImagesClean s eng act (backsReady x act.loadDue) := by rwa [ImagesClean, hb]
  refine ⟨?_, fun a ha => ?_⟩
  · rw [hn, beginLoad_mask x hc', hb]
    have := maskOf_ne_zero hm
    omega
  · rw [hx, arrOf_loadBacks s eng x act (hb ▸ ha)]
    simp [withBack, backLoading, hc a ha]

/-- The sets that a load about to begin would take are free: the back sets, or where a swap comes first the front sets. -/
def LoadFree (x : Engine) (swap : Bool) (m : Nat) : Prop :=
  if swap then backsValid x m = true ∧ ∀ a ∈ maskBits m, (arrOf x a).front.loading = false else backsLoading x m = false

theorem advanceAct_loads (hd : act.loadDue = act.ent.amask) (hm : maskBits act.ent.amask ≠ []) (hf : LoadFree x act.swap act.ent.amask)
    (hc : ImagesClean s eng act act.ent.amask) :
    (advanceAct s eng x act).2.1.loads ≠ 0 ∧ ∀ a ∈ maskBits act.ent.amask, (arrOf (advanceAct s eng x act).1 a).back =
      wsetOf act.ent (sramRead s (scratchBase eng + act.wbase + a * arrImageBytes act.ent) (arrImageBytes act.ent)) := by
  cases hs : act.swap
  · rw [LoadFree, hs] at hf
    exact advanceAct_loads_of_no_swap hs hd hm (by simpa using hf) hc
  · rw [LoadFree, hs, if_pos rfl] at hf
    obtain ⟨hv, hfront⟩ := hf
    rw [advanceAct_of_swap hs hv]
    refine advanceAct_loads_of_no_swap (act := { act with swap := false }) rfl hd hm ?_ hc
    exact List.any_eq_false.2 fun a ha => by simp [arrOf_swapSets ha, exchanged, hfront a ha]

end

theorem beginLoad_congr {s t : State} (hr : t.sram = s.sram) (hp : t.sramPoison = s.sramPoison) : beginLoad t = beginLoad s := by
  funext eng x act mask
  simp only [beginLoad, sramPoisoned, sramRead, hr, hp]

/-- What an action that advances reads of the state is SRAM alone. -/
theorem advanceAct_congr {s t : State} (hr : t.sram = s.sram) (hp : t.sramPoison = s.sramPoison) : advanceAct t = advanceAct s := by
  funext eng x act
  unfold advanceAct
  rw [beginLoad_congr hr hp]

/-! ### All actions of an engine advance -/

/-- One action advances in the run over an engine's actions: the state so far and the actions already passed. -/
def advanceStep (eng : Nat) (acc : State × List ArrAct) (act : ArrAct) : State × List ArrAct :=
  let r := advanceAct acc.1 eng (engineOf acc.1 eng) act
  let s := loadCorrected (setEngine acc.1 eng r.1) eng act r.2.1
  (match r.2.2 with | some p => consumedSram s (eng / 10) p act.fill | none => s, acc.2 ++ [r.2.1])

/-- The run over a list of actions. -/
def advanceList (s : State) (eng : Nat) (l : List ArrAct) : State × List ArrAct := l.foldl (advanceStep eng) (s, [])

/-- The engine without the actions whose work has ended (R474). -/
def withoutEnded (x : Engine) : Engine :=
  { x with acts := x.acts.filter (fun a => !actEnded a),
           undrained := x.undrained ++ (x.acts.filter actEnded).filter (fun a => a.fill && a.rows != 0) }

theorem withoutEnded_acts {x : Engine} (h : ∀ a ∈ x.acts, actEnded a = false) : (withoutEnded x).acts = x.acts :=
  List.filter_eq_self.2 fun a ha => by simp [h a ha]

theorem mem_withoutEnded_acts {x : Engine} {a : ArrAct} : a ∈ (withoutEnded x).acts ↔ a ∈ x.acts ∧ actEnded a = false := by
  simp [withoutEnded]

theorem actEnded_of_rows_left {act : ArrAct} (h : act.done < act.rows) : actEnded act = false := by
  simp [actEnded, show act.done ≠ act.rows by omega]

theorem actEnded_of_loads {act : ArrAct} (h : act.loads ≠ 0) : actEnded act = false := by simp [actEnded, h]

theorem retireActs_becomes (s : State) (eng : Nat) : BecomesEngine s (retireActs s eng) eng (withoutEnded (engineOf s eng)) :=
  (BecomesEngine.setEngine s eng _).reportsOnly ((ReportsOnly.refl _).foldl (fun _ _ h => h.pushCensus _ _) _)

theorem advanceStep_becomes (eng : Nat) (acc : State × List ArrAct) (act : ArrAct) :
    BecomesEngine acc.1 (advanceStep eng acc act).1 eng (advanceAct acc.1 eng (engineOf acc.1 eng) act).1 := by
  refine (BecomesEngine.setEngine acc.1 eng _).reportsOnly ?_
  unfold advanceStep
  extract_lets r
  have h := (ReportsOnly.refl (setEngine acc.1 eng r.1)).loadCorrected eng act r.2.1
  dsimp only
  split
  · exact h.consumedSram _ _ _
  · exact h

theorem advanceList_concat (s : State) (eng : Nat) (l : List ArrAct) (act : ArrAct) :
    advanceList s eng (l ++ [act]) = advanceStep eng (advanceList s eng l) act := by
  simp [advanceList]

/-- The run over any actions changes the arrays alone, and no pass. -/
theorem advanceList_keeps (s : State) (eng : Nat) (l : List ArrAct) :
    ∃ x, BecomesEngine s (advanceList s eng l).1 eng x ∧ ArrsOnly (engineOf s eng) x ∧
      ∀ v ∈ l, ∃ w ∈ (advanceList s eng l).2, SamePass v w := by
  induction l using concatInduction with
  | nil => exact ⟨_, .refl s eng, .refl _, by simp⟩
  | append_singleton l act ih =>
    obtain ⟨x, hx, hw, hl⟩ := ih
    obtain ⟨hw', hp⟩ := advanceAct_keeps (advanceList s eng l).1 eng (engineOf (advanceList s eng l).1 eng) act
    rw [advanceList_concat]
    refine ⟨_, hx.trans (advanceStep_becomes eng _ act), hw.trans (hx.engine ▸ hw'), fun v hv => ?_⟩
    rcases List.mem_append.1 hv with hv | hv
    · obtain ⟨w, hm, hs⟩ := hl v hv
      exact ⟨w, List.mem_append_left _ hm, hs⟩
    · obtain rfl := List.mem_singleton.1 hv
      exact ⟨_, List.mem_append_right _ (List.mem_singleton_self _), hp⟩

/-- No swap and no load of the action has still to come about. -/
def NoneDue (act : ArrAct) : Prop := act.swap = false ∧ act.loadDue = 0

/-- Actions for which nothing has still to come about stay as they are, and so does their engine. -/
theorem advanceList_of_none_due (s : State) (eng : Nat) {l : List ArrAct} (h : ∀ a ∈ l, NoneDue a) :
    BecomesEngine s (advanceList s eng l).1 eng (engineOf s eng) ∧ (advanceList s eng l).2 = l := by
  induction l using concatInduction with
  | nil => exact ⟨.refl s eng, rfl⟩
  | append_singleton l act ih =>
    obtain ⟨hx, hl⟩ := ih fun a ha => h a (by simp [ha])
    obtain ⟨hs, hd⟩ := h act (by simp)
    have hi : ∀ t x, advanceAct t eng x act = (x, act, none) := fun _ _ => advanceAct_of_idle hs hd
    have hb := advanceStep_becomes eng (advanceList s eng l) act
    rw [hi, hx.engine] at hb
    rw [advanceList_concat]
    refine ⟨hx.trans hb, ?_⟩
    simp [advanceStep, hi, hl]

theorem advanceAll_eq {s : State} {eng : Nat} {r : State × List ArrAct} (hr : advanceList s eng (engineOf s eng).acts = r) :
    advanceAll s eng = retireActs (setEngine r.1 eng { engineOf r.1 eng with acts := r.2 }) eng := by
  subst hr
  rfl

theorem advanceAll_becomes {s : State} {eng : Nat} {x : Engine} {r : State × List ArrAct}
    (hr : advanceList s eng (engineOf s eng).acts = r) (h : BecomesEngine s r.1 eng x) :
    BecomesEngine s (advanceAll s eng) eng (withoutEnded { x with acts := r.2 }) := by
  have hx := BecomesEngine.setEngine r.1 eng { engineOf r.1 eng with acts := r.2 }
  have ht := retireActs_becomes (setEngine r.1 eng { engineOf r.1 eng with acts := r.2 }) eng
  rw [hx.engine] at ht
  rw [advanceAll_eq hr, ← h.engine]
  exact h.trans (hx.trans ht)

/-- Where nothing has still to come about, an engine only retires what has ended. -/
theorem advanceAll_of_none_due {s : State} {eng : Nat} (h : ∀ a ∈ (engineOf s eng).acts, NoneDue a) :
    BecomesEngine s (advanceAll s eng) eng (withoutEnded (engineOf s eng)) := by
  obtain ⟨hx, hl⟩ := advanceList_of_none_due s eng h
  simpa only [hl] using advanceAll_becomes rfl hx

/-- Behind actions for which nothing has still to come about, the last action alone advances. -/
theorem advanceAll_of_last_due {s : State} {eng : Nat} {old : List ArrAct} {act : ArrAct} (ha : (engineOf s eng).acts = old ++ [act])
    (h : ∀ a ∈ old, NoneDue a) :
    BecomesEngine s (advanceAll s eng) eng (withoutEnded { (advanceAct s eng (engineOf s eng) act).1 with
      acts := old ++ [(advanceAct s eng (engineOf s eng) act).2.1] }) := by
  obtain ⟨hx, hl⟩ := advanceList_of_none_due s eng h
  have hs : BecomesEngine s (advanceStep eng (advanceList s eng old) act).1 eng (advanceAct s eng (engineOf s eng) act).1 := by
    have := advanceStep_becomes eng (advanceList s eng old) act
    rw [hx.engine, advanceAct_congr hx.sram hx.poison] at this
    exact hx.trans this
  have h2 : (advanceStep eng (advanceList s eng old) act).2 = old ++ [(advanceAct s eng (engineOf s eng) act).2.1] := by
    simp only [advanceStep, hl, hx.engine, advanceAct_congr hx.sram hx.poison]
  rw [← h2]
  exact advanceAll_becomes (by rw [ha, advanceList_concat]) hs

/-- Whatever goes on at an engine, its arrays and its actions alone change, and each action stays with its pass until it has ended. -/
theorem advanceAll_keeps (s : State) (eng : Nat) :
    ∃ x, BecomesEngine s (advanceAll s eng) eng (withoutEnded x) ∧ x = { engineOf s eng with arrs := x.arrs, acts := x.acts } ∧
      (∀ k fill, nextBank (arrOf x k) fill = nextBank (arrOf (engineOf s eng) k) fill) ∧
      ∀ v ∈ (engineOf s eng).acts, ∃ w ∈ x.acts, SamePass v w := by
  obtain ⟨x, hx, hw, hl⟩ := advanceList_keeps s eng (engineOf s eng).acts
  refine ⟨_, advanceAll_becomes rfl hx, ?_, hw.next, hl⟩
  rw [hw.rest]

/-! ### Actions at issue -/

/-- An event of a gated unit comes about where the clocks run and no gate withholds them. -/
theorem exec_of_running {c : Instr} {s t : State} (hx : exec c s = .next (running s t)) (hc : clocksRun s.dev = true)
    (hg : s.pwr.gate = .none) : exec c s = .next t := by
  have : gated s = false := by rw [gated, hg]; rfl
  rw [hx, running, hc, this]
  rfl

/-- The state after the action left the bus. -/
def offBus (s : State) (b : BusAct) : State := { s with bus := s.bus.erase b }

/-- Action `e` heads its engine's actions on the bus, and nothing before it holds it back. -/
structure AtHead (s : State) (eng : Nat) (b : BusAct) (e : ArrEntry) : Prop where
  first : busFirst s (.array eng) = some b
  entry : arrEntryOf (b.entry.setWidth 128) = some (some e)
  held : e.op = .load → loadHeld (engineOf s eng) e.amask = false
  free : e.op ≠ .load → ∀ a ∈ maskBits e.amask, passOn (engineOf s eng) a = none

/-- The engine with the bits of a refused action set. -/
def refusedEngine (x : Engine) (eb ab : Nat) : Engine :=
  { x with arrErr := x.arrErr ||| BitVec.ofNat 32 eb, accErr := x.accErr ||| BitVec.ofNat 32 ab }

/-- Such an action is taken off the bus, and begins or is refused by its checks. -/
theorem arrayIssue_of_atHead {s : State} {eng : Nat} {b : BusAct} {e : ArrEntry} (h : AtHead s eng b e) {eb ab : Nat}
    (he : arrErrBits s (engineOf s eng) e b.fill (actRows e b.span) b.delta = eb)
    (ha : accErrBits (engineOf s eng) e b.fill (actRows e b.span) = ab) :
    arrayIssue s eng e.op = if eb = 0 ∧ ab = 0 then arrayBegin (offBus s b) eng b e
      else faultAtIssue (fillRange (setEngine (offBus s b) eng (refusedEngine (engineOf s eng) eb ab)) (b.fill && eb.testBit 0))
        b.fill := by
  obtain ⟨hf, hen, hl, hp⟩ := h
  have ht : busTake s (.array eng) = offBus s b := by
    simp only [busTake, hf]
    rfl
  have h1 : ¬(e.op = .load ∧ loadHeld (engineOf s eng) e.amask = true) := fun ⟨h, k⟩ => by simp [hl h] at k
  have h2 : ¬(e.op ≠ .load ∧ (maskBits e.amask).any (fun a => (passOn (engineOf s eng) a).isSome) = true) := fun ⟨h, k⟩ => by
    obtain ⟨a, ha, k⟩ := List.any_eq_true.1 k
    simp [hp h a ha] at k
  subst he ha
  unfold arrayIssue
  rw [hf]
  dsimp only
  rw [hen]
  simp only [h1, h2, ne_eq, not_true_eq_false, if_false, ht]
  rfl

/-- The engine and the action with which an accepted entry begins. -/
structure BeginsAs (x : Engine) (b : BusAct) (e : ArrEntry) (y : Engine) (act : ArrAct) : Prop where
  rest : y = { x with arrs := y.arrs }
  front : ∀ k, (arrOf y k).front = (arrOf x k).front
  back : ∀ k, (arrOf y k).back = (arrOf x k).back
  ent : act.ent = e
  fill : act.fill = b.fill
  step : act.step = x.step.toNat
  wbase : act.wbase = (baseAfter e.wbase e.dsel b.delta).toNat
  rows : act.rows = if passes e then actRows e b.span else 0
  done : act.done = 0
  swap : act.swap = (passes e && e.swap)
  loadDue : act.loadDue = if loads e then e.amask else 0

/-- The array as a pass on it is counted in its open tile. -/
def passCounted (fill : Bool) (r : Arr) : Arr :=
  if fill then { r with ftile := r.ftile.map (fun t => { t with passes := t.passes + 1 }) }
  else { r with tile := r.tile.map (fun t => { t with passes := t.passes + 1 }) }

theorem arrayBegin_eq (s : State) (eng : Nat) (b : BusAct) (e : ArrEntry) :
    ∃ y act, BeginsAs (engineOf s eng) b e y act ∧ arrayBegin s eng b e =
      if mustWait s (eng / 10) b.fill then setEngine s eng { y with suspended := y.suspended ++ [act] }
      else advanceAll (setEngine s eng { y with acts := y.acts ++ [act] }) eng := by
  unfold arrayBegin
  extract_lets x rows passNo bump y act
  have hy : y = if continues e then mapArrs (fun _ => passCounted b.fill) x (maskBits e.amask) else x := rfl
  refine ⟨y, act, ?_, rfl⟩
  have hrest : y = { x with arrs := y.arrs } := by
    rw [hy]
    split
    · exact mapArrs_rest ..
    · rfl
  have hkeeps : ∀ k (g : Arr → WSet), (∀ r, g (passCounted b.fill r) = g r) → g (arrOf y k) = g (arrOf x k) := fun k g hg => by
    rw [hy]
    split
    · exact arrOf_mapArrs_keeps g (fun _ => hg) x _ k
    · rfl
  refine ⟨hrest, fun k => hkeeps k Arr.front fun r => ?_, fun k => hkeeps k Arr.back fun r => ?_, rfl, rfl, ?_, rfl, rfl, rfl, rfl, rfl⟩
  · unfold passCounted
    split <;> rfl
  · unfold passCounted
    split <;> rfl
  · show y.step.toNat = x.step.toNat
    rw [hrest]

/-- The weight image of array `a` for an entry, in bytes (R52, R68). -/
def imageAddr (eng : Nat) (b : BusAct) (e : ArrEntry) (a : Nat) : Nat :=
  scratchBase eng + (baseAfter e.wbase e.dsel b.delta).toNat + a * arrImageBytes e

/-- The load of an entry begins on all its arrays at once, and no image of them is poisoned. -/
structure LoadReady (s : State) (eng : Nat) (b : BusAct) (e : ArrEntry) : Prop where
  free : LoadFree (engineOf s eng) (passes e && e.swap) e.amask
  clean : ∀ a ∈ maskBits e.amask, sramPoisoned s (imageAddr eng b e a) (arrImageBytes e) = none

theorem passes_or_loads (e : ArrEntry) : passes e = true ∨ loads e = true := by
  cases h : e.op <;> simp [passes, loads, h]

theorem loads_iff (e : ArrEntry) : loads e = true ↔ e.op = .load ∨ e.op = .passLoad := by
  cases h : e.op <;> simp [loads, h]

theorem rows_of_passes (e : ArrEntry) (n : Nat) : (if passes e then n else 0) = if e.op = .load then 0 else n := by
  cases h : e.op <;> simp [passes, h]

theorem LoadFree.congr {x y : Engine} {swap : Bool} {m : Nat} (hf : ∀ k, (arrOf y k).front = (arrOf x k).front)
    (hb : ∀ k, (arrOf y k).back = (arrOf x k).back) (h : LoadFree x swap m) : LoadFree y swap m := by
  simpa only [LoadFree, backsValid, backsLoading, hf, hb] using h

section
variable {s : State} {eng : Nat} {b : BusAct} {e : ArrEntry}

/-- A fill action whose core does not serve its stream waits outside the engine (R201). -/
theorem arrayBegin_of_mustWait (hw : mustWait s (eng / 10) b.fill = true) :
    ∃ y act, BecomesEngine s (arrayBegin s eng b e) eng y ∧ y.acts = (engineOf s eng).acts ∧
      y.suspended = (engineOf s eng).suspended ++ [act] ∧ act.rows = (if passes e then actRows e b.span else 0) ∧ act.done = 0 := by
  obtain ⟨y, act, hy, heq⟩ := arrayBegin_eq s eng b e
  rw [heq, if_pos hw]
  refine ⟨_, act, .setEngine s eng _, ?_, ?_, hy.rows, hy.done⟩
  · rw [hy.rest]
  · rw [hy.rest]

/-- The load an entry asks for begins with the images of all its arrays. -/
theorem BeginsAs.takes {u : State} {y : Engine} {act : ArrAct} (hy : BeginsAs (engineOf s eng) b e y act)
    (hu : BecomesEngine s u eng { y with acts := y.acts ++ [act] }) (hm : maskBits e.amask ≠ []) (h : loads e = true)
    (hl : LoadReady s eng b e) :
    (advanceAct u eng (engineOf u eng) act).2.1.loads ≠ 0 ∧ ∀ a ∈ maskBits e.amask,
      (arrOf (advanceAct u eng (engineOf u eng) act).1 a).back = wsetOf e (sramRead s (imageAddr eng b e a) (arrImageBytes e)) := by
  have hfree : LoadFree (engineOf u eng) act.swap act.ent.amask := by
    rw [hu.engine, hy.swap, hy.ent]
    exact hl.free.congr hy.front hy.back
  have hclean : ImagesClean u eng act act.ent.amask := by
    simpa only [ImagesClean, hy.ent, hy.wbase, sramPoisoned, hu.poison, imageAddr] using hl.clean
  have := advanceAct_loads (by rw [hy.loadDue, if_pos h, hy.ent]) (hy.ent ▸ hm) hfree hclean
  simpa only [hy.ent, hy.wbase, sramRead, hu.sram, imageAddr] using this

/-- An action that has just begun has work before it: the rows of its pass, or else its load. -/
theorem BeginsAs.not_ended {y : Engine} {act w : ArrAct} (hy : BeginsAs (engineOf s eng) b e y act) (hw : SamePass act w)
    (hr : actRows e b.span ≠ 0) (hl : loads e = true → w.loads ≠ 0) : actEnded w = false := by
  rcases passes_or_loads e with h | h
  · refine actEnded_of_rows_left ?_
    rw [hw.done, hw.rows, hy.done, hy.rows, if_pos h]
    omega
  · exact actEnded_of_loads (hl h)

/-- An accepted action joins the engine's actions, and the load it asks for takes the images. -/
theorem arrayBegin_of_serves (hs : mustWait s (eng / 10) b.fill = false) (hm : maskBits e.amask ≠ []) (hr : actRows e b.span ≠ 0)
    (hold : ∀ a ∈ (engineOf s eng).acts, NoneDue a ∧ actEnded a = false) (hl : loads e = true → LoadReady s eng b e) :
    ∃ y act, BecomesEngine s (arrayBegin s eng b e) eng y ∧ y.acts = (engineOf s eng).acts ++ [act] ∧
      act.rows = (if passes e then actRows e b.span else 0) ∧ act.done = 0 ∧ act.fill = b.fill ∧
      act.step = (engineOf s eng).step.toNat ∧
      (loads e = true → ∀ a ∈ maskBits e.amask, (arrOf y a).back = wsetOf e (sramRead s (imageAddr eng b e a) (arrImageBytes e))) := by
  obtain ⟨y, act, hy, heq⟩ := arrayBegin_eq s eng b e
  have hu := BecomesEngine.setEngine s eng { y with acts := y.acts ++ [act] }
  rw [heq, hs, if_neg Bool.false_ne_true]
  generalize setEngine s eng { y with acts := y.acts ++ [act] } = u at hu ⊢
  have hadv := advanceAll_of_last_due (old := (engineOf s eng).acts) (act := act) (by rw [hu.engine, hy.rest]) fun a ha => (hold a ha).1
  have hp := (advanceAct_keeps u eng (engineOf u eng) act).2
  refine ⟨_, _, hu.trans hadv, withoutEnded_acts fun a ha => ?_, hp.rows.trans hy.rows, hp.done.trans hy.done, hp.fill.trans hy.fill,
    hp.step.trans hy.step, fun h => (hy.takes hu hm h (hl h)).2⟩
  rcases List.mem_append.1 ha with ha | ha
  · exact (hold a ha).2
  · rw [List.mem_singleton.1 ha, hy.not_ended hp hr fun h => (hy.takes hu hm h (hl h)).1]

end

/-! ### How actions begin -/

/-- What the statement on beginning supposes of every entry: it heads its engine's actions, every check passes, and for the
engine's own actions nothing has still to come about. -/
structure Accepted (s : State) (eng : Nat) (b : BusAct) (e : ArrEntry) : Prop where
  first : busFirst s (.array eng) = some b
  entry : arrEntryOf (b.entry.setWidth 128) = some (some e)
  noErr : arrErrBits s (engineOf s eng) e b.fill (actRows e b.span) b.delta = 0
  noAcc : accErrBits (engineOf s eng) e b.fill (actRows e b.span) = 0
  mask : maskBits e.amask ≠ []
  rows : actRows e b.span ≠ 0
  old : ∀ a ∈ (engineOf s eng).acts, NoneDue a ∧ actEnded a = false

section
variable {s : State} {eng : Nat} {b : BusAct} {e : ArrEntry}

theorem loadHeld_of_none_due {x : Engine} {m : Nat} (h : ∀ a ∈ x.acts, NoneDue a) (hb : backsLoading x m = false) :
    loadHeld x m = false := by
  rw [loadHeld, hb, Bool.false_or]
  refine List.any_eq_false.2 fun a ha => ?_
  obtain ⟨hs, hd⟩ := h a ha
  simp [hs, hd]

theorem Accepted.arrayIssue (h : Accepted s eng b e) (hl : e.op = .load → backsLoading (engineOf s eng) e.amask = false)
    (hp : e.op ≠ .load → ∀ a ∈ maskBits e.amask, passOn (engineOf s eng) a = none) :
    arrayIssue s eng e.op = arrayBegin (offBus s b) eng b e := by
  have hh : AtHead s eng b e := ⟨h.first, h.entry, fun o => loadHeld_of_none_due (fun a ha => (h.old a ha).1) (hl o), hp⟩
  rw [arrayIssue_of_atHead hh h.noErr h.noAcc, if_pos ⟨rfl, rfl⟩]

/-- The action joins the engine's actions: off the bus, with its rows before it and no row issued. -/
def Joins (s t : State) (eng : Nat) (b : BusAct) (e : ArrEntry) : Prop :=
  t.bus = s.bus.erase b ∧ t.sram = s.sram ∧ t.hbm = s.hbm ∧
    ∃ a, (engineOf t eng).acts = (engineOf s eng).acts ++ [a] ∧ a.rows = (if e.op = .load then 0 else actRows e b.span) ∧
      a.done = 0 ∧ a.fill = b.fill ∧ a.step = (engineOf s eng).step.toNat

theorem Accepted.begins (h : Accepted s eng b e) (hs : mustWait s (eng / 10) b.fill = false)
    (hl : loads e = true → LoadReady s eng b e) :
    Joins s (arrayBegin (offBus s b) eng b e) eng b e ∧ (loads e = true → ∀ a ∈ maskBits e.amask,
      (arrOf (engineOf (arrayBegin (offBus s b) eng b e) eng) a).back = wsetOf e (sramRead s (imageAddr eng b e a) (arrImageBytes e))) := by
  obtain ⟨y, act, hy, ha, hr, hd, hf, hst, ht⟩ := arrayBegin_of_serves (s := offBus s b) hs h.mask h.rows h.old
    fun k => ⟨(hl k).free, (hl k).clean⟩
  rw [hy.engine]
  exact ⟨⟨hy.bus, hy.sram, hy.hbm, act, by rw [hy.engine]; exact ha, hr.trans (rows_of_passes e _), hd, hf, hst⟩, ht⟩

end

theorem arrayActionsBegin : ArrayActionsBegin := by
  intro s e b x hc hg hf he heb hab hm hr hold rowsOver serves joins image takes clean
  have h : Accepted s e b x := ⟨hf, he, heb, hab, hm, hr, fun a ha => ⟨⟨(hold a ha).1, (hold a ha).2.1⟩, (hold a ha).2.2⟩⟩
  have issue : ∀ {c : Instr}, exec c s = .next (running s (arrayIssue s e x.op)) →
      (x.op = .load → backsLoading (engineOf s e) x.amask = false) → (x.op ≠ .load → rowsOver) →
      exec c s = .next (arrayBegin (offBus s b) e b x) := fun hx hl hp => h.arrayIssue hl hp ▸ exec_of_running hx hc hg
  have noLoad : x.op = .pass ∨ x.op = .elem → loads x = true → LoadReady s e b x := fun ho k => by
    rcases (loads_iff x).1 k with k | k <;> simp [k] at ho
  refine ⟨fun ho hp hs => ?_, fun ho hp hs => ?_, fun ho hp hs => ?_, fun ho hs hl hcl => ?_, fun ho hp hs hcl hl => ?_⟩
  -- PASS
  · exact ⟨_, issue (ho ▸ rfl) (by simp [ho]) fun _ => hp, (h.begins hs (noLoad (.inl ho))).1⟩
  -- PASS of the fill stream that must wait
  · obtain ⟨y, act, hy, ha, hsu, hro, hd⟩ := arrayBegin_of_mustWait (s := offBus s b) (e := x) (Bool.of_not_eq_false hs)
    refine ⟨_, act, issue (ho ▸ rfl) (by simp [ho]) fun _ => hp, ?_, ?_, ?_, hd⟩
    · rw [hy.engine]
      exact ha
    · rw [hy.engine]
      exact hsu
    · rw [hro, rows_of_passes, ho]
      rfl
  -- ELEM
  · exact ⟨_, issue (ho ▸ rfl) (by simp [ho]) fun _ => hp, (h.begins hs (noLoad (.inr ho))).1⟩
  -- LOAD
  · have hready : LoadReady s e b x := ⟨by simpa [LoadFree, passes, ho] using hl, hcl⟩
    obtain ⟨hj, ht⟩ := h.begins hs fun _ => hready
    exact ⟨_, issue (ho ▸ rfl) (fun _ => hl) (by simp [ho]), hj, ht ((loads_iff x).2 (.inl ho))⟩
  -- PASS_LOAD
  · have hready : LoadReady s e b x := ⟨by simpa [LoadFree, passes, ho] using hl, hcl⟩
    obtain ⟨hj, ht⟩ := h.begins hs fun _ => hready
    exact ⟨_, issue (ho ▸ rfl) (by simp [ho]) fun _ => hp, hj, ht ((loads_iff x).2 (.inr ho))⟩

/-! ### How actions fail -/

theorem faultAtIssue_of_run {s : State} (h : s.cal.run = true) : faultAtIssue s false =
    raiseVector { s with cal := { s.cal with err := setBit s.cal.err 1, run := false, issued := true, cause := 0 } } 16 := by
  simp [faultAtIssue, streamStop, h]

theorem arrayActionsFail : ArrayActionsFail := by
  intro s e b x hc hg hf he ho hfill hrun hp eb ab hne
  have hh : AtHead s e b x := ⟨hf, he, by simp [ho], fun _ => hp⟩
  have hi : arrayIssue s e .pass = faultAtIssue (setEngine (offBus s b) e (refusedEngine (engineOf s e) eb ab)) false := by
    rw [← ho, arrayIssue_of_atHead hh (eb := eb) (ab := ab) (by rw [hfill]) (by rw [hfill]), if_neg (by omega), hfill]
    rfl
  replace hi := hi.trans (faultAtIssue_of_run hrun)
  have hx : engineOf (arrayIssue s e .pass) e = refusedEngine (engineOf s e) eb ab := by
    rw [hi, engineOf, raiseVector_engines]
    exact engineOf_setEngine_self ..
  have hcal : (arrayIssue s e .pass).cal =
      { s.cal with err := setBit s.cal.err 1, run := false, issued := true, cause := 0 } := by
    rw [hi, raiseVector_cal]
    rfl
  have herr : bitAt (setBit s.cal.err 1) 1 = true := by simp [bitAt_setBit]
  refine ⟨_, exec_of_running (c := .arrayPass e) rfl hc hg, ?_⟩
  rw [hx, hcal, hi, raiseVector_sram, raiseVector_hbm]
  exact ⟨rfl, rfl, rfl, rfl, rfl, rfl, herr, rfl, rfl, rfl⟩

/-! ### Weight loads -/

/-- The back set of an array whose load is complete. -/
def backLoaded (x : Engine) (a : Nat) : WSet := { (arrOf x a).back with loading := false, valid := true }

/-- The engine once the load of array `a` is complete: its back set is valid, and no action waits for that load. -/
theorem weightLoaded_eq {s : State} {eng a : Nat} (h : (arrOf (engineOf s eng) a).back.loading = true) :
    ∃ x done, weightLoaded s eng a = advanceAll (setEngine s eng x) eng ∧ x.acts = (engineOf s eng).acts.map done ∧
      x.arrs = (setArr (engineOf s eng) a (withBack (arrOf (engineOf s eng) a) (backLoaded (engineOf s eng) a))).arrs ∧
      ∀ w, (done w).swap = w.swap ∧ (done w).loadDue = w.loadDue ∧ (done w).ent = w.ent := by
  unfold weightLoaded
  extract_lets x r _ y done
  have hd : ∀ w, (done w).swap = w.swap ∧ (done w).loadDue = w.loadDue ∧ (done w).ent = w.ent := fun w => by
    simp only [done]
    split <;> exact ⟨rfl, rfl, rfl⟩
  exact ⟨_, done, if_neg (by simpa using h), rfl, rfl, hd⟩

/-- Where nothing has still to come about, the load that completes makes its back set valid and changes no other. -/
theorem weightLoaded_of_none_due {s : State} {eng a : Nat} (h : (arrOf (engineOf s eng) a).back.loading = true)
    (hn : ∀ w ∈ (engineOf s eng).acts, NoneDue w) :
    (engineOf (weightLoaded s eng a) eng).arrs =
      (setArr (engineOf s eng) a (withBack (arrOf (engineOf s eng) a) (backLoaded (engineOf s eng) a))).arrs := by
  obtain ⟨x, done, heq, hacts, harrs, hd⟩ := weightLoaded_eq h
  have hx := BecomesEngine.setEngine s eng x
  have hn' : ∀ w ∈ (engineOf (setEngine s eng x) eng).acts, NoneDue w := by
    rw [hx.engine, hacts]
    intro w hw
    obtain ⟨v, hv, rfl⟩ := List.mem_map.1 hw
    obtain ⟨hs, hl, -⟩ := hd v
    exact ⟨hs.trans (hn v hv).1, hl.trans (hn v hv).2⟩
  rw [heq, (advanceAll_of_none_due hn').engine, hx.engine]
  exact harrs

/-- The one action of an engine that waits for the load of its array exchanges the sets once the load is complete (R53). -/
theorem weightLoaded_of_swap {s : State} {eng a : Nat} {w : ArrAct} (h : (arrOf (engineOf s eng) a).back.loading = true)
    (hw : (engineOf s eng).acts = [w]) (hs : w.swap = true) (hd : w.loadDue = 0) (hm : w.ent.amask = 2 ^ a) (ha : a < 8) :
    arrOf (engineOf (weightLoaded s eng a) eng) a =
      exchanged (withBack (arrOf (engineOf s eng) a) (backLoaded (engineOf s eng) a)) := by
  obtain ⟨x, done, heq, hacts, harrs, hdone⟩ := weightLoaded_eq h
  obtain ⟨hs', hd', he'⟩ := hdone w
  have hx := BecomesEngine.setEngine s eng x
  have hax : arrOf x a = withBack (arrOf (engineOf s eng) a) (backLoaded (engineOf s eng) a) :=
    (congrArg (fun t => Tbl.get arrReset t a) harrs).trans (arrOf_setArr_self ..)
  have hbits : maskBits (done w).ent.amask = [a] := by rw [he', hm, maskBits_two_pow ha]
  have hv : backsValid x (done w).ent.amask = true := by simp [backsValid, hbits, hax, withBack, backLoaded]
  have hacts' : (engineOf (setEngine s eng x) eng).acts = [] ++ [done w] := by rw [hx.engine, hacts, hw]; rfl
  have hadv : advanceAct (setEngine s eng x) eng x (done w) = (swapSets x (done w).ent.amask, { done w with swap := false }, none) :=
    (advanceAct_of_swap (hs'.trans hs) hv).trans (advanceAct_of_idle rfl (hd'.trans hd))
  rw [heq, (advanceAll_of_last_due hacts' (by simp)).engine, hx.engine, hadv]
  exact (arrOf_swapSets (by simp [hbits])).trans (congrArg exchanged hax)

/-! ### Row steps -/

theorem getElem?_of_passOn {x : Engine} {a i : Nat} {w : ArrAct} (h : passOn x a = some (i, w)) : x.acts[i]? = some w := by
  obtain ⟨p, hp, he⟩ := Option.map_eq_some_iff.1 h
  obtain ⟨hi, hw⟩ := Prod.mk.inj he
  rw [← hi, ← hw]
  exact List.mem_zipIdx_iff_getElem?.1 (List.mem_of_find?_eq_some hp)

theorem measureOut_samePass (wref : Nat) (act : ArrAct) (o : StepOut) : SamePass act (measureOut wref act o) := by
  unfold measureOut
  dsimp only
  split <;> exact ⟨rfl, rfl, rfl, rfl, rfl⟩

theorem measureOuts_samePass (wref : Nat) (outs : List StepOut) (act : ArrAct) : SamePass act (outs.foldl (measureOut wref) act) := by
  induction outs generalizing act with
  | nil => exact .refl act
  | cons o outs ih => exact (measureOut_samePass wref act o).trans (ih _)

theorem nextBank_setBank (r : Arr) (bank : Bool) (v : BankSt) (fill : Bool) : nextBank (setBank r bank v) fill = nextBank r fill := by
  cases bank <;> rfl

theorem nextBank_arrOpen (r : Arr) (act : ArrAct) : nextBank (arrOpen r act) act.fill = !nextBank r act.fill := by
  have hb := nextBank_setBank r (nextBank r act.fill) .filling act.fill
  unfold arrOpen
  cases h : act.fill <;> rw [h] at hb <;> simpa [nextBank] using hb

theorem nextBank_arrClose (r : Arr) (fill : Bool) (v : BankSt) (f : Bool) : nextBank (arrClose r fill v) f = nextBank r f := by
  unfold arrClose
  split
  · rfl
  · next t _ => cases fill <;> exact nextBank_setBank r t.bank v f

theorem nextBank_arrDiscard (r : Arr) (fill f : Bool) : nextBank (arrDiscard r fill) f = nextBank r f := by
  have hc := nextBank_arrClose r fill .free f
  unfold arrDiscard
  split
  · rfl
  · cases fill <;> exact hc

/-- What a row step makes of engine `x`, before what waits at it goes on. -/
structure RowStepped (x y : Engine) (idx : Nat) (act : ArrAct) : Prop where
  inflight : ∃ ws, y.inflight = x.inflight ++ [ws]
  bankMem : y.bankMem = x.bankMem
  acts : ∃ v, y.acts = x.acts.set idx v ∧ v.ent.amask = act.ent.amask ∧ v.done = act.done + 1 ∧ v.rows = act.rows
  queue : finishesTile act = false → y.queue = x.queue
  opens : opensTile act = true → ∀ k ∈ maskBits act.ent.amask, nextBank (arrOf y k) act.fill = !nextBank (arrOf x k) act.fill

/-- A tile that a step finishes on array `a` is closed, or discarded where an earlier run of it was drained. -/
def tileClosed (act : ArrAct) (a : Nat) (r : Arr) : Arr :=
  if tileDrained act a then arrDiscard r act.fill else arrClose r act.fill .queued

theorem nextBank_tileClosed (act : ArrAct) (a : Nat) (r : Arr) (fill : Bool) : nextBank (tileClosed act a r) fill = nextBank r fill := by
  unfold tileClosed
  split
  · exact nextBank_arrDiscard ..
  · exact nextBank_arrClose ..

theorem rowStepRun_eq (s : State) (eng idx : Nat) (act : ArrAct) :
    ∃ y t, rowStepRun s eng idx act = advanceAll t eng ∧ BecomesEngine s t eng y ∧ RowStepped (engineOf s eng) y idx act := by
  unfold rowStepRun
  extract_lets x as_ x1 rows outs act1 fin_ post descs close x2 act2 x3 t
  have h1 : x1 = if opensTile act then mapArrs (fun _ r => arrOpen r act) x as_ else x := rfl
  have h2 : ArrsOnly x1 x2 := by
    simp only [x2]
    split
    · exact .mapArrs (f := tileClosed act) (nextBank_tileClosed act) x1 as_
    · exact .refl x1
  have h1r : x1 = { x with arrs := x1.arrs } := by
    rw [h1]
    split
    · exact mapArrs_rest ..
    · rfl
  have hr : x2 = { x with arrs := x2.arrs } := by rw [h2.rest, h1r]
  have hp : SamePass act act1 := by
    simp only [act1]
    split
    · exact measureOuts_samePass ..
    · exact .refl act
  refine ⟨x3, t, rfl, (BecomesEngine.setEngine s eng x3).reportsOnly ((ReportsOnly.refl _).foldl (fun _ _ h => h.sramCorrected _ _) _),
    ⟨⟨outs.map (fun o => (o.key, o.word)), ?_⟩, ?_, ⟨act2, ?_, hp.amask, rfl, hp.rows⟩, fun hf => ?_, fun ho k hk => ?_⟩⟩
  · simp only [x3]
    rw [hr]
  · simp only [x3]
    rw [hr]
  · simp only [x3]
    rw [hr]
  · have : descs = [] := if_neg (by simp [fin_, hf])
    simp only [x3, this, List.append_nil]
    rw [hr]
  · have : arrOf x1 k = arrOpen (arrOf x k) act := by
      rw [h1, if_pos ho]
      exact arrOf_mapArrs_of_mem (fun _ r => arrOpen r act) x (maskBits_nodup _) hk
    exact (h2.next k act.fill).trans (this ▸ nextBank_arrOpen ..)

theorem rowStep_of_ready {s : State} {eng a i : Nat} {w : ArrAct} (hp : passOn (engineOf s eng) a = some (i, w))
    (hw : stepWaits (engineOf s eng) w = false)
    (hc : (stepAddrs eng w).findSome? (fun p => sramPoisoned s p (arrRowBytes w.ent)) = none) :
    rowStep s eng a = rowStepRun s eng i w := by
  unfold rowStep
  simp only [hp, hw, hc, Bool.false_eq_true, if_false]

/-! ### Bank writes -/

theorem bankWord_eq (x : Engine) (k : Nat) :
    bankWord x k = (x.inflight.reverse.findSome? (fun ws => Tbl.get? ws k)).getD (Tbl.get 0 x.bankMem k) := by
  unfold bankWord
  cases x.inflight.reverse.findSome? (fun ws => Tbl.get? ws k) <;> rfl

theorem get?_of_not_mem {α : Type} {ws : Tbl α} {k : Nat} (h : k ∉ ws.map (·.1)) : Tbl.get? ws k = none := by
  induction ws with
  | nil => rfl
  | cons w ws ih =>
    simp only [List.map_cons, List.mem_cons, not_or] at h
    rw [Tbl.get?, if_neg (Ne.symm h.1), ih h.2]

/-- A table into which entries of different numbers are written reads as they say, and else as before. -/
theorem get_foldl_set {α : Type} (d : α) {ws : List (Nat × α)} (h : (ws.map (·.1)).Nodup) (m : Tbl α) (k : Nat) :
    Tbl.get d (ws.foldl (fun m w => Tbl.set m w.1 w.2) m) k = (Tbl.get? ws k).getD (Tbl.get d m k) := by
  induction ws generalizing m with
  | nil => rfl
  | cons w ws ih =>
    obtain ⟨hw, hn⟩ := List.nodup_cons.1 h
    rw [List.foldl_cons, ih hn, Tbl.get?]
    by_cases e : w.1 = k
    · subst e
      rw [get?_of_not_mem hw, if_pos rfl]
      exact Tbl.get_set_self ..
    · rw [if_neg e, Tbl.get_set_ne _ _ _ (Ne.symm e)]

/-- The engine once its oldest results are in their banks. -/
def bankWritten (x : Engine) (ws : List (Nat × W48)) (rest : List (List (Nat × W48))) : Engine :=
  { x with inflight := rest, bankMem := ws.foldl (fun m w => Tbl.set m w.1 w.2) x.bankMem }

theorem bankWrite_of_inflight {s : State} {eng : Nat} {ws : List (Nat × W48)} {rest : List (List (Nat × W48))}
    (h : (engineOf s eng).inflight = ws :: rest) : bankWrite s eng = setEngine s eng (bankWritten (engineOf s eng) ws rest) := by
  unfold bankWrite
  simp only [h]
  rfl

/-- The oldest results in flight come last among what the arrays see, just before the bank itself (R81). -/
theorem bankWord_bankWritten {x : Engine} {ws : List (Nat × W48)} {rest : List (List (Nat × W48))} (h : x.inflight = ws :: rest)
    (hn : (ws.map (·.1)).Nodup) (k : Nat) : bankWord (bankWritten x ws rest) k = bankWord x k := by
  rw [bankWord_eq, bankWord_eq, h, List.reverse_cons, List.findSome?_append]
  simp only [bankWritten]
  rw [get_foldl_set 0 hn]
  cases rest.reverse.findSome? (fun ws => Tbl.get? ws k) <;> simp

theorem arraySteps : ArraySteps := by
  refine ⟨fun s e a hc hg hl hn => ?_, fun s e a w hc hg hl hw hs hd hm => ?_, fun s e a i w hc hg hp hw hcl => ?_,
    fun s e ws rest hc hg hf hn => ?_⟩
  -- a load completes
  · have h := weightLoaded_of_none_due hl hn
    have hk : ∀ k, arrOf (engineOf (weightLoaded s e a) e) k = arrOf (setArr (engineOf s e) a
        (withBack (arrOf (engineOf s e) a) (backLoaded (engineOf s e) a))) k := fun k => congrArg (fun t => Tbl.get arrReset t k) h
    refine ⟨_, exec_of_running (c := .weightLoadComplete e a) rfl hc hg, ?_, ?_, fun k h => ?_⟩
    · rw [hk, arrOf_setArr_self]
      rfl
    · rw [hk, arrOf_setArr_self]
      rfl
    · rw [hk, arrOf_setArr_ne _ _ h]
  -- a load completes for which an action waits
  · have h := weightLoaded_of_swap hl hw hs hd hm a.isLt
    refine ⟨_, exec_of_running (c := .weightLoadComplete e a) rfl hc hg, ?_, ?_⟩
    · rw [h]
      rfl
    · rw [h]
      rfl
  -- a row step
  · obtain ⟨y, u, heq, hu, hy⟩ := rowStepRun_eq s e i w
    obtain ⟨x, hx, hrest, hnext, hacts⟩ := advanceAll_keeps u e
    rw [hu.engine] at hrest hnext hacts
    obtain ⟨ws, hws⟩ := hy.inflight
    obtain ⟨v, hv, hva, hvd, hvr⟩ := hy.acts
    rw [← rowStep_of_ready hp hw hcl] at heq
    have hxf : x.inflight = y.inflight ∧ x.bankMem = y.bankMem ∧ x.queue = y.queue := by
      rw [hrest]
      exact ⟨rfl, rfl, rfl⟩
    obtain ⟨hxi, hxb, hxq⟩ := hxf
    refine ⟨_, ws, exec_of_running (c := .rowStep e a) rfl hc hg, ?_⟩
    rw [heq, hx.engine]
    refine ⟨hxi.trans hws, hxb.trans hy.bankMem, hx.sram.trans hu.sram, hx.hbm.trans hu.hbm, fun hmore => ?_,
      fun hf => hxq.trans (hy.queue hf), fun ho k hk => (hnext k w.fill).trans (hy.opens ho k hk)⟩
    have hi : i < (engineOf s e).acts.length := (List.getElem?_eq_some_iff.1 (getElem?_of_passOn hp)).1
    obtain ⟨v', hm, hs⟩ := hacts v (hv ▸ List.mem_set hi v)
    refine ⟨v', mem_withoutEnded_acts.2 ⟨hm, actEnded_of_rows_left ?_⟩, hs.amask.trans hva, hs.done.trans hvd, hs.rows.trans hvr⟩
    rw [hs.done, hs.rows, hvd, hvr]
    exact hmore
  -- results land
  · refine ⟨_, exec_of_running (c := .bankWrite e) rfl hc hg, ?_⟩
    rw [bankWrite_of_inflight hf, engineOf_setEngine_self]
    exact ⟨rfl, bankWord_bankWritten hf hn⟩

/-- Settles O33: the arrays' actions begin, fail and run as the lemmas on one engine say. -/
theorem arrayActions : Obligations.ArrayActions := ⟨arrayActionsBegin, arrayActionsFail, arraySteps⟩

end Sys2Proof.Machine
end

section
namespace Sys2Proof.Machine

/-!
PROOFS. The memory system's registers with an effect of their own. The word that `MEM_GIL_CTL` keeps is said once
(`gilWrite_gil`) and its fields are read bit by bit (`bits_congr`).
-/

/-! ### Fields of words -/

theorem testBit_bits {n : Nat} (w : BitVec n) (hi lo i : Nat) :
    (bits w hi lo).testBit i = (decide (i < hi + 1 - lo) && bitAt w (lo + i)) := by
  rw [bits, Nat.testBit_mod_two_pow, Nat.testBit_shiftRight, BitVec.testBit_toNat, bitAt]

/-- Words that agree in the bits of a field agree in the field. -/
theorem bits_congr {n m : Nat} {v : BitVec n} {w : BitVec m} {hi lo : Nat} (h : ∀ i, lo ≤ i → i ≤ hi → bitAt v i = bitAt w i) :
    bits v hi lo = bits w hi lo := by
  refine Nat.eq_of_testBit_eq fun i => ?_
  rw [testBit_bits, testBit_bits]
  by_cases hi' : i < hi + 1 - lo
  · rw [h (lo + i) (by omega) (by omega)]
  · rw [decide_eq_false hi', Bool.false_and, Bool.false_and]

/-! ### The census ring (R92, R93) -/

theorem exec_memCringBaseWrite {s : State} (p : Fin 8) (v : W32) (h : softUp s = true) :
    exec (.memCringBaseWrite p v) s = .next (cringBase s p v) := congrArg Host.Outcome.next (if_pos h)

theorem exec_memCringCfgWrite {s : State} (p : Fin 8) (v : W32) (h : softUp s = true) :
    exec (.memCringCfgWrite p v) s = .next (cringCfg s p v) := congrArg Host.Outcome.next (if_pos h)

theorem exec_memCringTailWrite {s : State} (p : Fin 8) (v : W32) (h : softUp s = true) :
    exec (.memCringTailWrite p v) s = .next (cringTail s p v) := congrArg Host.Outcome.next (if_pos h)

section
variable {s : State} {p : Nat} {v : W32}

theorem cringBase_of_disabled (h : ringEn (censusOf s p) = false) :
    cringBase s p v = setCensus s p { censusOf s p with base := v &&& 0x1FFFFFF#32 } := if_neg (by simp [h])

theorem cringBase_of_enabled (h : ringEn (censusOf s p) = true) : cringBase s p v = cfgErr s p := if_pos h

theorem cringCfg_starts (h : ringEn (censusOf s p) = false) (hv : bitAt v 31 = true)
    (hr : ringOk (censusOf s p) (bits v 3 0) = true) :
    cringCfg s p v = setCensus s p { censusOf s p with cfg := v &&& 0x8000000F#32, head := 0, tail := 0 } := by
  simp [cringCfg, h, hv, hr]

theorem cringCfg_resized (h : ringEn (censusOf s p) = true) (hv : bitAt v 31 = true)
    (hn : bits v 3 0 ≠ bits (censusOf s p).cfg 3 0) : cringCfg s p v = cfgErr s p := by
  simp [cringCfg, h, hv, hn]

theorem cringTail_within (h : ((censusOf s p).head - v).toNat ≤ ringRecords (censusOf s p)) :
    cringTail s p v = setCensus s p { censusOf s p with tail := v } := if_neg (Nat.not_lt.2 h)

theorem cringTail_beyond (h : ringRecords (censusOf s p) < ((censusOf s p).head - v).toNat) :
    cringTail s p v = cfgErr s p := if_pos h
end

theorem censusRingWrites : CensusRingWrites := by
  intro s p v hup
  rw [exec_memCringBaseWrite p v hup, exec_memCringCfgWrite p v hup, exec_memCringTailWrite p v hup]
  refine ⟨fun h => ?_, fun h => ?_, fun h hv hr => ?_, fun h hv hn => ?_, fun h => ?_, fun h => ?_⟩
  · rw [cringBase_of_disabled h]
  · rw [cringBase_of_enabled h]
  · rw [cringCfg_starts h hv hr]
  · rw [cringCfg_resized h hv hn]
  · rw [cringTail_within h]
  · rw [cringTail_beyond h]

/-! ### The global interleave (R134, R135, R154) -/

theorem exec_memGilCtlWrite {s : State} (v : W32) (h : softUp s = true) :
    exec (.memGilCtlWrite v) s = .next (gilWrite s v) := congrArg Host.Outcome.next (if_pos h)

/-- What a write that sets EN is refused for. -/
def GilRefused (s : State) (v : W32) : Prop :=
  bits v 6 0 = 0 ∨ 127 < bits v 14 8 + bits v 6 0 ∨ ∃ p, p < 8 ∧ pstateOf s p = .absent

theorem any_absent_iff (s : State) :
    (List.range 8).any (fun p => pstateOf s p == .absent) = true ↔ ∃ p, p < 8 ∧ pstateOf s p = .absent := by
  simp only [List.any_eq_true, List.mem_range, beq_iff_eq]

theorem gilWrite_gil_of_refused {s : State} {v : W32} (hv : bitAt v 31 = true) (h : GilRefused s v) :
    (gilWrite s v).gil = (s.gil &&& 0x7F7F#32) ||| 0x20000000#32 := by
  refine if_pos ?_
  simp only [Bool.and_eq_true, Bool.or_eq_true, beq_iff_eq, decide_eq_true_eq, any_absent_iff, or_assoc]
  exact ⟨hv, h⟩

theorem gilWrite_gil_of_taken {s : State} {v : W32} (h : bitAt v 31 = false ∨ ¬ GilRefused s v) :
    (gilWrite s v).gil = (v &&& 0x80007F7F#32) ||| ((s.gil &&& 0x20000000#32) &&& ~~~v) := by
  refine if_neg ?_
  simp only [Bool.and_eq_true, Bool.or_eq_true, beq_iff_eq, decide_eq_true_eq, any_absent_iff, or_assoc]
  rintro ⟨hv, hr⟩
  exact h.elim (fun hf => by simp [hf] at hv) (fun hn => hn hr)

/-- A write that is taken stores EN, OFFSET and SIZE as written: they lie apart from CFGERR. -/
theorem bitAt_gilTaken (g v : W32) {i : Nat} (hm : bitAt (0x80007F7F#32) i = true) (hc : bitAt (0x20000000#32) i = false) :
    bitAt ((v &&& 0x80007F7F#32) ||| ((g &&& 0x20000000#32) &&& ~~~v)) i = bitAt v i := by
  simp [bitAt_or, bitAt_and, hm, hc]

/-- Bits 6 to 0 are SIZE, and 14 to 8 OFFSET. -/
theorem bitAt_gilTaken_field (g v : W32) {i : Nat} (hi : i < 15) (h7 : i ≠ 7) :
    bitAt ((v &&& 0x80007F7F#32) ||| ((g &&& 0x20000000#32) &&& ~~~v)) i = bitAt v i :=
  have hm := (by decide : ∀ i < 15, i ≠ 7 → bitAt (0x80007F7F#32) i = true ∧ bitAt (0x20000000#32) i = false) i hi h7
  bitAt_gilTaken g v hm.1 hm.2

theorem globalInterleaveWrite : GlobalInterleaveWrite := by
  intro s v hup refused
  refine ⟨fun hv hr => ⟨_, exec_memGilCtlWrite v hup, ?_⟩, fun h => ⟨_, exec_memGilCtlWrite v hup, ?_⟩⟩
  · rw [gilWrite_gil_of_refused hv hr]
    simp [bitAt]
  · rw [gilWrite_gil_of_taken h]
    exact ⟨bitAt_gilTaken _ _ rfl rfl, bits_congr fun i h8 h14 => bitAt_gilTaken_field _ _ (by omega) (by omega),
      bits_congr fun i _ h6 => bitAt_gilTaken_field _ _ (by omega) (by omega)⟩

/-! ### The tip-in fence (R142) -/

theorem tipFenceWrites : TipFenceWrites := by
  intro s p v hup
  constructor <;> intro hv
  -- GO
  · exact congrArg Host.Outcome.next (if_pos ⟨hup, hv⟩)
  -- no GO
  · exact congrArg Host.Outcome.next (if_neg fun h => by simp [hv] at h)

/-- Settles O25: each register's write is one case of its operation, and the word of `MEM_GIL_CTL` is read bit by bit. -/
theorem memoryRegisterWrites : Obligations.MemoryRegisterWrites :=
  ⟨censusRingWrites, globalInterleaveWrite, tipFenceWrites⟩

end Sys2Proof.Machine
end

section
namespace Sys2Proof.Machine

/-!
PROOFS. Census records. Traffic and writes of HBM leave every partition's census as it was (`censusOf_hbmWrite`), and a whole
line that a unit writes reads back (`hbmRead_hbmWrite_line`); with both, `putRecord` is said once. What becomes of a record is
then one case of `recordWrite` or of `mergeWrite`.
-/

/-! ### The sides of a partition -/

theorem memOf_setMem_self (s : State) (p : Nat) (x : MemSide) : memOf (setMem s p x) p = x := Tbl.get_set_self _ _ _ _

theorem memOf_setMem_ne (s : State) {p q : Nat} (x : MemSide) (h : q ≠ p) : memOf (setMem s p x) q = memOf s q :=
  Tbl.get_set_ne _ _ _ h

/-- A side written with the parts `g` shows left as they were: `g` shows the same of every side. -/
theorem memOf_setMem_of_eq {α : Type} (g : MemSide → α) {s : State} {p : Nat} {x : MemSide} (h : g x = g (memOf s p)) (q : Nat) :
    g (memOf (setMem s p x) q) = g (memOf s q) := by
  by_cases e : q = p
  · rw [e, memOf_setMem_self, h]
  · rw [memOf_setMem_ne s x e]

theorem memOf_congr {s t : State} (h : t.mem = s.mem) (q : Nat) : memOf t q = memOf s q := by rw [memOf, memOf, h]

theorem censusOf_congr {s t : State} (h : t.mem = s.mem) (q : Nat) : censusOf t q = censusOf s q :=
  congrArg MemSide.census (memOf_congr h q)

theorem censusOf_setMem {s : State} {p : Nat} {x : MemSide} (h : x.census = censusOf s p) (q : Nat) :
    censusOf (setMem s p x) q = censusOf s q := memOf_setMem_of_eq MemSide.census h q

@[simp] theorem censusOf_setCensus_self (s : State) (p : Nat) (x : Census) : censusOf (setCensus s p x) p = x :=
  congrArg MemSide.census (memOf_setMem_self s p _)

theorem tip_setCensus (s : State) (p : Nat) (x : Census) (q : Nat) :
    (memOf (setCensus s p x) q).tip = (memOf s q).tip := memOf_setMem_of_eq MemSide.tip (by rfl) q

/-! ### The census and the accesses to HBM -/

theorem censusOf_foldl {α : Type} {f : State → α → State} {q : Nat} (h : ∀ s x, censusOf (f s x) q = censusOf s q) (l : List α)
    (s : State) : censusOf (l.foldl f s) q = censusOf s q :=
  List.foldlRecOn (motive := fun t => censusOf t q = censusOf s q) l f rfl fun t ht x _ => (h t x).trans ht

section
variable (s : State) (q : Nat)

theorem censusOf_raiseVector (v : Nat) : censusOf (raiseVector s v) q = censusOf s q := censusOf_congr (raiseVector_mem s v) q

theorem censusOf_requestFence (p cause : Nat) : censusOf (requestFence s p cause) q = censusOf s q := by
  unfold requestFence
  split <;> rfl

theorem censusOf_memError (p bit addr : Nat) (inSram : Bool) : censusOf (memError s p bit addr inSram) q = censusOf s q := by
  unfold memError
  extract_lets m m' t
  have hm : m'.census = censusOf s p := by
    unfold m'
    split <;> rfl
  have ht : censusOf t q = censusOf s q := (censusOf_raiseVector _ q _).trans (censusOf_setMem (by exact hm) q)
  split
  · exact (censusOf_requestFence t q p 1).trans ht
  · exact ht

theorem censusOf_updTip (p : Nat) (f : Tip → Tip) : censusOf (updTip s p f) q = censusOf s q := censusOf_setMem (by rfl) q

theorem censusOf_meterHbm (by_ : Option Poster) (cls : Nat) (write : Bool) (h n : Nat) :
    censusOf (meterHbm s by_ cls write h n) q = censusOf s q := censusOf_setMem (by rfl) q

theorem censusOf_tileSeal (cls a : Nat) : censusOf (tileSeal s cls a) q = censusOf s q := censusOf_meterHbm _ _ _ _ _ _ _

theorem censusOf_flushAtom (l : TipLine) (k : Nat) : censusOf (flushAtom s l k) q = censusOf s q := by
  unfold flushAtom
  extract_lets base mask
  split
  · rfl
  split
  · rfl
  split
  · exact censusOf_memError s q _ _ _ _
  · rfl

theorem censusOf_flushTraffic (l : TipLine) : censusOf (flushTraffic s l) q = censusOf s q :=
  (censusOf_foldl (fun _ _ => censusOf_meterHbm _ _ _ _ _ _ _) _ _).trans
    (censusOf_foldl (fun _ _ => censusOf_meterHbm _ _ _ _ _ _ _) _ s)
end

/-! ### Sequences set apart -/

/-- The waiting sequences of a class that name no requester take no more traffic. -/
def seqsClosed (m : MemSide) (cls : Nat) : MemSide :=
  { m with regs := { m.regs with reqs := m.regs.reqs.map (fun r => { r with ended := r.ended || (r.by_ == none && r.cls == cls) }) } }

def allClosed (s : State) (cls : Nat) : State := { s with mem := s.mem.map (fun m => (m.1, seqsClosed m.2 cls)) }

theorem apart_eq (s : State) (cls : Nat) (f : State → State) : apart s cls f = allClosed (f (allClosed s cls)) cls := rfl

theorem get_map {α : Type} {f : α → α} {d : α} (h : f d = d) (t : Tbl α) (k : Nat) :
    Tbl.get d (t.map (fun e => (e.1, f e.2))) k = f (Tbl.get d t k) := by
  induction t with
  | nil => exact h.symm
  | cons e t ih => simp only [List.map_cons, Tbl.get, ih, apply_ite f]

theorem memOf_allClosed (s : State) (cls q : Nat) : memOf (allClosed s cls) q = seqsClosed (memOf s q) cls :=
  get_map (f := fun m => seqsClosed m cls) rfl s.mem q

theorem censusOf_allClosed (s : State) (cls q : Nat) : censusOf (allClosed s cls) q = censusOf s q :=
  (congrArg MemSide.census (memOf_allClosed s cls q)).trans (by rfl)

theorem censusOf_apart (s : State) (cls q : Nat) {f : State → State} (h : ∀ t, censusOf (f t) q = censusOf t q) :
    censusOf (apart s cls f) q = censusOf s q := by
  rw [apart_eq, censusOf_allClosed, h, censusOf_allClosed]

section
variable (s : State) (q : Nat)

theorem censusOf_tipFlush (line : Nat) : censusOf (tipFlush s line) q = censusOf s q := by
  unfold tipFlush
  split
  · rfl
  · exact (censusOf_updTip _ _ _ _).trans ((censusOf_apart _ _ _ fun _ => censusOf_flushTraffic _ _ _).trans
      (censusOf_foldl (fun _ _ => censusOf_flushAtom _ _ _ _) _ _))

theorem censusOf_tipWrite (line off : Nat) (bs : List Byte) (cls : Nat) : censusOf (tipWrite s line off bs cls) q = censusOf s q := by
  unfold tipWrite
  extract_lets p t room merged
  have hr : censusOf room q = censusOf s q := by
    unfold room
    split
    · rfl
    split
    · split
      · exact censusOf_tipFlush s q _
      · rfl
    · rfl
  have hm : censusOf merged q = censusOf s q := (censusOf_updTip _ _ _ _).trans hr
  split
  · split
    · exact (censusOf_tipFlush merged q line).trans hm
    · exact hm
  · exact hm

theorem censusOf_writeNow (cls a : Nat) (bs : List Byte) : censusOf (writeNow s cls a bs) q = censusOf s q := by
  unfold writeNow
  split
  · exact (censusOf_meterHbm _ _ _ _ _ _ _).trans (censusOf_updTip _ _ _ _)
  · exact censusOf_tipWrite s q _ _ _ _

theorem censusOf_tipSettle (p : Nat) : censusOf (tipSettle s p) q = censusOf s q := by
  unfold tipSettle
  extract_lets t flushed
  have hf : censusOf flushed q = censusOf s q := censusOf_foldl (fun _ _ => censusOf_tipFlush _ _ _) _ _
  split
  · rfl
  · exact (censusOf_foldl (fun _ _ => censusOf_writeNow _ _ _ _ _) _ _).trans ((censusOf_updTip _ _ _ _).trans hf)

/-- A unit's write to HBM leaves every census as it was. -/
theorem censusOf_hbmWrite (cls a : Nat) (bs : List Byte) : censusOf (hbmWrite s cls a bs) q = censusOf s q := by
  refine censusOf_foldl (fun t c => (censusOf_writeNow _ _ _ _ _).trans ?_) _ s
  split
  · exact censusOf_tipSettle t q _
  · rfl
end

/-! ### A line written reads back (R139) -/

theorem tipLineOf_congr {s t : State} (h : ∀ q, (memOf t q).tip = (memOf s q).tip) (line : Nat) :
    tipLineOf t line = tipLineOf s line := by
  rw [tipLineOf, tipLineOf, h]

/-- What any requester reads rests on HBM and the lines held. -/
theorem hbmRead_congr {s t : State} (hb : t.hbm = s.hbm) (ht : ∀ q, (memOf t q).tip = (memOf s q).tip) (a n : Nat) :
    hbmRead t a n = hbmRead s a n := by
  induction n generalizing a with
  | zero => rfl
  | succ n ih => rw [hbmRead, hbmRead, ih, hbmByte, hbmByte, tipLineOf_congr ht, hb]

theorem hbmRead_of_not_held {s : State} {a n : Nat} (h : ∀ k < n, tipLineOf s ((a + k) / 256) = none) :
    hbmRead s a n = memRead s.hbm a n := by
  induction n generalizing a with
  | zero => rfl
  | succ n ih =>
    have h0 : tipLineOf s (a / 256) = none := h 0 (by omega)
    rw [hbmRead, memRead, ih fun k hk => by rw [Nat.add_assoc, Nat.add_comm 1]; exact h (k + 1) (by omega), hbmByte, h0]

theorem tipLineOf_lineWrite (s : State) (line : Nat) (bs : List Byte) : tipLineOf (lineWrite s line bs) line = none := by
  unfold tipLineOf lineWrite updTip
  rw [memOf_setMem_self]
  simp [tipFree]

theorem hbmRead_lineWrite (s : State) (line : Nat) {bs : List Byte} (hm : Memory.wf s.hbm = true) (hl : bs.length = 256) :
    hbmRead (lineWrite s line bs) (line * 256) 256 = bs := by
  rw [hbmRead_of_not_held]
  · have h := memRead_memWrite (line * 256) bs hm
    rwa [hl] at h
  · intro k hk
    rw [show (line * 256 + k) / 256 = line by omega]
    exact tipLineOf_lineWrite s line bs

theorem lineChunks_line {a : Nat} {bs : List Byte} (ha : a % 256 = 0) (hl : bs.length = 256) (n : Nat) :
    lineChunks (n + 2) a bs = [(a, bs)] := by
  have hne : bs.isEmpty = false := by
    cases bs with
    | nil => simp at hl
    | cons b bs => rfl
  simp [lineChunks, hne, ha, hl, List.take_of_length_le]

theorem hbmRead_hbmWrite_line {s : State} (cls : Nat) {a : Nat} {bs : List Byte} (hm : Memory.wf s.hbm = true)
    (ha : a % 256 = 0) (hl : bs.length = 256) : hbmRead (hbmWrite s cls a bs) a 256 = bs := by
  obtain ⟨line, rfl⟩ : ∃ line, a = line * 256 := ⟨a / 256, by omega⟩
  rw [hbmWrite, lineChunks_line ha hl, List.foldl_cons, List.foldl_nil, writeNow, if_pos hl, meterHbm_hbmRead,
    Nat.mul_div_cancel line (by decide)]
  refine hbmRead_lineWrite _ line ?_ hl
  split
  · exact (tipSettle_hbmChange s _).wf hm
  · exact hm

theorem hbmRead_allClosed (s : State) (cls a n : Nat) : hbmRead (allClosed s cls) a n = hbmRead s a n :=
  hbmRead_congr (by rfl) (fun q => by rw [memOf_allClosed, seqsClosed]) a n

theorem hbmRead_tileSeal (s : State) (cls b a n : Nat) : hbmRead (tileSeal s cls b) a n = hbmRead s a n := by
  rw [tileSeal, meterHbm_hbmRead, hbmRead_sheetSet]

/-! ### A record in the ring (R90, R92) -/

@[simp] theorem length_natBytes (n v : Nat) : (natBytes n v).length = n := by
  induction n generalizing v with
  | zero => rfl
  | succ n ih => rw [natBytes, List.length_cons, ih]

theorem length_flatMap_natBytes {α : Type} (n : Nat) (f : α → Nat) (l : List α) :
    (l.flatMap (fun b => natBytes n (f b))).length = l.length * n := by
  induction l with
  | nil => rw [List.flatMap_nil, List.length_nil, List.length_nil, Nat.zero_mul]
  | cons b l ih =>
    rw [List.flatMap_cons, List.length_append, length_natBytes, ih, List.length_cons, Nat.succ_mul, Nat.add_comm]

/-- A record is 256 bytes. -/
theorem length_recBytes (r : CRec) (tag unit src flags seq step0 nrec : Nat) :
    (recBytes r tag unit src flags seq step0 nrec).length = 256 := by
  simp only [recBytes, List.length_append, List.length_replicate, length_natBytes, length_flatMap_natBytes, List.length_range]

theorem ringAddr_mod (p : Nat) (x : Census) : ringAddr p x % 256 = 0 := by
  unfold ringAddr hbmWindow
  omega

theorem censusOf_putRecord (s : State) (p cls : Nat) (bs : List Byte) :
    censusOf (putRecord s p cls bs) p = { censusOf s p with head := (censusOf s p).head + 1 } := by
  unfold putRecord
  extract_lets x a written sealed
  have hw : censusOf written p = x := censusOf_apart s cls p fun _ => censusOf_hbmWrite _ _ _ _ _
  have hs : censusOf sealed p = x := by
    unfold sealed
    split
    · rw [censusOf_tileSeal, hw]
    · exact hw
  exact (censusOf_setCensus_self sealed p _).trans (congrArg (fun y : Census => { y with head := x.head + 1 }) hs)

theorem hbmRead_putRecord {s : State} (p cls : Nat) {bs : List Byte} (hm : Memory.wf s.hbm = true) (hl : bs.length = 256) :
    hbmRead (putRecord s p cls bs) (ringAddr p (censusOf s p)) 256 = bs := by
  unfold putRecord
  extract_lets x a written sealed
  have hw : hbmRead written a 256 = bs := by
    unfold written
    rw [apart_eq, hbmRead_allClosed]
    exact hbmRead_hbmWrite_line cls (s := allClosed s cls) hm (ringAddr_mod p x) hl
  rw [hbmRead_congr (s := sealed) (by rfl) (tip_setCensus _ _ _)]
  unfold sealed
  split
  · rw [hbmRead_tileSeal]
    exact hw
  · exact hw

/-! ### The oldest record (R92, R93) -/

theorem exec_censusRecordWrite {s : State} (p : Fin 8) (h : clocksRun s.dev = true) :
    exec (.censusRecordWrite p) s = .next (recordWrite s p) := congrArg Host.Outcome.next (if_pos h)

theorem ringHolds_of_disabled {s : State} {p : Nat} (h : ringEn (censusOf s p) = false) : ringHolds s p = none :=
  if_pos (by rw [h]; rfl)

theorem ringHolds_of_full {s : State} {p : Nat} (h : ringFull (censusOf s p) = true) : ringHolds s p = none :=
  if_pos (by rw [h, Bool.or_true])

/-- Record `r` is the oldest that waits, `rest` wait behind it, and nothing holds it back. -/
structure OldestReady (s : State) (p : Nat) (r : CRec) (rest : List CRec) : Prop where
  active : partActive s p = true
  free : unitHeld s (.census p) = false
  waiting : (censusOf s p).waiting = r :: rest
  granted : recShut s p r = false
  clear : ringHolds s p = none

/-- The sets whose round the record vetoes (R97). -/
def vetoedBy (s : State) (p : Nat) (r : CRec) : List Nat :=
  if crosses (censusOf s p) r && !r.fill && bitAt (censusOf s p).cthr1 31 then vetoSets s r.step else []

/-- The record waits no longer. -/
def recordTaken (s : State) (p : Nat) (rest : List CRec) : State := setCensus s p { censusOf s p with waiting := rest }

/-- The record waits no longer, and where it crosses a threshold its crossing has had its effects (R95). -/
def recordTested (s : State) (p : Nat) (r : CRec) (rest : List CRec) : State :=
  if crosses (censusOf s p) r then crossing (recordTaken s p rest) p r (vetoedBy s p r) else recordTaken s p rest

/-- A record tested goes into the ring, the accumulator of its format or nowhere (R92, R93). -/
def recordPlaced (s : State) (p : Nat) (r : CRec) (crossed vetoed : Bool) : State :=
  let x := censusOf s p
  if !ringEn x then s
  else if ringFull x then setCensus s p (mergeInto x r crossed vetoed)
  else putRecord s p (recClass r) (recBytes r r.tag r.unit r.src
    (b2n crossed + 2 * b2n (recFull r) + 4 * b2n r.fill + 8 * ringPhase x + 16 * b2n vetoed) x.head.toNat 0 0)

theorem recordWrite_eq {s : State} {p : Nat} {r : CRec} {rest : List CRec} (h : OldestReady s p r rest) :
    recordWrite s p =
      recordPlaced (recordTested s p r rest) p r (crosses (censusOf s p) r) (!(vetoedBy s p r).isEmpty) := by
  obtain ⟨ha, hf, hw, hg, hc⟩ := h
  simp only [recordWrite, ha, hf, hw, hc, List.find?_cons, hg, List.erase_cons_head, Bool.not_true, Bool.not_false, Bool.or_false,
    Bool.false_eq_true, if_false]
  rfl

section
variable {s : State} {p : Nat} {r : CRec} {rest : List CRec}

theorem censusOf_recordTaken : censusOf (recordTaken s p rest) p = { censusOf s p with waiting := rest } :=
  censusOf_setCensus_self s p _

theorem recordWrite_of_not_crossing (h : OldestReady s p r rest) (hc : crosses (censusOf s p) r = false) :
    recordWrite s p = recordPlaced (recordTaken s p rest) p r false false := by
  rw [recordWrite_eq h, recordTested, vetoedBy, hc]
  rfl

theorem recordPlaced_of_disabled {crossed vetoed : Bool} (h : ringEn (censusOf s p) = false) :
    recordPlaced s p r crossed vetoed = s := if_pos (by rw [h]; rfl)

theorem recordPlaced_of_full {crossed vetoed : Bool} (he : ringEn (censusOf s p) = true) (hf : ringFull (censusOf s p) = true) :
    recordPlaced s p r crossed vetoed = setCensus s p (mergeInto (censusOf s p) r crossed vetoed) := by
  simp [recordPlaced, he, hf]

theorem recordPlaced_of_space (he : ringEn (censusOf s p) = true) (hf : ringFull (censusOf s p) = false) :
    recordPlaced s p r false false = putRecord s p (recClass r) (recBytes r r.tag r.unit r.src
      (2 * b2n (recFull r) + 4 * b2n r.fill + 8 * ringPhase (censusOf s p)) (censusOf s p).head.toNat 0 0) := by
  simp [recordPlaced, he, hf, b2n]
end

/-! ### A crossing (R95-R97) -/

theorem updSets_eq (f : SetSt → SetSt) (l : List Nat) (s : State) :
    ∃ sets, l.foldl (fun s k => updSet s k f) s = { s with sets := sets } :=
  List.foldlRecOn (motive := fun t => ∃ sets, t = { s with sets := sets }) l _ ⟨_, rfl⟩
    fun _ ⟨_, h⟩ _ _ => ⟨_, by rw [h]; rfl⟩

/-- CROSS sets, and VETO where a round is vetoed. -/
def crossStat (x : Census) (veto : List Nat) : W32 := if veto.isEmpty then setBit x.cstat 0 else setBit (setBit x.cstat 0) 2

theorem bitAt_crossStat (x : Census) (veto : List Nat) : bitAt (crossStat x veto) 0 = true := by
  unfold crossStat
  split <;> simp [bitAt_setBit]

/-- The crossing reported, before any round is vetoed. -/
def crossReported (s : State) (p : Nat) (r : CRec) (veto : List Nat) : State :=
  let x := censusOf s p
  let s := setCensus s p { x with cstat := crossStat x veto }
  let s := if bitAt x.cthr1 30 then raiseVector s 17 else s
  if r.fill then s else sendPost s (.census p) false (bits x.cthr1 21 16)

theorem crossing_eq (s : State) (p : Nat) (r : CRec) (veto : List Nat) :
    ∃ sets, crossing s p r veto = { crossReported s p r veto with sets := sets } := updSets_eq _ veto _

section
variable (s : State) (p : Nat) (r : CRec) (veto : List Nat)

theorem censusOf_crossing :
    censusOf (crossing s p r veto) p = { censusOf s p with cstat := crossStat (censusOf s p) veto } := by
  obtain ⟨sets, h⟩ := crossing_eq s p r veto
  have hm : (crossing s p r veto).mem = (setCensus s p { censusOf s p with cstat := crossStat (censusOf s p) veto }).mem := by
    rw [h, crossReported]
    split <;> split <;> simp [sendPost]
  rw [censusOf_congr hm, censusOf_setCensus_self]

theorem tok_crossing : (crossing s p r veto).tok =
    if r.fill then s.tok
    else { s.tok with flight := s.tok.flight ++ [⟨.census p, false, bits (censusOf s p).cthr1 21 16, 0⟩] } := by
  obtain ⟨sets, h⟩ := crossing_eq s p r veto
  rw [h, crossReported]
  split <;> split <;> simp [sendPost, setCensus]

theorem bitAt_irqStat_crossing (h : bitAt (censusOf s p).cthr1 30 = true) :
    bitAt (crossing s p r veto).cxl.irqStat 17 = true := by
  obtain ⟨sets, e⟩ := crossing_eq s p r veto
  rw [e, crossReported, if_pos h]
  split <;> simp [sendPost, bitAt_raiseVector]
end

/-! ### A merge (R92, R94) -/

theorem toNat_ofNat_satInc (v : W32) : (BitVec.ofNat 32 (satInc 0xFFFFFFFF v.toNat)).toNat = satInc 0xFFFFFFFF v.toNat := by
  refine Nat.mod_eq_of_lt ?_
  have := v.isLt
  unfold satInc
  split <;> omega

theorem covf_mergeInto (x : Census) (r : CRec) (crossed veto : Bool) :
    (mergeInto x r crossed veto).covf.toNat = satInc 0xFFFFFFFF x.covf.toNat := toNat_ofNat_satInc x.covf

theorem nrec_mergeInto (x : Census) (r : CRec) (crossed veto : Bool) :
    (Tbl.get (mergeReset r.fmt) (mergeInto x r crossed veto).merge r.fmt).nrec =
      (Tbl.get (mergeReset r.fmt) x.merge r.fmt).nrec + 1 := congrArg MergeAcc.nrec (Tbl.get_set_self _ _ _ _)

theorem exec_censusMergeWrite {s : State} (p : Fin 8) (h : clocksRun s.dev = true) :
    exec (.censusMergeWrite p) s = .next (mergeWrite s p) := congrArg Host.Outcome.next (if_pos h)

/-- With space and no record waiting, the first accumulator that holds records goes into the ring. -/
theorem mergeWrite_of_space {s : State} {p f : Nat} {m : MergeAcc} {rest : Tbl MergeAcc} (ha : partActive s p = true)
    (he : ringEn (censusOf s p) = true) (hf : ringFull (censusOf s p) = false) (hc : ringHolds s p = none)
    (hw : (censusOf s p).waiting = []) (hm : (censusOf s p).merge.filter (fun e => e.2.nrec != 0) = (f, m) :: rest) :
    ∃ bs, mergeWrite s p = putRecord (setCensus s p { censusOf s p with merge := Tbl.del (censusOf s p).merge f }) p 0 bs := by
  simp only [mergeWrite, ha, he, hf, hw, hm, hc]
  exact ⟨_, rfl⟩

/-! ### What becomes of a record -/

section
variable {s : State} {p : Nat} {r : CRec} {rest : List CRec}

theorem recordWrite_drops (h : OldestReady s p r rest) (he : ringEn (censusOf s p) = false)
    (hc : crosses (censusOf s p) r = false) : recordWrite s p = setCensus s p { censusOf s p with waiting := rest } := by
  rw [recordWrite_of_not_crossing h hc, recordPlaced_of_disabled (by rw [censusOf_recordTaken]; exact he), recordTaken]

theorem recordWrite_rings (h : OldestReady s p r rest) (hwf : Memory.wf s.hbm = true) (he : ringEn (censusOf s p) = true)
    (hf : ringFull (censusOf s p) = false) (hc : crosses (censusOf s p) r = false) :
    censusOf (recordWrite s p) p = { censusOf s p with waiting := rest, head := (censusOf s p).head + 1 } ∧
      hbmRead (recordWrite s p) (ringAddr p (censusOf s p)) 256 = recBytes r r.tag r.unit r.src
        (2 * b2n (recFull r) + 4 * b2n r.fill + 8 * ringPhase (censusOf s p)) (censusOf s p).head.toNat 0 0 := by
  have hx : censusOf (recordTaken s p rest) p = { censusOf s p with waiting := rest } := censusOf_recordTaken
  rw [recordWrite_of_not_crossing h hc, recordPlaced_of_space (by rw [hx]; exact he) (by rw [hx]; exact hf), censusOf_putRecord, hx]
  refine ⟨rfl, ?_⟩
  have hr := hbmRead_putRecord (s := recordTaken s p rest) p (recClass r) hwf (length_recBytes r r.tag r.unit r.src
    (2 * b2n (recFull r) + 4 * b2n r.fill + 8 * ringPhase (censusOf s p)) (censusOf s p).head.toNat 0 0)
  rwa [hx] at hr

theorem recordWrite_merges (h : OldestReady s p r rest) (he : ringEn (censusOf s p) = true)
    (hf : ringFull (censusOf s p) = true) (hc : crosses (censusOf s p) r = false) :
    recordWrite s p = setCensus (recordTaken s p rest) p (mergeInto { censusOf s p with waiting := rest } r false false) := by
  have hx : censusOf (recordTaken s p rest) p = { censusOf s p with waiting := rest } := censusOf_recordTaken
  rw [recordWrite_of_not_crossing h hc, recordPlaced_of_full (by rw [hx]; exact he) (by rw [hx]; exact hf), hx]

theorem recordWrite_crosses (h : OldestReady s p r rest) (he : ringEn (censusOf s p) = false)
    (hc : crosses (censusOf s p) r = true) : recordWrite s p = crossing (recordTaken s p rest) p r (vetoedBy s p r) := by
  have ht : recordTested s p r rest = crossing (recordTaken s p rest) p r (vetoedBy s p r) := if_pos hc
  rw [recordWrite_eq h, ht, recordPlaced_of_disabled (by rw [censusOf_crossing, censusOf_recordTaken]; exact he)]
end

/-- Settles O40: each clause is one case of what becomes of the oldest record, and a merged record goes the same way into the
ring. -/
theorem censusRecords : Obligations.CensusRecords := by
  refine ⟨fun s p r rest hrun hwf ha hu hw hg => ?_, fun s p f m rest hrun ha he hf hh hw hm => ?_⟩
  · have ready (hh : ringHolds s p = none) : OldestReady s p r rest := ⟨ha, hu, hw, hg, hh⟩
    have hx : censusOf (recordTaken s p rest) p = { censusOf s p with waiting := rest } := censusOf_recordTaken
    rw [exec_censusRecordWrite p hrun]
    refine ⟨fun he hc => ?_, fun he hf hh hc => ⟨_, rfl, recordWrite_rings (ready hh) hwf he hf hc⟩,
      fun he hf hc => ⟨_, rfl, ?_⟩, fun he hc => ⟨_, rfl, ?_⟩⟩
    -- dropped
    · rw [recordWrite_drops (ready (ringHolds_of_disabled he)) he hc]
    -- merged
    · rw [recordWrite_merges (ready (ringHolds_of_full hf)) he hf hc, censusOf_setCensus_self]
      exact ⟨rfl, rfl, covf_mergeInto _ r _ _, nrec_mergeInto _ r _ _, rfl⟩
    -- crossing
    · rw [recordWrite_crosses (ready (ringHolds_of_disabled he)) he hc, censusOf_crossing, tok_crossing, hx]
      refine ⟨bitAt_crossStat _ _, rfl, fun hi => bitAt_irqStat_crossing _ p r _ (by rw [hx]; exact hi), fun hfill => ?_,
        fun hfill => ?_⟩ <;> rw [hfill] <;> rfl
  · obtain ⟨bs, hb⟩ := mergeWrite_of_space ha he hf hh hw hm
    refine ⟨_, exec_censusMergeWrite p hrun, ?_⟩
    rw [hb, censusOf_putRecord, censusOf_setCensus_self]
    exact ⟨rfl, rfl, rfl⟩

end Sys2Proof.Machine
end

section
namespace Sys2Proof.Machine

/-!
PROOFS. The actions of an element engine. Tiles taken and tiles released change the states of their banks alone, one tile after
the other (`changeTiles`), so both are read back by one lemma; a row read is said once of the engine (`RowRead`); outputs are
bytes of different addresses, which read back from a canonical memory (`memGet_landBytes`).
-/

/-! ### How actions begin (R107, R117, R119) -/

theorem busTake_of_busFirst {s : State} {u : BusUnit} {b : BusAct} (h : busFirst s u = some b) : busTake s u = offBus s b := by
  rw [busTake, h]
  rfl

/-- Whether streams are in range rests on the fill context, not on the bus. -/
theorem eleErrBits_offBus (s : State) (b : BusAct) : eleErrBits (offBus s b) = eleErrBits s := rfl

section
variable {s : State} {eng : Nat} {b : BusAct} {e : EleEntry} {is : List FInstr} {ks : List Val}

theorem elementIssue_sync (hf : busFirst s (.element eng) = some b) (hb : busElement b = some (some (e, is, ks)))
    (ho : e.op = .sync) (hq : eleQuiet (engineOf s eng) = true) : elementIssue s eng .sync = offBus s b := by
  simp only [elementIssue, hf, hb, ho, hq, busTake_of_busFirst hf, ne_eq, not_true_eq_false, if_true, if_false]

/-- A RUN or DRAIN that the engine lets in and whose checks pass enters it, a DRAIN without rows. -/
theorem elementIssue_begins (hf : busFirst s (.element eng) = some b) (hb : busElement b = some (some (e, is, ks)))
    (hs : e.op ≠ .sync) (hfree : eleFree (engineOf s eng) b.fill = true) (hslow : (b.fill && decide (32 < rowCycles e is)) = false)
    (herr : e.op = .run → eleErrBits s e is b.fill b.delta (if e.rowsrc then b.span else e.rows) = 0) :
    elementIssue s eng e.op =
      eleBegin (offBus s b) eng b e is ks (if e.op = .run then (if e.rowsrc then b.span else e.rows) else 0) := by
  have hbits : (if e.op = .run then eleErrBits (offBus s b) e is b.fill b.delta (if e.rowsrc then b.span else e.rows)
      else 0) = 0 := by
    rw [eleErrBits_offBus]
    exact ite_eq_right_iff.2 herr
  simp only [elementIssue, hf, hb, hfree, busTake_of_busFirst hf, hbits, hslow, hs, ne_eq, not_true_eq_false, Bool.not_true,
    Bool.false_eq_true, if_false]
  rfl

/-- An accepted action joins the engine's actions at their end. -/
theorem eleBegin_of_serves {rows : Nat} (h : mustWait s (eng / 10) b.fill = false) :
    ∃ a, BecomesEngine s (eleBegin s eng b e is ks rows) eng { engineOf s eng with eles := (engineOf s eng).eles ++ [a] } ∧
      a.ent = e ∧ a.rows = rows ∧ a.row = 0 ∧ a.tiles = [] ∧ a.taken = (e.op == .run) ∧ a.fill = b.fill := by
  unfold eleBegin
  extract_lets x act
  rw [h, if_neg Bool.false_ne_true]
  exact ⟨act, .setEngine s eng _, rfl, rfl, rfl, rfl, rfl, rfl⟩
end

theorem elementActionsBegin : ElementActionsBegin := by
  intro s e b x is ks hc hg hf hb rows bus' serves slow
  refine ⟨fun ho hs hfree hslow herr => ?_, fun ho hs hfree hslow => ?_, fun ho hq => ?_⟩
  -- RUN
  · have hi := elementIssue_begins hf hb (by simp [ho]) hfree hslow fun _ => herr
    rw [ho, if_pos rfl] at hi
    obtain ⟨a, ht, hent, hrows, hrow, -, htaken, hfill⟩ :=
      eleBegin_of_serves (s := offBus s b) (e := x) (is := is) (ks := ks) (rows := rows) hs
    refine ⟨_, a, exec_of_running (c := .elementRun e) rfl hc hg, ?_⟩
    rw [hi, ht.engine]
    exact ⟨ht.bus, rfl, hent, hrows, hrow, by rw [htaken, ho]; rfl, hfill, ht.sram, ht.hbm⟩
  -- DRAIN
  · have hi := elementIssue_begins hf hb (by simp [ho]) hfree hslow (by simp [ho])
    rw [ho] at hi
    obtain ⟨a, ht, hent, -, -, htiles, htaken, hfill⟩ :=
      eleBegin_of_serves (s := offBus s b) (e := x) (is := is) (ks := ks) (rows := 0) hs
    refine ⟨_, a, exec_of_running (c := .elementDrain e) rfl hc hg, ?_⟩
    rw [hi, if_neg (by decide), ht.engine]
    exact ⟨ht.bus, rfl, hent, by rw [htaken, ho]; rfl, htiles, hfill, rfl, ht.sram, ht.hbm⟩
  -- SYNC
  · rw [← show offBus s b = { s with bus := bus' } from rfl, ← elementIssue_sync hf hb ho hq]
    exact exec_of_running (c := .elementSync e) rfl hc hg

/-! ### Tiles taken and released (R78, R106, R107) -/

/-- The array of every descriptor of a list changed by `f`, in the list's order. -/
def changeTiles (f : Desc → Arr → Arr) (x : Engine) (ds : List Desc) : Engine :=
  ds.foldl (fun x d => setArr x d.array (f d (arrOf x d.array))) x

theorem changeTiles_concat (f : Desc → Arr → Arr) (x : Engine) (ds : List Desc) (d : Desc) :
    changeTiles f x (ds ++ [d]) = setArr (changeTiles f x ds) d.array (f d (arrOf (changeTiles f x ds) d.array)) := by
  simp [changeTiles]

theorem changeTiles_rest (f : Desc → Arr → Arr) (x : Engine) (ds : List Desc) :
    changeTiles f x ds = { x with arrs := (changeTiles f x ds).arrs } := by
  induction ds using concatInduction with
  | nil => rfl
  | append_singleton ds d ih =>
    rw [changeTiles_concat, ih]
    rfl

theorem changeTiles_eles (f : Desc → Arr → Arr) (x : Engine) (ds : List Desc) : (changeTiles f x ds).eles = x.eles := by
  rw [changeTiles_rest]

/-- Where `f` puts the bank of its descriptor into state `v` and leaves the other bank, every bank of the list is in `v`. -/
theorem bankState_changeTiles {f : Desc → Arr → Arr} {v : BankSt}
    (hf : ∀ d r bank, bankState (f d r) bank = if bank = d.bank then v else bankState r bank) (x : Engine)
    {ds : List Desc} {d : Desc} (h : d ∈ ds) : bankState (arrOf (changeTiles f x ds) d.array) d.bank = v := by
  induction ds using concatInduction with
  | nil => exact absurd h List.not_mem_nil
  | append_singleton ds c ih =>
    rw [List.mem_append, List.mem_singleton] at h
    rw [changeTiles_concat]
    by_cases ha : d.array = c.array
    · rw [ha, arrOf_setArr_self, hf]
      by_cases hb : d.bank = c.bank
      · rw [if_pos hb]
      · rw [if_neg hb, ← ha]
        exact ih (h.resolve_right fun e => hb (congrArg Desc.bank e))
    · rw [arrOf_setArr_ne _ _ ha]
      exact ih (h.resolve_right fun e => ha (congrArg Desc.array e))

theorem bankState_setBank (r : Arr) (bank k : Bool) (v : BankSt) :
    bankState (setBank r bank v) k = if k = bank then v else bankState r k := by
  cases bank <;> cases k <;> rfl

/-- The array as a drain takes one of its tiles. -/
def tileTaken (d : Desc) (r : Arr) : Arr := setBank r d.bank .draining

/-- The array as one of its tiles is released. -/
def tileReleased (d : Desc) (r : Arr) : Arr :=
  let r := setBank r d.bank .free
  if d.fill then { r with fillHeld := r.fillHeld &&& (3 ^^^ (1 <<< b2n d.bank)) } else r

theorem bankState_tileTaken (d : Desc) (r : Arr) (bank : Bool) :
    bankState (tileTaken d r) bank = if bank = d.bank then .draining else bankState r bank := bankState_setBank ..

theorem bankState_tileReleased (d : Desc) (r : Arr) (bank : Bool) :
    bankState (tileReleased d r) bank = if bank = d.bank then .free else bankState r bank := by
  rw [← bankState_setBank, tileReleased]
  split <;> rfl

theorem bankState_releaseTiles (x : Engine) {ds : List Desc} {d : Desc} (h : d ∈ ds) :
    bankState (arrOf (releaseTiles x ds) d.array) d.bank = .free := bankState_changeTiles bankState_tileReleased x h

theorem releaseTiles_eles (x : Engine) (ds : List Desc) : (releaseTiles x ds).eles = x.eles := changeTiles_eles tileReleased x ds

theorem behindPrimary_of_all_fill {x : Engine} {a : EleAct} (h : a.fill = true → ∀ b ∈ x.eles, b.fill = true) :
    behindPrimary x a = false := by
  cases ha : a.fill
  · rw [behindPrimary, ha, Bool.false_and]
  · rw [behindPrimary, ha, Bool.true_and]
    exact List.any_eq_false.2 fun b hb => by simp [h ha b hb]

/-- Rows of the region that a drain of these descriptors reads. -/
def regionRows (ds : List Desc) : Nat := match ds with | d :: _ => drainRows d | [] => 0

/-- The engine once drain `a`, its action `i`, has taken descriptors `ds`. -/
def descsTaken (x : Engine) (a : EleAct) (i : Nat) (ds : List Desc) : Engine :=
  let y := changeTiles tileTaken x ds
  { y with
    eles := y.eles.set i { a with tiles := ds, taken := true, rows := regionRows ds }
    queue := y.queue.filter (fun d => !ds.contains d)
    lastSeq := match ds.getLast? with | some d => d.seq | none => y.lastSeq }

theorem descsTaken_eles (x : Engine) (a : EleAct) (i : Nat) (ds : List Desc) :
    (descsTaken x a i ds).eles = x.eles.set i { a with tiles := ds, taken := true, rows := regionRows ds } := by
  simp only [descsTaken, changeTiles_eles]

theorem takeDescriptors_of_ready {s : State} {eng : Nat} {a : EleAct} {i : Nat} {ds : List Desc}
    (ha : (engineOf s eng).eles.zipIdx.find? (fun p => !p.1.taken && !p.1.dead) = some (a, i))
    (hds : ((engineOf s eng).queue.filter (fun d => d.fill == a.fill)).take a.ent.tiles = ds) (hlen : ds.length = a.ent.tiles)
    (hp : behindPrimary (engineOf s eng) a = false) (hd : descsDiffer ds = false)
    (herr : eleErrBits s a.ent a.instrs a.fill a.delta (regionRows ds) = 0) :
    takeDescriptors s eng = setEngine s eng (descsTaken (engineOf s eng) a i ds) := by
  have hgo : ¬(decide (ds.length < a.ent.tiles) || behindPrimary (engineOf s eng) a) = true := by simp [hlen, hp]
  have hbits : ¬eleErrBits s a.ent a.instrs a.fill a.delta (regionRows ds) + 2 * b2n (descsDiffer ds) ≠ 0 := by
    simp [herr, hd, b2n]
  unfold takeDescriptors
  simp only [ha, hds]
  rw [if_neg hgo]
  exact if_neg hbits

/-! ### Rows read (R78, R107) -/

theorem fillDrained_rest (x : Engine) (ds : List Desc) :
    fillDrained x ds = { x with acts := (fillDrained x ds).acts, undrained := (fillDrained x ds).undrained } := by
  unfold fillDrained
  refine List.foldlRecOn (motive := fun y : Engine => y = { x with acts := y.acts, undrained := y.undrained }) ds _ rfl
    fun y hy d _ => ?_
  dsimp only
  split <;> rw [hy]

/-- What a row read of action `a`, action `i` of engine `x`, makes of that engine: the action a row further on, and with its last
row its tiles' banks free. -/
structure RowRead (x y : Engine) (i : Nat) (a : EleAct) : Prop where
  eles : ∃ v, y.eles = x.eles.set i v ∧ v.row = a.row + 1 ∧ v.rows = a.rows ∧ v.ent = a.ent
  released : a.row + 1 = a.rows → ∀ d ∈ a.tiles, bankState (arrOf y d.array) d.bank = .free

theorem readRow_becomes (s : State) (eng i : Nat) (a : EleAct) :
    ∃ y, BecomesEngine s (readRow s eng i a) eng y ∧ RowRead (engineOf s eng) y i a := by
  unfold readRow
  extract_lets x vals outs t2 recs bytes a' x1 released x2
  have h : x2.eles = x1.eles ∧ (a.row + 1 = a.rows → ∀ d ∈ a.tiles, bankState (arrOf x2 d.array) d.bank = .free) := by
    unfold x2
    split
    · have hreleased : released.eles = x1.eles ∧ ∀ d ∈ a.tiles, bankState (arrOf released d.array) d.bank = .free :=
        ⟨releaseTiles_eles x1 a.tiles, fun d => bankState_releaseTiles x1⟩
      obtain ⟨heles, hfree⟩ := hreleased
      split
      · rw [fillDrained_rest]
        exact ⟨heles, fun _ => hfree⟩
      · exact ⟨heles, fun _ => hfree⟩
    · next hlast => exact ⟨rfl, fun h => absurd h hlast⟩
  refine ⟨x2, (BecomesEngine.setEngine s eng x2).reportsOnly ((ReportsOnly.refl _).foldl (fun _ _ h => ?_) _),
    ⟨a', h.1, rfl, rfl, rfl⟩, h.2⟩
  exact (h.sramCorrected _ _).sramCorrected _ _

theorem eleRowRead_of_ready {s : State} {eng : Nat} {a : EleAct} {i : Nat}
    (ha : (engineOf s eng).eles.zipIdx.find? (fun p => eleReading p.1) = some (a, i)) (ht : a.taken = true)
    (hu : rowUnwritten (engineOf s eng) a = false) (hp : behindPrimary (engineOf s eng) a = false) (hc : rowPoisoned s a = none) :
    eleRowRead s eng = readRow s eng i a := by
  simp only [eleRowRead, ha, ht, hu, hp, hc, Bool.not_true, Bool.or_false, Bool.false_eq_true, if_false]

/-! ### Outputs landed (R120) -/

/-- Bytes written one after the other. -/
def landBytes (m : Mem) (ws : List (Nat × Byte)) : Mem := ws.foldl (fun m w => memSet m w.1 w.2) m

theorem memGet_landBytes_ne {ws : List (Nat × Byte)} {k : Nat} (h : k ∉ ws.map (·.1)) (m : Mem) :
    memGet (landBytes m ws) k = memGet m k := by
  induction ws generalizing m with
  | nil => rfl
  | cons w ws ih =>
    rw [List.map_cons, List.mem_cons, not_or] at h
    exact (ih h.2 _).trans (memGet_memSet_ne w.2 h.1)

/-- Bytes of different addresses all read back from a canonical memory. -/
theorem memGet_landBytes {ws : List (Nat × Byte)} (hn : (ws.map (·.1)).Nodup) {m : Mem} (hm : Memory.wf m = true) :
    ∀ w ∈ ws, memGet (landBytes m ws) w.1 = w.2 := by
  induction ws generalizing m with
  | nil => simp
  | cons w ws ih =>
    obtain ⟨hw, hn⟩ := List.nodup_cons.1 hn
    intro v hv
    rcases List.mem_cons.1 hv with rfl | hv
    · exact (memGet_landBytes_ne hw _).trans (memGet_memSet_self v.1 v.2 hm)
    · exact ih hn (memSet_wf w.1 w.2 hm) v hv

/-- Bytes put into SRAM change the SRAM as a memory does, and of the rest poison and single-bit errors alone. -/
theorem sramPut_eq (s : State) (ws : List (Nat × Byte)) :
    ∃ poison flips, sramPut s ws = { s with sram := landBytes s.sram ws, sramPoison := poison, sramFlips := flips } := by
  induction ws generalizing s with
  | nil => exact ⟨_, _, rfl⟩
  | cons w ws ih => exact ih (sramWrite s w.1 [w.2])

theorem clearCovered_eq (s : State) (ws : List (Nat × Byte)) : ∃ poison, clearCovered s ws = { s with sramPoison := poison } := by
  unfold clearCovered
  split
  · exact ⟨_, rfl⟩
  · exact ⟨_, rfl⟩

/-- The engine once its oldest outputs have left it. -/
def outputTaken (x : Engine) (rest : List EleOut) : Engine := { x with outs := rest, eles := writeLanded x.eles }

theorem eleOutputWrite_of_outs {s : State} {eng : Nat} {o : EleOut} {rest : List EleOut} (h : (engineOf s eng).outs = o :: rest) :
    ∃ poison flips, eleOutputWrite s eng = { setEngine s eng (outputTaken (engineOf s eng) rest) with
      sram := landBytes s.sram o.bytes, sramPoison := poison, sramFlips := flips } := by
  have he : eleOutputWrite s eng =
      clearCovered (sramPut (setEngine s eng (outputTaken (engineOf s eng) rest)) o.bytes) o.bytes := by
    simp only [eleOutputWrite, h]
    rfl
  obtain ⟨p, flips, hp⟩ := sramPut_eq (setEngine s eng (outputTaken (engineOf s eng) rest)) o.bytes
  obtain ⟨poison, hq⟩ := clearCovered_eq (sramPut (setEngine s eng (outputTaken (engineOf s eng) rest)) o.bytes) o.bytes
  exact ⟨poison, flips, by rw [he, hq, hp]; rfl⟩

/-! ### Actions complete (R91) -/

/-- Records in the order of a table wait behind those that waited. -/
theorem waiting_foldl_pushCensus (s : State) (p : Nat) (recs : Tbl CRec) :
    (censusOf (recs.foldl (fun s r => pushCensus s p r.2) s) p).waiting = (censusOf s p).waiting ++ recs.map (·.2) := by
  induction recs generalizing s with
  | nil => exact (List.append_nil _).symm
  | cons r recs ih =>
    have h : (censusOf (pushCensus s p r.2) p).waiting = (censusOf s p).waiting ++ [r.2] :=
      congrArg (fun m : MemSide => m.census.waiting) (memOf_setMem_self s p _)
    rw [List.foldl_cons, ih, h, List.append_assoc]
    rfl

section
variable {s : State} {eng : Nat} {a : EleAct} {rest : List EleAct}

theorem eleComplete_of_done (h : (engineOf s eng).eles = a :: rest) (hr : eleReading a = false) (hw : eleWriting a = false) :
    eleComplete s eng = (if a.dead then [] else a.recs).foldl (fun s r => pushCensus s (eng / 10) r.2)
      (setEngine s eng { engineOf s eng with eles := rest }) := by
  simp only [eleComplete, h, hr, hw, Bool.or_false, Bool.false_eq_true, if_false]
  split <;> rfl

theorem eleComplete_becomes (h : (engineOf s eng).eles = a :: rest) (hr : eleReading a = false) (hw : eleWriting a = false) :
    BecomesEngine s (eleComplete s eng) eng { engineOf s eng with eles := rest } := by
  rw [eleComplete_of_done h hr hw]
  exact (BecomesEngine.setEngine s eng _).reportsOnly ((ReportsOnly.refl _).foldl (fun _ _ h => h.pushCensus _ _) _)

theorem waiting_eleComplete (h : (engineOf s eng).eles = a :: rest) (hr : eleReading a = false) (hw : eleWriting a = false) :
    (censusOf (eleComplete s eng) (eng / 10)).waiting =
      (censusOf s (eng / 10)).waiting ++ (if a.dead then [] else a.recs.map (·.2)) := by
  rw [eleComplete_of_done h hr hw, waiting_foldl_pushCensus]
  cases a.dead <;> rfl
end

theorem elementSteps : ElementSteps := by
  refine ⟨fun s e a i hc hg ha => ?_, fun s e a i hc hg ha ht _ hu hb hcl => ?_, fun s e o rest hc hg ho hwf hn => ?_,
    fun s e a rest hc hg hl hr hw => ?_⟩
  -- a drain takes its descriptors
  · intro ds rows hlen hb hd herr
    have hds := takeDescriptors_of_ready ha rfl hlen (behindPrimary_of_all_fill hb) hd herr
    refine ⟨_, exec_of_running (c := .drainDescriptorsTaken e) rfl hc hg, ?_⟩
    rw [hds, engineOf_setEngine_self]
    refine ⟨descsTaken_eles .., fun d hd => bankState_changeTiles bankState_tileTaken (engineOf s e) hd, fun d hd => ?_, rfl⟩
    simpa using (List.mem_filter.1 hd).2
  -- a row is read
  · obtain ⟨y, hy, hrow⟩ := readRow_becomes s e i a
    obtain ⟨v, hv, hvrow, hvrows, hvent⟩ := hrow.eles
    refine ⟨_, v, exec_of_running (c := .elementRowRead e) rfl hc hg, ?_⟩
    rw [eleRowRead_of_ready ha ht hu (behindPrimary_of_all_fill hb) hcl, hy.engine]
    exact ⟨hv, hvrow, hvrows, hvent, hy.sram, hrow.released⟩
  -- outputs land
  · obtain ⟨poison, flips, hout⟩ := eleOutputWrite_of_outs ho
    have hx : engineOf (eleOutputWrite s e) e = outputTaken (engineOf s e) rest := by
      rw [hout]
      exact engineOf_setEngine_self ..
    refine ⟨_, exec_of_running (c := .elementOutputWrite e) rfl hc hg, ?_⟩
    rw [hx, hout]
    exact ⟨rfl, memGet_landBytes hn hwf, fun k hk => memGet_landBytes_ne hk s.sram, rfl⟩
  -- the oldest action completes
  · have hx := eleComplete_becomes hl hr hw
    refine ⟨_, exec_of_running (c := .elementActionComplete e) rfl hc hg, ?_⟩
    rw [hx.engine]
    exact ⟨rfl, waiting_eleComplete hl hr hw, hx.sram⟩

/-- Settles O34: the actions of an element engine begin as `elementIssue` lets them in, and run as the lemmas on one engine say. -/
theorem elementActions : Obligations.ElementActions := ⟨elementActionsBegin, elementSteps⟩

end Sys2Proof.Machine
end
